-- ==== Sys2Proof/Word.lean ====
section
/-! DEFINITION. The word types of the part (R1) and their plainest arithmetic. -/

namespace Sys2Proof

/-- A byte of memory. -/
abbrev Byte := BitVec 8
/-- A register slot of a lane, and a word of a fetch line (R14, R42). -/
abbrev W32 := BitVec 32
/-- A scalar register (R155). -/
abbrev W64 := BitVec 64

/-- A bit as a number. -/
def bit (b : Bool) : Nat := if b then 1 else 0

end Sys2Proof
end

