-- ==== Sys2Proof/Syntax.lean ====
section
/-! DEFINITION. The syntax: one constructor of Instr for each row of the table of operations and
events. The rows are the steps of the part: the instructions of groups and cols, in their short
(R50) and long (R51) forms, and the steps of the hardware, the host, the network and the service
kernel, which have no encoding. -/

namespace Sys2Proof

/-- An operand specifier (R55). -/
inductive Spec where
  | v (n : Fin 64) | q (n : Fin 16) | s (n : Fin 32)
  | zero | lane | width | live | home | slice | root | team
  | one | two | four | eight | neg1 | half | oneF | lit
  deriving DecidableEq, Repr

/-- The sixteen element types (R62), in the order of their codes. -/
inductive Ty where
  | i32 | n32 | i64 | n64 | i16 | n16 | i8 | n8 | f32 | f64 | h16 | b16 | f8e4 | f8e5 | ds8 | x32
  deriving DecidableEq, Repr

/-- The rounding field (R63); code 111 is reserved and has no constructor. -/
inductive Rnd where
  | rne | rz | rdn | rup | rna | sr | md
  deriving DecidableEq, Repr

/-- The guard field of the long form (R51): index 0 with inv false means all live lanes, index 0
with inv true is reserved. -/
structure Guard where
  inv : Bool
  idx : Fin 32
  deriving DecidableEq, Repr

/-- The fields of a short form (R50). -/
structure SF where
  sw : Bool
  g : Bool
  dst : Spec
  sa : Spec
  sb : Spec
  deriving DecidableEq, Repr

/-- The fields of a long form (R51), with its literal in the 96-bit form (R54). -/
structure LF where
  sw : Bool
  lit : Option W32
  dst : Spec
  sa : Spec
  ext : BitVec 5
  sb : Spec
  sc : Spec
  guard : Guard
  ty : Ty
  rnd : Rnd
  mod : BitVec 5
  deriving DecidableEq, Repr

/-- An agent that issues instructions: a resident group, by the model's number of it, or a col
(0-47, R324). -/
inductive Agent where
  | group (id : Nat)
  | col (n : Nat)
  deriving DecidableEq, Repr

/-- The port through which an outside request came (R426). -/
inductive Port where
  | host | management
  deriving DecidableEq, Repr

/-- The other Ethernet traffic of R351. -/
inductive FrameKind where
  | icmpv6 | neighbour | socket | ieee1588
  deriving DecidableEq, Repr

/-- A received frame that is not Pyxlink (R351). -/
structure Frame where
  port : Nat
  kind : FrameKind
  bytes : List Byte
  deriving DecidableEq, Repr

/-- A host requester's access to module memory (R152): a read of len bytes, or a write of data. -/
structure HostReq where
  addr : Nat
  len : Nat
  data : Option (List Byte)
  deriving DecidableEq, Repr

/-- A host access to BAR0 (R427); val is none for a read. -/
structure BarWrite where
  off : Nat
  width : Nat
  val : Option W64
  deriving DecidableEq, Repr

/-- An NVMe device's completion of a submitted command (R333, R388). -/
structure NvmeDone where
  cmd : Nat
  sct : Nat
  sc : Nat
  data : List Byte
  deriving DecidableEq, Repr

/-- What a finished ageing measurement found (R422, R423 kind 4): the slack at FMAX and at each
lower step, the rated margin and the temperature; early when a placement ended it. -/
structure AgeResult where
  island : Nat
  early : Bool
  slackPs : List Int
  marginPs : Nat
  degC : Int
  deriving DecidableEq, Repr

/-- The kinds of a Pyxlink packet (R353). -/
inductive PktKind where
  | put | puti | add | getreq | getrsp | atomreq | atomrsp | ack | nak | busy | openReq | openack
  deriving DecidableEq, Repr

/-- A Pyxlink packet (R352), with its extension as numbers: ext0 and ext1 are the 8-byte values of
the extension of R353, in order. -/
structure NetPkt where
  port : Nat
  kind : PktKind
  retrans : Bool
  sig : Bool
  done : Bool
  ce : Bool
  path : Nat
  optTy : Nat
  optOp : Nat
  dconn : Nat
  msn : Nat
  pidx : Nat
  pcnt : Nat
  win : Nat
  status : Nat
  gen : Nat
  key : Nat
  plen : Nat
  roff : Nat
  ext0 : Nat
  ext1 : Nat
  payload : List Byte
  /-- not of its bytes: the IPv6 address and the UDP port that it came from -/
  srcAddr : Nat := 0
  srcPort : Nat := 0
  /-- not of its bytes: the messages, by connection and number, that its sender had seen complete before a fence that this
  message's operation follows (R151, R153) -/
  after : List (Nat × Nat) := []
  deriving DecidableEq, Repr

/-- What a step of the hardware, the host, the network or the service kernel acts on: the operands
that an instruction carries in its fields and an event carries beside it. -/
inductive EvArg where
  | none
  /-- a queue, quadrant, group, context, col, tenant, operation or list position -/
  | nat (n : Nat)
  /-- an operation and a part of it; a group and a bank -/
  | nat2 (a b : Nat)
  | agent (a : Agent)
  | agentIdx (a : Agent) (k : Nat)
  /-- the value written to a register -/
  | word (v : W64)
  | natWord (n : Nat) (v : W64)
  | pkt (p : NetPkt)
  /-- a Pyxlink packet as it arrives at a port: the sender's address and UDP port, a CE mark, the UDP payload, and the messages
  that the sender's fences put before it -/
  | udp (port addr src : Nat) (ce : Bool) (bytes : List Byte) (after : List (Nat × Nat))
  | frame (f : Frame)
  | hostReq (r : HostReq)
  | bar (w : BarWrite)
  | nvme (c : NvmeDone)
  | age (m : AgeResult)
  /-- the grandmaster's time, in nanoseconds from the IEEE 1588 epoch, and its UTC offset (R381, R382) -/
  | lock (t : Nat) (utcOffset : Option Nat)
  | bytes (d : List Byte)
  | report (port : Port) (nonce : List Byte)
  | logRead (port : Port) (idx : Nat)
  | raw (port : Nat) (d : List Byte)
  | bins (die : Nat) (degC : Int) (mV : Nat)
  /-- a storage error (R424): the die, the structure's code, whether it is corrected; where it is: an address of the model's map
  of storage, or for code 5 a position among the teams and quadrant × 64 + tile, for code 8 a position in the buffer -/
  | upset (die code : Nat) (corrected : Bool) (addr idx : Nat)
  deriving DecidableEq, Repr

/-- The steps of the part: the instructions first, with their fields; then the events, whose
operands are an EvArg of the state. -/
inductive Instr where
  /-- R79. Short-form NOP does nothing, or with SW waits for outstanding results. -/
  | nopShort (f : SF)
  /-- R169. Short-form scalar add. -/
  | saddShort (f : SF)
  /-- R169. Short-form scalar subtract. -/
  | ssubShort (f : SF)
  /-- R169. Short-form scalar and. -/
  | sandShort (f : SF)
  /-- R169. Short-form scalar or. -/
  | sorShort (f : SF)
  /-- R169. Short-form scalar xor. -/
  | sxorShort (f : SF)
  /-- R169. Short-form scalar and-not. -/
  | sandnShort (f : SF)
  /-- R169. Short-form scalar shift left. -/
  | sshlShort (f : SF)
  /-- R169. Short-form scalar logical shift right. -/
  | sshrShort (f : SF)
  /-- R169. Short-form scalar arithmetic shift right. -/
  | ssarShort (f : SF)
  /-- R169. Short-form scalar move. -/
  | smovShort (f : SF)
  /-- R169. Short-form scalar population count. -/
  | spopcShort (f : SF)
  /-- R226. Short-form vector integer add. -/
  | vaddShort (f : SF)
  /-- R226. Short-form vector integer subtract. -/
  | vsubShort (f : SF)
  /-- R226. Short-form vector integer multiply. -/
  | vmulShort (f : SF)
  /-- R226. Short-form vector multiply high. -/
  | vmulhShort (f : SF)
  /-- R226. Short-form vector integer minimum. -/
  | vminShort (f : SF)
  /-- R226. Short-form vector integer maximum. -/
  | vmaxShort (f : SF)
  /-- R226. Short-form vector absolute value. -/
  | vabsShort (f : SF)
  /-- R226. Short-form vector and. -/
  | vandShort (f : SF)
  /-- R226. Short-form vector or. -/
  | vorShort (f : SF)
  /-- R226. Short-form vector xor. -/
  | vxorShort (f : SF)
  /-- R226. Short-form vector and-not. -/
  | vandnShort (f : SF)
  /-- R227. Short-form vector shift left. -/
  | vshlShort (f : SF)
  /-- R227. Short-form vector logical shift right. -/
  | vshrShort (f : SF)
  /-- R227. Short-form vector arithmetic shift right. -/
  | vsarShort (f : SF)
  /-- R227. Short-form vector rotate left. -/
  | vrolShort (f : SF)
  /-- R226. Short-form vector population count. -/
  | vpopcShort (f : SF)
  /-- R226. Short-form vector count leading zeros. -/
  | vclzShort (f : SF)
  /-- R226. Short-form vector bit reverse. -/
  | vbrevShort (f : SF)
  /-- R229. Short-form vector move. -/
  | vmovShort (f : SF)
  /-- R230. Short-form float add. -/
  | faddShort (f : SF)
  /-- R230. Short-form float subtract. -/
  | fsubShort (f : SF)
  /-- R230. Short-form float multiply. -/
  | fmulShort (f : SF)
  /-- R231. Short-form float minimum. -/
  | fminShort (f : SF)
  /-- R231. Short-form float maximum. -/
  | fmaxShort (f : SF)
  /-- R110. Short-form reciprocal. -/
  | frcpShort (f : SF)
  /-- R110. Short-form reciprocal square root. -/
  | frsqShort (f : SF)
  /-- R109. Short-form square root. -/
  | fsqrtShort (f : SF)
  /-- R110. Short-form base-2 exponential. -/
  | fexp2Short (f : SF)
  /-- R110. Short-form base-2 logarithm. -/
  | flog2Short (f : SF)
  /-- R110. Short-form sine. -/
  | fsinShort (f : SF)
  /-- R110. Short-form cosine. -/
  | fcosShort (f : SF)
  /-- R110. Short-form hyperbolic tangent. -/
  | ftanhShort (f : SF)
  /-- R234. Short-form round to integral value. -/
  | frintShort (f : SF)
  /-- R241. Short-form shuffle by index without segments. -/
  | shflShort (f : SF)
  /-- R243. Short-form broadcast from a uniform lane index. -/
  | bcastShort (f : SF)
  /-- R244. Short-form ballot mask of true active lanes. -/
  | ballotShort (f : SF)
  /-- R244. Short-form any-lane vote. -/
  | vanyShort (f : SF)
  /-- R244. Short-form all-lane vote. -/
  | vallShort (f : SF)
  /-- R79. Long-form no operation. -/
  | nop (f : LF)
  /-- R158. Writes GMODE, FSTAT, MSTAT or FCTL under a mask. -/
  | setmode (f : LF)
  /-- R158. Reads a mode word into an s register. -/
  | getmode (f : LF)
  /-- R164. PC-relative branch. -/
  | bra (f : LF)
  /-- R164. PC-relative branch with link. -/
  | bral (f : LF)
  /-- R164. Jump to the address in a register. -/
  | jmp (f : LF)
  /-- R164. Jump to a register address with link. -/
  | jmpl (f : LF)
  /-- R164. Return to the address in a register. -/
  | ret (f : LF)
  /-- R165. Branch when the live mask bits are all zero. -/
  | brzm (f : LF)
  /-- R165. Branch when any live mask bit is set. -/
  | brnzm (f : LF)
  /-- R165. Branch when every live mask bit is set. -/
  | brallm (f : LF)
  /-- R166. Decrements a counter and branches while it stays above zero. -/
  | loop (f : LF)
  /-- R191. Ends the group, parking it until its results and counters drain. -/
  | exit (f : LF)
  /-- R174. Divides a group into equal groups of a given width. -/
  | split (f : LF)
  /-- R175. Divides a group into named and unnamed slice sets. -/
  | splitm (f : LF)
  /-- R178. Arrives at or opens a fuse attempt on the aligned fuse block. -/
  | fuse (f : LF)
  /-- R187. Sets the group priority. -/
  | setpri (f : LF)
  /-- R188. Gives the group issue key 0 until its next issue. -/
  | yield (f : LF)
  /-- R189. Parks the group for a number of nanoseconds. -/
  | sleep (f : LF)
  /-- R190. Writes an identity value to an s register. -/
  | getid (f : LF)
  /-- R169. Long-form scalar add. -/
  | sadd (f : LF)
  /-- R169. Long-form scalar subtract. -/
  | ssub (f : LF)
  /-- R169. Scalar multiply, low 64 bits. -/
  | smul (f : LF)
  /-- R169. Scalar multiply, high 64 bits. -/
  | smulh (f : LF)
  /-- R170. Scalar divide truncated toward zero. -/
  | sdiv (f : LF)
  /-- R170. Scalar remainder. -/
  | srem (f : LF)
  /-- R169. Scalar minimum. -/
  | smin (f : LF)
  /-- R169. Scalar maximum. -/
  | smax (f : LF)
  /-- R169. Long-form scalar and. -/
  | sand (f : LF)
  /-- R169. Long-form scalar or. -/
  | sor (f : LF)
  /-- R169. Long-form scalar xor. -/
  | sxor (f : LF)
  /-- R169. Long-form scalar and-not. -/
  | sandn (f : LF)
  /-- R169. Long-form scalar shift left. -/
  | sshl (f : LF)
  /-- R169. Long-form scalar logical shift right. -/
  | sshr (f : LF)
  /-- R169. Long-form scalar arithmetic shift right. -/
  | ssar (f : LF)
  /-- R169. Long-form scalar move. -/
  | smov (f : LF)
  /-- R171. Loads a literal, or with .hi its upper half. -/
  | sli (f : LF)
  /-- R172. Scalar compare giving 1 or 0. -/
  | scmp (f : LF)
  /-- R169. Scalar select. -/
  | ssel (f : LF)
  /-- R169. Long-form scalar population count. -/
  | spopc (f : LF)
  /-- R169. Scalar count of leading zeros. -/
  | sclz (f : LF)
  /-- R169. Scalar count of trailing zeros. -/
  | sctz (f : LF)
  /-- R169. Scalar position of the n-th set bit. -/
  | sffs (f : LF)
  /-- R169. Scalar bitfield extract. -/
  | sbfx (f : LF)
  /-- R169. Scalar bitfield insert. -/
  | sbfi (f : LF)
  /-- R226. Long-form vector integer add. -/
  | vadd (f : LF)
  /-- R226. Long-form vector integer subtract. -/
  | vsub (f : LF)
  /-- R226. Long-form vector integer multiply. -/
  | vmul (f : LF)
  /-- R226. Long-form vector multiply high. -/
  | vmulh (f : LF)
  /-- R226. Vector integer multiply-add. -/
  | vmad (f : LF)
  /-- R226. Long-form vector integer minimum. -/
  | vmin (f : LF)
  /-- R226. Long-form vector integer maximum. -/
  | vmax (f : LF)
  /-- R226. Long-form vector absolute value. -/
  | vabs (f : LF)
  /-- R226. Long-form vector and. -/
  | vand (f : LF)
  /-- R226. Long-form vector or. -/
  | vor (f : LF)
  /-- R226. Long-form vector xor. -/
  | vxor (f : LF)
  /-- R226. Long-form vector and-not. -/
  | vandn (f : LF)
  /-- R227. Long-form vector shift left. -/
  | vshl (f : LF)
  /-- R227. Long-form vector logical shift right. -/
  | vshr (f : LF)
  /-- R227. Long-form vector arithmetic shift right. -/
  | vsar (f : LF)
  /-- R227. Long-form vector rotate left. -/
  | vrol (f : LF)
  /-- R227. Vector bitfield extract. -/
  | vbfx (f : LF)
  /-- R227. Vector bitfield insert. -/
  | vbfi (f : LF)
  /-- R226. Long-form vector population count. -/
  | vpopc (f : LF)
  /-- R226. Long-form vector count leading zeros. -/
  | vclz (f : LF)
  /-- R226. Long-form vector bit reverse. -/
  | vbrev (f : LF)
  /-- R229. Vector select by a lane mask. -/
  | vsel (f : LF)
  /-- R229. Long-form vector move. -/
  | vmov (f : LF)
  /-- R229. Vector load of a literal, or of the high register with .hi. -/
  | vli (f : LF)
  /-- R228. Vector integer compare writing a lane mask. -/
  | vcmp (f : LF)
  /-- R230. Long-form float add. -/
  | fadd (f : LF)
  /-- R230. Long-form float subtract. -/
  | fsub (f : LF)
  /-- R230. Long-form float multiply. -/
  | fmul (f : LF)
  /-- R230. Fused multiply-add with one rounding. -/
  | fma (f : LF)
  /-- R231. Long-form float minimum. -/
  | fmin (f : LF)
  /-- R231. Long-form float maximum. -/
  | fmax (f : LF)
  /-- R232. Float compare writing a lane mask. -/
  | fcmp (f : LF)
  /-- R110. Long-form reciprocal. -/
  | frcp (f : LF)
  /-- R110. Long-form reciprocal square root. -/
  | frsq (f : LF)
  /-- R109. Long-form correctly rounded square root. -/
  | fsqrt (f : LF)
  /-- R109. Correctly rounded division. -/
  | fdiv (f : LF)
  /-- R110. Long-form base-2 exponential. -/
  | fexp2 (f : LF)
  /-- R110. Long-form base-2 logarithm. -/
  | flog2 (f : LF)
  /-- R110. Long-form sine. -/
  | fsin (f : LF)
  /-- R110. Long-form cosine. -/
  | fcos (f : LF)
  /-- R110. Long-form hyperbolic tangent. -/
  | ftanh (f : LF)
  /-- R233. Writes a class word describing the input. -/
  | fclass (f : LF)
  /-- R234. Multiplies by a power of two with one rounding. -/
  | fscale (f : LF)
  /-- R234. Long-form round to integral value. -/
  | frint (f : LF)
  /-- R235. Converts between two numeric types. -/
  | cvt (f : LF)
  /-- R236. Converts and packs several values into one register. -/
  | pack (f : LF)
  /-- R237. Unpacks and converts packed elements into registers. -/
  | unpk (f : LF)
  /-- R101. Sets the SR seed and counter. -/
  | srseed (f : LF)
  /-- R102. Reads the SR seed or counter. -/
  | srget (f : LF)
  /-- R241. Long-form shuffle by index. -/
  | shfl (f : LF)
  /-- R241. Shuffle by xor of lane index. -/
  | shflx (f : LF)
  /-- R241. Shuffle from a lower lane. -/
  | shflup (f : LF)
  /-- R241. Shuffle from a higher lane. -/
  | shfldn (f : LF)
  /-- R242. Each active lane writes its value into the lane it names. -/
  | put (f : LF)
  /-- R243. Long-form broadcast from one lane. -/
  | bcast (f : LF)
  /-- R244. Long-form any-lane vote. -/
  | vany (f : LF)
  /-- R244. Long-form all-lane vote. -/
  | vall (f : LF)
  /-- R244. Long-form ballot mask. -/
  | ballot (f : LF)
  /-- R245. Writes to each participant the mask of participants with an equal value. -/
  | matchLanes (f : LF)
  /-- R246. Reduces the active lanes to one scalar value. -/
  | redux (f : LF)
  /-- R246. Inclusive or exclusive prefix over the active lanes. -/
  | scan (f : LF)
  /-- R203. Global load through a buffer record. -/
  | ld (f : LF)
  /-- R205. Global store through a buffer record. -/
  | st (f : LF)
  /-- R210. Formatted fragment or scale load on the matrix path. -/
  | ldf (f : LF)
  /-- R203. Core-scratchpad load through a window. -/
  | lds (f : LF)
  /-- R205. Core-scratchpad store through a window. -/
  | sts (f : LF)
  /-- R203. Cluster-shared load. -/
  | ldc (f : LF)
  /-- R205. Cluster-shared store. -/
  | stc (f : LF)
  /-- R203. Chip-scratchpad load. -/
  | ldk (f : LF)
  /-- R205. Chip-scratchpad store. -/
  | stk (f : LF)
  /-- R203. Lane-private load. -/
  | ldp (f : LF)
  /-- R205. Lane-private store. -/
  | stp (f : LF)
  /-- R208. Global atomic read-modify-write per lane. -/
  | atom (f : LF)
  /-- R208. Scratchpad atomic through a window. -/
  | atoms (f : LF)
  /-- R208. Cluster-shared atomic. -/
  | atomc (f : LF)
  /-- R214. Prefetches lines into the hinted cache. -/
  | pref (f : LF)
  /-- R215. Zeroes 128-byte lines, dropping dirty data. -/
  | discard (f : LF)
  /-- R216. Orders accesses of class A before accesses of class B at a scope. -/
  | fence (f : LF)
  /-- R217. Parks until a path counter is at or below a threshold. -/
  | waitc (f : LF)
  /-- R218. Reads one or all path counters. -/
  | cntrd (f : LF)
  /-- R258. Multiplies fragments and accumulates into a tile. -/
  | mma (f : LF)
  /-- R268. Implicit-convolution K-block accumulated into a tile. -/
  | mconv (f : LF)
  /-- R259. Sets a tile to +0 and clears its error state. -/
  | mzero (f : LF)
  /-- R260. Loads a tile from registers. -/
  | mload (f : LF)
  /-- R262. Drains a tile, scaled and rounded, into registers. -/
  | mdrain (f : LF)
  /-- R263. Drains a tile into core scratchpad through a window. -/
  | mdrains (f : LF)
  /-- R264. Writes row maxima and row sums of a tile. -/
  | mrows (f : LF)
  /-- R266. Loads the tensor shape register. -/
  | mshape (f : LF)
  /-- R277. Issues a box copy on the copy engine. -/
  | cpy (f : LF)
  /-- R279. Issues a gather copy of one row per active lane. -/
  | cpyg (f : LF)
  /-- R279. Issues a scatter copy of one row per active lane. -/
  | cpys (f : LF)
  /-- R285. Initialises a barrier, ending its phase in progress. -/
  | barinit (f : LF)
  /-- R285. Adds expected bytes to a barrier. -/
  | barexp (f : LF)
  /-- R286. Arrives at a barrier, optionally with expected bytes. -/
  | bararr (f : LF)
  /-- R286. Waits for a barrier generation to release. -/
  | barwait (f : LF)
  /-- R286. Tests whether a barrier generation has released. -/
  | bartest (f : LF)
  /-- R287. Arrives with a payload and waits for the combined result. -/
  | barpay (f : LF)
  /-- R291. Reads a future, parking until it is full. -/
  | fwait (f : LF)
  /-- R291. Fills a future and wakes its waiters. -/
  | ffill (f : LF)
  /-- R291. Empties a future. -/
  | fclr (f : LF)
  /-- R294. Fences and adds to a semaphore. -/
  | semsig (f : LF)
  /-- R294. Subtracts n from a semaphore, parking in the wait table until it can. -/
  | semwait (f : LF)
  /-- R298. Reserves or consumes ring indices atomically. -/
  | rngres (f : LF)
  /-- R299. Publishes a ring index by setting its slot's phase bit. -/
  | rngpub (f : LF)
  /-- R300. Ends a phase: drains, arrives, writes a phase record and releases slice contexts. -/
  | phase (f : LF)
  /-- R304. Arrives at the team barrier and waits for every unexited group. -/
  | teambar (f : LF)
  /-- R320. Drains and sends one syscall record per distinct request, then parks. -/
  | trapc (f : LF)
  /-- R321. Resumes lanes of a parked group by return, replay or skip. -/
  | resume (f : LF)
  /-- R311. Returns from a handler or monitor entry. -/
  | retx (f : LF)
  /-- R322. Completes and halts the group, sending a breakpoint record. -/
  | brk (f : LF)
  /-- R323. Reads a system register. -/
  | sysrd (f : LF)
  /-- R323. Writes a system register, including those without a row of their own. -/
  | syswr (f : LF)
  /-- R324. Sends a 64-byte message to another col's mailbox. -/
  | msend (f : LF)
  /-- R325. Removes the oldest mailbox message, parking if empty. -/
  | mrecv (f : LF)
  /-- R328. Saves one context-image section. -/
  | saveg (f : LF)
  /-- R328. Checks and loads one context-image section. -/
  | loadg (f : LF)
  /-- R326. Removes cached translations from every TLB. -/
  | tlbinv (f : LF)
  /-- R344. Selects a key slot for save or load, or consumes it with .done. -/
  | keysel (f : LF)
  /-- R327. Parks the col until EV, MB or TM is set. -/
  | idle (f : LF)
  /-- R370. Writes local bytes into a remote window. -/
  | nput (f : LF)
  /-- R370. Reads bytes of a remote window into local memory. -/
  | nget (f : LF)
  /-- R372. Writes into a remote window and then notifies. -/
  | nputi (f : LF)
  /-- R371. Adds f32 or b16 elements into a remote window. -/
  | nputa (f : LF)
  /-- R373. Performs one atomic on a remote window location. -/
  | natom (f : LF)
  /-- R374. Takes one notification from a window's ring, parking if none. -/
  | nwaitn (f : LF)
  /-- R362. Opens a window table entry and returns its remote reference. -/
  | nwopen (f : LF)
  /-- R363. Closes a window, completing when in-flight messages finish. -/
  | nwrev (f : LF)
  /-- R395. Creates a USER trace record. -/
  | trace (f : LF)
  /-- R395. Waits until the group's records are written and returns WR. -/
  | trflush (f : LF)
  /-- R395. Sets the group's trace tag and creates a TAG record. -/
  | trtag (f : LF)
  /-- R415. Sets the audit tag and ordinal. -/
  | audtag (f : LF)
  /-- R416. Reads an audit counter, configuration register or audit tag. -/
  | audrd (f : LF)
  /-- R417. Clears audit counters or writes a configuration register or audit tag. -/
  | audclr (f : LF)
  /-- R350. Module reset starts the boot col in mask ROM at monitor privilege, and the boot sequence verifies, loads and trains the module. -/
  | moduleReset
  /-- R423. Loss of power during a lifetime-log write leaves the previous record current. -/
  | powerLoss
  /-- R382. The IEEE 1588 servo locks to a grandmaster; at the first lock module time steps forward once, or slews if the master lies behind. -/
  | grandmasterLock
  /-- R382. Loss of the master puts module time into holdover on the module oscillator. -/
  | grandmasterLoss
  /-- R351. An ICMPv6, neighbour discovery, socket or IEEE 1588 frame arrives and is handed to the service kernel. -/
  | ethernetOtherFrame
  /-- R152. A host requester's PCIe or CXL access to module memory takes its place in the memory order; a request to a PCTX page ends in completer abort. -/
  | hostMemoryRequest
  /-- R427. A host write to a BAR0 register without a row of its own (HCMDA, the W1C bits of HEVT) or a malformed BAR0 access, which completes as unsupported request. -/
  | hostRegisterWrite
  /-- R427. A host write to HCMDD submits the command block at HCMDA to the boot col's shard of the service kernel. -/
  | hcmddWrite
  /-- R427. A write to DBELL q tells the home col of queue q to read the slot at the queue's read index; it is ignored for an unregistered queue. -/
  | dbellWrite
  /-- R427. Host command 1 registers a launch queue from its descriptor, or returns -2 if R346 refuses it. -/
  | qreg
  /-- R427. Host command 2 removes a queue; a WAIT in progress is abandoned and any other packet in progress completes. -/
  | qunreg
  /-- R427. Host command 3 clears a stopped queue's ERR and restarts it at the read index in its descriptor. -/
  | qclear
  /-- R426. A management-port command rewrites the firmware image in flash. -/
  | imageRewrite
  /-- R421. The management port lowers the module power cap to a value from 800 W to 2,600 W. -/
  | powerCapSet
  /-- R423. A host-port or management-port request reads lifetime-log records. -/
  | lifetimeLogRead
  /-- R429. A host or management request receives a signed attestation report through its own port. -/
  | attestationRequest
  /-- R430. The management-port COMMIT command blows anti-rollback fuse bits up to the running image's version. -/
  | commit
  /-- R184. In each cycle the issue unit orders its ready groups and issues up to four instructions within 32 lanes, or the second pass of a 64-lane group. -/
  | issueCycle
  /-- R35. A ready group that has not issued for 16 x N cycles is issued at the next cycle with room for it, ahead of every key. -/
  | issueBoundExpiry
  /-- R34. A group that has lost 15 consecutive arbitrations for one bank or collector wins the next one. -/
  | arbitrationLossLimit
  /-- R67. An outstanding register result reaches its register, its flags are ORed into FSTAT, and a group parked on a switch marker is released when none remain. -/
  | registerResultArrival
  /-- R148. An LS operation completes and lowers its path counter, releasing a WAITC whose threshold is met. -/
  | lsAccessComplete
  /-- R316. A group held in a drain resumes the instruction's action once its LS counters are zero or its register results have arrived. -/
  | lsDrainComplete
  /-- R131. When its merge entries are resolved, or a merge entry is freed for a group in translation retry, the group replays its unfinished lanes. -/
  | laneReplay
  /-- R179. An open fuse attempt whose window has run FWIN cycles ends with code 1 in every arrived participant. -/
  | fuseWindowExpiry
  /-- R181. When all partners have arrived with no results outstanding and counters zero, the participants become one group of the target width. -/
  | fuseSuccess
  /-- R189. A sleeping group becomes ready once its requested time has passed. -/
  | sleepExpiry
  /-- R191. An exiting group, once its results have arrived and counters are zero, releases its slice contexts and counts as exited for its team. -/
  | exitComplete
  /-- R281. A copy's 16-byte unit takes its place in the memory order and, under .bar, its bytes are counted into the barrier. -/
  | copyUnitWrite
  /-- R280. A copy whose every byte has its place completes and lowers the CPY counter. -/
  | copyComplete
  /-- R252. A matrix operation finishes its tile update, register or scratchpad writes and lowers MTX. -/
  | matrixOpComplete
  /-- R303. After its barrier phase ends, a group with a phase record is re-admitted at its label when aligned slice contexts of the core are free. -/
  | phaseReadmission
  /-- R295. A parked semaphore or notification waiter is re-evaluated on a write to its counter's line, by the col within 2 µs of a signal, or at least every 10 µs. -/
  | semaphoreReevaluation
  /-- R296. A SEMWAIT that has waited for RSEMTO sends one timeout event to the col and stays parked. -/
  | semaphoreWaitTimeout
  /-- R305. A team stalled for RSTALL causes one team-stall event to the owning context's event ring. -/
  | teamStall
  /-- R36. When the soft watchdog RSOFT expires, groups not at PHASE or EXIT are hard-saved. -/
  | softStopTimeout
  /-- R32. Contexts of equal level sharing cores are switched at the end of each time slice RSLICE. -/
  | timeSliceExpiry
  /-- R308. Module time reaching CTIMER sets CSTAT.TM. -/
  | ctimerExpiry
  /-- R309. At an instruction boundary with IE set and EV, MB or TM pending, the col enters its handler at CVEC. -/
  | colHandlerEntry
  /-- R329. Hardware writes a held record into the col's event ring once CEVR has freed a slot. -/
  | eventRingRecordWrite
  /-- R427. The col reads every registered launch queue at least once every 20 µs without a doorbell. -/
  | queuePoll
  /-- R348. The col applies ACQ and restores the packet's image, pre-empting lower-level contexts as needed to place it. -/
  | resumePacket
  /-- R348. A SIGNAL packet performs SEMSIG at REL on its semaphore. -/
  | signalPacket
  /-- R348. A WAIT packet makes the queue wait, as SEMWAIT with n at ACQ, in the home col's wait table. -/
  | waitPacket
  /-- R348. A MARK packet writes a marker record to the trace fabric. -/
  | markPacket
  /-- R348. A NOTE packet does nothing but its optional completion signal and read-index write. -/
  | notePacket
  /-- R317. CCMD value 1 asks for a soft stop of the context. -/
  | softStop
  /-- R317. CCMD value 2 stops issue for the context's groups and drains their operations. -/
  | hardStop
  /-- R317. Once issued instructions and LS, CPY, NET and MTX operations have completed, CSTATE reads 2. -/
  | hardStopComplete
  /-- R317. CCMD value 3 resumes issue for the context. -/
  | resumeIssue
  /-- R317. CCMD value 4 releases the context's places. -/
  | releasePlaces
  /-- R314. A write to MRESOLVE ends a merge entry, resolved or declared unrecoverable, and its waiting groups replay or enter state 13. -/
  | mresolve
  /-- R314. A write to BARREINIT reinitialises barrier N of a team as BARINIT and wakes its waiters with status 0x09. -/
  | barreinit
  /-- R389. A write to TENUPD reloads a tenant's table entry, or raises the system-register fault if the entry is invalid. -/
  | tenupd
  /-- R342. KCMD value 1 draws a fresh key into the selected slot, sets its counter to 0 and its owner. -/
  | keyDraw
  /-- R342. KCMD value 2 erases the selected key slot. -/
  | keyErase
  /-- R342. KCMD value 3 installs the key held in KEY0-KEY3 and clears those registers. -/
  | keyInstall
  /-- R342. Monitor call 0x01 lets the service kernel obtain a key slot. -/
  | monitorKey
  /-- R342. Monitor call 0x02 lets the service kernel erase a key slot. -/
  | monitorErase
  /-- R420. Monitor call 0x03 sets an island's clock. -/
  | islset
  /-- R420. Monitor call 0x04 returns an island's effective, maximum and set clock and its flags. -/
  | islget
  /-- R429. Monitor call 0x05 writes an attestation report signed with the identity key. -/
  | attest
  /-- R420. Monitor call 0x06 copies one lifetime-log record to a buffer. -/
  | logread
  /-- R332. Syscall 0x01 maps memory and returns its address. -/
  | memmap
  /-- R332. Syscall 0x02 unmaps memory. -/
  | memunmap
  /-- R332. Syscall 0x03 changes the protection of a range. -/
  | memprot
  /-- R332. Syscall 0x10 opens a file and returns a descriptor. -/
  | fopen
  /-- R332. Syscall 0x11 closes a file descriptor. -/
  | fclose
  /-- R332. Syscall 0x12 reads from a file into a buffer. -/
  | fread
  /-- R332. Syscall 0x13 writes a buffer to a file. -/
  | fwrite
  /-- R332. Syscall 0x14 writes a file's information into a 64-byte buffer. -/
  | finfo
  /-- R332. Syscall 0x15 synchronises a file. -/
  | fsync
  /-- R332. Syscall 0x20 opens a UDP or TCP socket. -/
  | skopen
  /-- R332. Syscall 0x21 connects a socket to an IPv6 address and port. -/
  | skconn
  /-- R332. Syscall 0x22 sends from a buffer on a socket. -/
  | sksend
  /-- R332. Syscall 0x23 receives into a buffer from a socket. -/
  | skrecv
  /-- R332. Syscall 0x24 closes a socket. -/
  | skclose
  /-- R332. Syscall 0x30 returns module time as TAI or UTC. -/
  | timeget
  /-- R332. Syscall 0x31 waits for a number of nanoseconds. -/
  | timewait
  /-- R332. Syscall 0x40 sets the context's event ring. -/
  | evring
  /-- R332. Syscall 0x41 sets a scratchpad window of the calling team. -/
  | winset
  /-- R333. Syscall 0x42 replays, skips or ends a group of the caller's context in state 13. -/
  | grpctl
  /-- R346. Syscall 0x43 registers a launch queue and returns its number. -/
  | qopen
  /-- R333. An NVMe device completes a command the cols submitted. -/
  | nvmeCompletion
  /-- R364. A received PUT packet is checked against the window, its data written and acknowledged. -/
  | putPacket
  /-- R372. A received PUTI packet is performed and, when it completes its message, the notification is made before the completing ACK. -/
  | putiPacket
  /-- R371. A received ADD packet adds its f32 or b16 elements atomically into the window. -/
  | addPacket
  /-- R364. A received GETREQ is checked and answered with GETRSP packets carrying the window's data. -/
  | getreq
  /-- R370. A received GETRSP writes its data locally for an NGET, completing it when every byte is written. -/
  | getrsp
  /-- R373. A received ATOMREQ performs one atomic in the window, or returns the recorded old value for a retransmission. -/
  | atomreq
  /-- R373. A received ATOMRSP writes the old value to the NATOM's destination and completes it. -/
  | atomrsp
  /-- R355. A received ACK acknowledges a packet; the completing ACK completes the sender's operation and lowers NET. -/
  | ack
  /-- R366. A received NAK ends the sender's operation with its status and raises the engine fault. -/
  | nak
  /-- R355. A received BUSY makes the sender retry the same packet after 16 µs. -/
  | busy
  /-- R358. A received OPEN creates a connection and is answered with OPENACK. -/
  | openPacket
  /-- R358. A received OPENACK gives the sender the connection identifier assigned by the receiver. -/
  | openack
  /-- R359. Once a connection context is fetched, packets waiting in the miss buffer are processed as if just arrived. -/
  | connectionContextFetched
  /-- R355. An accepted operation beyond 64 outstanding messages is transmitted once an earlier message completes. -/
  | messageTransmit
  /-- R355. An unacknowledged packet is retransmitted on the next path, and after 8 attempts the operation ends with status 10. -/
  | retransmitTimeout
  /-- R355. 16 µs after a BUSY, the sender resends the same packet. -/
  | busyRetry
  /-- R355. An operation not complete within the network deadline ends with a status chosen by its last reply. -/
  | networkDeadline
  /-- R376. A reassembly entry that receives no packet for 10 ms is abandoned and INFL falls by one. -/
  | reassemblyAbandon
  /-- R372. A held notification is written when a consumer frees a ring slot, and the completing ACK is then sent. -/
  | heldNotificationWrite
  /-- R372. A notification held past the receiver's deadline is dropped and the next packet of its message is answered NAK status 9. -/
  | notificationHoldExpiry
  /-- R408. The audit engine recomputes a retained sample in FP64, bins its divergence, updates the audit slot and frees the retention slot. -/
  | sampleAudit
  /-- R391. The fabric writes a record into its tenant ring and advances WR once there is room. -/
  | traceRingWrite
  /-- R392. In lossy mode the fabric writes a DROP or LOSS record for the tenant when room returns. -/
  | dropRecordWrite
  /-- R393. A source event held for lack of room in lossless mode proceeds and its record is created with the time of release. -/
  | losslessRelease
  /-- R394. A lossless tenant whose ring stays full for TRFULL is switched to lossy mode, with a MODE record. -/
  | trfullTimeout
  /-- R399. At the end of a random gap the issue unit picks an instruction to follow, creating SAMPLE and SAMPLE2 at its write-back. -/
  | samplePick
  /-- R421. Every 10 µs module power is measured and the limiter lowers every core island's ceiling by 25 MHz while it exceeds the cap. -/
  | powerMeasurement
  /-- R421. After 1 ms of measurements below 95% of the cap, the limiter raises the ceiling by 25 MHz per measurement. -/
  | limiterRaiseHold
  /-- R422. An idle island unmeasured for 6 hours is measured by its col. -/
  | ageingMeasurement
  /-- R422. A finished measurement may lower FMAX, write a margin record, or fence the island. -/
  | ageingMeasurementEnd
  /-- R425. Patrol scrubbing reads every line of both tiers and the L2 every 24 hours and writes corrected data back. -/
  | patrolScrub
  /-- R423. Cumulative lifetime records are rewritten every 24 hours and at orderly shutdown. -/
  | lifetimeLogRewrite
  /-- R353. A received Pyxlink packet of another kind or version, with a non-zero zero field, with IPv6 extension headers or with a failing UDP checksum is dropped and counted. -/
  | pyxlinkPacketDropped
  /-- R423. Each minute the lifetime counters TBIN and VBIN of each die's bin for its hottest sensor and highest island supply are incremented. -/
  | temperatureVoltageBinMinute
  deriving DecidableEq, Repr

/-- A step of the outside world: an event and its operands. -/
structure Event where
  step : Instr
  arg : EvArg
  deriving DecidableEq, Repr

end Sys2Proof
end

