-- ==== Sys2Proof/WellFormed.lean ====
section
/-! DEFINITION. Which encodings are instructions (R52, R54, R56-R59, R82): the operand classes, types,
modifiers and literals that each instruction's description accepts. What depends on GMODE, on the
group's width or on the executing party is checked where the instruction executes. -/

namespace Sys2Proof

/-! ### Types -/

/-- The code of a type (R62). -/
def Ty.code : Ty → Nat
  | .i32 => 0 | .n32 => 1 | .i64 => 2 | .n64 => 3 | .i16 => 4 | .n16 => 5 | .i8 => 6 | .n8 => 7
  | .f32 => 8 | .f64 => 9 | .h16 => 10 | .b16 => 11 | .f8e4 => 12 | .f8e5 => 13 | .ds8 => 14 | .x32 => 15

/-- The type of a code (R62). -/
def Ty.ofCode (n : Nat) : Ty :=
  match n % 16 with
  | 0 => .i32 | 1 => .n32 | 2 => .i64 | 3 => .n64 | 4 => .i16 | 5 => .n16 | 6 => .i8 | 7 => .n8
  | 8 => .f32 | 9 => .f64 | 10 => .h16 | 11 => .b16 | 12 => .f8e4 | 13 => .f8e5 | 14 => .ds8 | _ => .x32

/-- The width of a type in bits (R62). -/
def Ty.bits : Ty → Nat
  | .i64 | .n64 | .f64 => 64
  | .i32 | .n32 | .f32 | .x32 => 32
  | .i16 | .n16 | .h16 | .b16 => 16
  | .i8 | .n8 | .f8e4 | .f8e5 | .ds8 => 8

/-- The element size in bytes (R200). -/
def Ty.size (t : Ty) : Nat := t.bits / 8

/-- A 64-bit type, held in register pairs (R58). -/
def Ty.wide (t : Ty) : Bool := t.bits == 64

/-- A signed or unsigned integer type (R83). -/
def Ty.isInt : Ty → Bool
  | .i32 | .n32 | .i64 | .n64 | .i16 | .n16 | .i8 | .n8 => true
  | _ => false

/-- A signed integer type (R83). -/
def Ty.signed : Ty → Bool
  | .i32 | .i64 | .i16 | .i8 => true
  | _ => false

/-- A floating-point type with the layouts of R85. -/
def Ty.isFloat : Ty → Bool
  | .f32 | .f64 | .h16 | .b16 | .f8e4 | .f8e5 => true
  | _ => false

/-- The types "F" of R230. -/
def Ty.isF : Ty → Bool
  | .f64 | .f32 | .h16 | .b16 => true
  | _ => false

/-- The types of the special functions (R110). -/
def Ty.isSF : Ty → Bool
  | .f32 | .h16 | .b16 => true
  | _ => false

/-- The types of the bitwise operations: x32, i64, n64 (R226). -/
def Ty.isBits : Ty → Bool
  | .x32 | .i64 | .n64 => true
  | _ => false

/-- The types of atomic and reduction arithmetic: i32, n32, i64, n64 (R208, R246). -/
def Ty.isArith : Ty → Bool
  | .i32 | .n32 | .i64 | .n64 => true
  | _ => false

/-! ### Operand classes -/

namespace Spec

/-- The zero field of an operand an instruction does not use (R52). -/
def unused : Spec → Bool
  | .v n => n.val == 0
  | _ => false

/-- A vector register. -/
def isV : Spec → Bool
  | .v _ => true
  | _ => false

/-- A scalar register. -/
def isS : Spec → Bool
  | .s _ => true
  | _ => false

/-- A scalar register or 0x70. -/
def isS0 : Spec → Bool
  | .s _ | .zero => true
  | _ => false

/-- A vector register whose number is a multiple of k (R58, R200). -/
def isVMul (k : Nat) : Spec → Bool
  | .v n => n.val % k == 0
  | _ => false

/-- A vector or age-queue register. -/
def isVQ : Spec → Bool
  | .v _ | .q _ => true
  | _ => false

/-- The scalar source set (R168). -/
def isScalar : Spec → Bool
  | .s _ | .zero | .width | .live | .root | .team | .one | .two | .four | .eight | .neg1 | .lit => true
  | _ => false

/-- An s register whose number is a multiple of k and at most hi: a record (R195), a message, a
descriptor (R367), a box (R273) or a mailbox block (R319). -/
def isSMul (k hi : Nat) : Spec → Bool
  | .s n => n.val % k == 0 && n.val ≤ hi
  | _ => false

/-- The first register of a buffer record (R195). -/
def isRecord : Spec → Bool := isSMul 4 28

/-- A vector destination: a v register, the queue push 0x40, or the discard 0x70 (R222). -/
def isVDst : Spec → Bool
  | .v _ | .zero => true
  | .q n => n.val == 0
  | _ => false

/-- A vector destination of k registers (R58, R200): the first is a multiple of k. -/
def isVDstMul (k : Nat) : Spec → Bool
  | .v n => n.val % k == 0
  | .zero => true
  | .q n => n.val == 0
  | _ => false

/-- The offset operand x of a memory instruction (R195). -/
def isOffX : Spec → Bool
  | .v _ | .s _ | .zero => true
  | _ => false

/-- The literal specifier 0x7F. -/
def isLit : Spec → Bool
  | .lit => true
  | _ => false

/-- A window number 0x00-0x07 (R253, R274). -/
def isWindow : Spec → Bool
  | .v n => n.val < 8
  | _ => false

/-- A barrier field (R274). -/
def isBarrier : Spec → Bool
  | .v _ | .s _ => true
  | _ => false

/-- The space field of a future cell (R274). -/
def isCell : Spec → Bool
  | .v n => n.val < 8
  | .zero => true
  | _ => false

/-- The uniform index of BCAST (R240, R243). -/
def isUniformIdx : Spec → Bool
  | .s _ | .zero | .width | .live | .root | .team | .one | .two | .four | .eight | .neg1 | .lit => true
  | _ => false

/-- A specifier 0x78-0x7E that R59 gives a value in the type. -/
def constOk (t : Ty) : Spec → Bool
  | .one | .two | .neg1 => true
  | .four | .eight => t != .ds8
  | .half | .oneF => t.isFloat || t == .ds8
  | _ => false

end Spec

/-- A literal that R59 accepts in the type. -/
def litOk (t : Ty) (l : W32) : Bool :=
  match t with
  | .h16 | .b16 => l.toNat < 2 ^ 16
  | .f8e4 | .f8e5 | .ds8 => l.toNat < 2 ^ 8
  | _ => true

/-- A vector source in the type t (R56-R59, R222). -/
def LF.vsrc (f : LF) (t : Ty) : Spec → Bool
  | .v n => !t.wide || n.val % 2 == 0
  | .q n => !t.wide || n.val != 15
  | .s _ | .zero => true
  | .lane | .width | .live | .home | .slice | .root | .team => t.isInt || t == .x32
  | .lit => (f.lit.map (litOk t)).getD false
  | x => x.constOk t

/-- A v or q source in the type t (R240). -/
def LF.vqsrc (f : LF) (t : Ty) (x : Spec) : Bool := x.isVQ && f.vsrc t x

/-- The data operand of a store or atomic in the type t, of k registers (R195, R200). -/
def LF.dsrc (f : LF) (t : Ty) (k : Nat) : Spec → Bool
  | .v n => n.val % k == 0
  | .s _ | .zero => true
  | .lit => (f.lit.map (litOk t)).getD false
  | x => x.constOk t

/-- What the description of an instruction accepts in each field. -/
structure Shape where
  dst : Spec → Bool := Spec.unused
  sa : Spec → Bool := Spec.unused
  sb : Spec → Bool := Spec.unused
  sc : Spec → Bool := Spec.unused
  ext : Nat → Bool := (· == 0)
  mod : Nat → Bool := (· == 0)
  guard : Bool := false
  ty : Ty → Bool := (· == .i32)
  rounds : Bool := false
  /-- the literal is the displacement of a memory operand, and may be absent -/
  disp : Bool := false
  /-- the literal is a displacement that must be present -/
  label : Bool := false
  /-- no 96-bit form -/
  noLit : Bool := false

/-- The literal rule of R54: a literal specifier needs a literal, a literal needs a use. -/
def LF.litRule (f : LF) (disp label noLit : Bool) : Bool :=
  let named := f.sa.isLit || f.sb.isLit || f.sc.isLit
  match f.lit with
  | none => !named && !label
  | some _ => !noLit && (named || disp || label)

/-- The encoding rule of R52 and R82 for one description. -/
def Shape.ok (h : Shape) (f : LF) : Bool :=
  h.dst f.dst && h.sa f.sa && h.sb f.sb && h.sc f.sc && h.ext f.ext.toNat && h.mod f.mod.toNat &&
  (if h.guard then !(f.guard.inv && f.guard.idx.val == 0) else !f.guard.inv && f.guard.idx.val == 0) &&
  h.ty f.ty && (h.rounds || f.rnd == .rne) && f.litRule h.disp h.label h.noLit

/-! ### Sequencer and scalar (R160, R168, R169) -/

/-- R160, R158. -/
def shNop : Shape := { noLit := true }
def shSetmode : Shape := { sa := Spec.isScalar, sb := Spec.isScalar, ext := (· < 4) }
def shGetmode : Shape := { dst := Spec.isS0, ext := (· < 5), noLit := true }
def shBra : Shape := { label := true }
def shBral : Shape := { dst := Spec.isS0, label := true }
def shJmp : Shape := { sa := Spec.isScalar, noLit := true }
def shJmpl : Shape := { dst := Spec.isS0, sa := Spec.isScalar, noLit := true }
def shBrm : Shape := { sa := Spec.isScalar, label := true }
def shLoop : Shape := { dst := Spec.isS, label := true }
def shSplit : Shape := { dst := Spec.isS0, ext := (· < 5), noLit := true }
def shSplitm : Shape := { dst := Spec.isS0, sa := Spec.isScalar, noLit := true }
def shFuse : Shape := { dst := Spec.isS0, sa := Spec.isScalar, ext := (· < 5), mod := (· < 2) }
def shSa : Shape := { sa := Spec.isScalar }
def shGetid : Shape := { dst := Spec.isS0, ext := (· < 13), noLit := true }

/-- R162: the low bits of a branch displacement are zero. -/
def LF.litAligned (f : LF) : Bool := (f.lit.map (fun l => l.toNat % 4 == 0)).getD false

/-- R169: a scalar instruction of n sources, with or without .u. -/
def shScalar (n : Nat) (u : Bool) : Shape :=
  { dst := Spec.isS0, sa := Spec.isScalar
    sb := if n ≥ 2 then Spec.isScalar else Spec.unused
    sc := if n ≥ 3 then Spec.isScalar else Spec.unused
    mod := fun m => m == 0 || (u && m == 1) }

def shScmp : Shape := { shScalar 2 true with ext := (· < 6) }
def shSli (f : LF) : Shape :=
  { dst := Spec.isS0, sa := if f.ext == 1 then Spec.isLit else Spec.isScalar, ext := (· < 2) }

/-! ### Vector integer and float (R222-R234) -/

/-- The packed-element code of MOD 4:3 (R223): 1, 2 or 4 elements; 0 for the illegal code. -/
def packOf (m : Nat) : Nat :=
  match m / 8 % 4 with
  | 0 => 1 | 1 => 2 | 2 => 4 | _ => 0

/-- R224: the packing that an integer instruction accepts with a type. -/
def packInt (t : Ty) (m : Nat) : Bool :=
  match packOf m with
  | 1 => true
  | 2 => t == .i16 || t == .n16
  | 4 => t == .i8 || t == .n8
  | _ => false

/-- R224: the packing that a float instruction accepts with a type. -/
def packFloat (t : Ty) (m : Nat) : Bool :=
  match packOf m with
  | 1 => true
  | 2 => t == .h16 || t == .b16
  | _ => false

/-- The modifier bits an instruction accepts (R223): .sat, the negations, and packing. -/
def modOk (sat neg : Bool) (pk : Nat → Bool) (m : Nat) : Bool :=
  (sat || m % 2 == 0) && (neg || m / 2 % 4 == 0) && pk m

/-- No packing. -/
def packNone (m : Nat) : Bool := packOf m == 1

/-- A vector instruction of n sources of the instruction's type, writing a vector result. -/
def shVec (f : LF) (n : Nat) (ty : Ty → Bool) (mod : Nat → Bool) (rounds : Bool) : Shape :=
  { dst := Spec.isVDstMul (if f.ty.wide then 2 else 1)
    sa := f.vsrc f.ty
    sb := if n ≥ 2 then f.vsrc f.ty else Spec.unused
    sc := if n ≥ 3 then f.vsrc f.ty else Spec.unused
    mod := mod, guard := true, ty := ty, rounds := rounds }

def shVArith (n : Nat) (sat : Bool) (f : LF) : Shape :=
  shVec f n Ty.isInt (modOk sat false (packInt f.ty)) false
def shVMulh (f : LF) : Shape :=
  shVec f 2 (fun t => t.isInt && t.bits != 8) (modOk false false packNone) false
def shVAbs (f : LF) : Shape := shVec f 1 Ty.signed (modOk true false (packInt f.ty)) false
def shVBits (n : Nat) (f : LF) : Shape := shVec f n Ty.isBits (· == 0) false
def shVShift (f : LF) : Shape := shVec f 2 (fun t => t.isInt || t == .x32) (· == 0) false
def shVCount (f : LF) : Shape := shVec f 1 (fun t => t == .x32 || t == .n64) (· == 0) false
def shVBfx (f : LF) : Shape :=
  { shVec f 1 (fun t => t.isArith || t == .x32) (· == 0) false with sb := f.vsrc .n32, sc := f.vsrc .n32 }
def shVBfi (f : LF) : Shape :=
  { shVec f 1 (fun t => t == .n32 || t == .x32 || t == .n64) (· == 0) false with
    dst := Spec.isVMul (if f.ty.wide then 2 else 1), sb := f.vsrc .n32, sc := f.vsrc .n32 }
def shVSel (f : LF) : Shape := { shVec f 2 (fun _ => true) (· == 0) false with sc := Spec.isS }
def shVMov (f : LF) : Shape := shVec f 1 (fun _ => true) (· == 0) false
def shVLi (f : LF) : Shape :=
  { dst := Spec.isVDstMul (if f.ty.wide then 2 else 1), sa := Spec.isLit, guard := true
    ty := fun t => t == .x32 || t == .n64, ext := fun e => e == 0 || (e == 1 && f.ty == .n64) }
def shVCmp (f : LF) : Shape :=
  { shVec f 2 (fun t => t.isInt || t == .x32) (· == 0) false with dst := Spec.isS0, ext := (· < 6) }

def shFArith (n : Nat) (f : LF) : Shape := shVec f n Ty.isF (modOk true true (packFloat f.ty)) true
def shFMinMax (f : LF) : Shape := shVec f 2 Ty.isF (modOk false true (packFloat f.ty)) false
def shFCmp (f : LF) : Shape :=
  { shVec f 2 Ty.isF (modOk false true packNone) false with dst := Spec.isS0, ext := (· < 8) }
def shFSpecial (f : LF) : Shape := shVec f 1 Ty.isSF (· == 0) false
def shFSqrt (f : LF) : Shape := shVec f 1 Ty.isF (modOk true false packNone) true
def shFDiv (f : LF) : Shape := shVec f 2 Ty.isF (modOk true true packNone) true
def shFClass (f : LF) : Shape :=
  { shVec f 1 Ty.isFloat (· == 0) false with dst := Spec.isVDst }
def shFScale (f : LF) : Shape :=
  { shVec f 1 Ty.isF (modOk true false packNone) true with
    sb := fun x => match x with
      | .v _ | .q _ | .s _ | .zero => true
      | .lit => f.lit.isSome
      | _ => false }
def shFRint (f : LF) : Shape := shVec f 1 Ty.isF (· == 0) true

/-! ### Conversions and cross-lane (R101, R102, R235-R246) -/

/-- The second type, in EXT 3:0 (R235). -/
def LF.sty (f : LF) : Ty := Ty.ofCode (f.ext.toNat % 16)

/-- R235: RND is 000 for an integer-to-integer conversion. -/
def cvtRnd (d s : Ty) (r : Rnd) : Bool := !(d.isInt && s.isInt) || r == .rne

def shCvt (f : LF) : Shape :=
  { dst := Spec.isVDstMul (if f.ty.wide then 2 else 1), sa := f.vsrc f.sty
    ext := (· < 16), mod := (· < 2), guard := true, rounds := true
    ty := fun t => t != .x32 && f.sty != .x32 && t != f.sty && cvtRnd t f.sty f.rnd }

/-- The packed types of PACK and UNPK (R236): the number of elements, 0 for another type. -/
def packCount : Ty → Nat
  | .h16 | .b16 | .i16 | .n16 => 2
  | .f8e4 | .f8e5 | .ds8 | .i8 | .n8 => 4
  | _ => 0

/-- The unpacked types of PACK and UNPK (R236). -/
def unpackedTy : Ty → Bool
  | .f32 | .f64 | .i32 | .n32 => true
  | _ => false

/-- The run length of k elements of the unpacked type t. -/
def runLen (k : Nat) (t : Ty) : Nat := if t.wide then 2 * k else k

def shPack (f : LF) : Shape :=
  { dst := Spec.isVDst, sa := Spec.isVMul (runLen (packCount f.ty) f.sty)
    ext := (· < 16), mod := (· < 2), guard := true, rounds := true
    ty := fun t => packCount t != 0 && unpackedTy f.sty && cvtRnd t f.sty f.rnd }
def shUnpk (f : LF) : Shape :=
  { dst := Spec.isVMul (runLen (packCount f.sty) f.ty), sa := fun x => x.isV || x.isS
    ext := (· < 16), mod := (· < 2), guard := true, rounds := true
    ty := fun t => packCount f.sty != 0 && unpackedTy t && cvtRnd t f.sty f.rnd }
def shSrseed : Shape := { sa := Spec.isS0, sb := Spec.isS0, noLit := true }
def shSrget : Shape := { dst := Spec.isS0, ext := (· < 2), noLit := true }

def shShfl (f : LF) : Shape :=
  { dst := Spec.isVDstMul (if f.ty.wide then 2 else 1), sa := f.vsrc f.ty, sb := f.vsrc .n32
    mod := (· < 5), guard := true, ty := fun _ => true }
def shPut (f : LF) : Shape :=
  { dst := Spec.isVMul (if f.ty.wide then 2 else 1), sa := f.vsrc f.ty, sb := f.vsrc .n32
    guard := true, ty := fun _ => true }
def shBcast (f : LF) : Shape :=
  { dst := Spec.isVDstMul (if f.ty.wide then 2 else 1), sa := f.vsrc f.ty, sb := Spec.isUniformIdx
    guard := true, ty := fun _ => true }
def shVote (f : LF) : Shape :=
  { dst := Spec.isS0, sa := f.vqsrc f.ty, guard := true, ty := fun _ => true }
def shMatch (f : LF) : Shape :=
  { dst := Spec.isVMul 2, sa := f.vqsrc f.ty, guard := true
    ty := fun t => f.ext == 0 || t.isFloat, ext := (· < 2) }

/-- R246: the types of a reduction operation. -/
def reduxTy (op : Nat) (t : Ty) : Bool :=
  if op < 3 then t.isArith else if op < 6 then t.isBits else if op < 9 then t.isF else false

def shRedux (f : LF) : Shape :=
  { dst := Spec.isS0, sa := f.vqsrc f.ty, guard := true, mod := (· < 9)
    rounds := f.mod == 6, ty := reduxTy f.mod.toNat }
def shScan (f : LF) : Shape :=
  { dst := Spec.isVDstMul (if f.ty.wide then 2 else 1), sa := f.vqsrc f.ty, guard := true
    mod := fun m => m % 16 < 9, rounds := f.mod.toNat % 16 == 6, ty := reduxTy (f.mod.toNat % 16) }

/-! ### Memory (R195-R197, R200, R204, R208-R210) -/

/-- The count of MOD 1:0 (R196): 1, 2 or 4; 0 for the illegal code. -/
def countOf (m : Nat) : Nat :=
  match m % 4 with
  | 0 => 1 | 1 => 2 | 2 => 4 | _ => 0

/-- R200: the registers of an access. -/
def LF.nreg (f : LF) : Nat := countOf f.mod.toNat * (if f.ty.wide then 2 else 1)

/-- R196, R200: a count that makes at most 16 bytes, with MOD 4:2 zero. -/
def LF.countMod (f : LF) (m : Nat) : Bool :=
  m < 3 && decide (f.ty.size * countOf m ≤ 16)

/-- LD with class .uni (R204). -/
def LF.isUni (f : LF) : Bool := f.ext.toNat / 8 == 1

def shLd (f : LF) : Shape :=
  if f.isUni then
    { dst := Spec.isS0, sa := Spec.isRecord, sb := Spec.isS0, ext := fun e => e % 8 < 4 && e / 8 == 1
      mod := (· == 0), ty := fun _ => true, disp := true }
  else
    { dst := Spec.isVDstMul f.nreg, sa := Spec.isRecord, sb := Spec.isOffX, ext := (· < 4)
      mod := f.countMod, guard := true, ty := fun _ => true, disp := true }
def shSt (f : LF) : Shape :=
  { sa := Spec.isRecord, sb := Spec.isOffX, sc := f.dsrc f.ty f.nreg, ext := (· < 4)
    mod := f.countMod, guard := true, ty := fun _ => true, disp := true }
/-- The loads of the spaces with a uniform offset; ext is the range of EXT. -/
def shLdx (ext : Nat) (f : LF) : Shape :=
  { dst := Spec.isVDstMul f.nreg, sa := Spec.isS0, sb := Spec.isOffX, ext := (· < ext)
    mod := f.countMod, guard := true, ty := fun _ => true, disp := true }
/-- The stores of the spaces with a uniform offset. -/
def shStx (ext : Nat) (f : LF) : Shape :=
  { sa := Spec.isS0, sb := Spec.isOffX, sc := f.dsrc f.ty f.nreg, ext := (· < ext)
    mod := f.countMod, guard := true, ty := fun _ => true, disp := true }

/-- The operation of an atomic (R208) and its 128-bit option. -/
def LF.aop (f : LF) : Nat := f.mod.toNat % 16
def LF.b128 (f : LF) : Bool := f.mod.toNat / 16 == 1

/-- R208: the types of an atomic operation. -/
def atomTy (op : Nat) (b128 : Bool) (t : Ty) : Bool :=
  if b128 then (op == 6 || op == 7) && t == .x32
  else if op < 3 then t.isArith else if op < 8 then t.isBits
  else op == 8 && (t == .f32 || t == .h16 || t == .b16)

/-- The access size of an atomic in bytes (R208). -/
def LF.asize (f : LF) : Nat := if f.b128 then 16 else f.ty.size

/-- The registers of one value of the access size. -/
def LF.aregs (f : LF) : Nat := if f.asize ≤ 4 then 1 else f.asize / 4

/-- R209: the operand of an atomic. -/
def LF.aopnd (f : LF) (x : Spec) : Bool :=
  if f.aop == 7 then x.isVMul (2 * f.aregs)
  else if f.b128 then x.isVMul 4
  else f.dsrc f.ty f.aregs x

def shAtom (space ext : Nat) (f : LF) : Shape :=
  { dst := Spec.isVDstMul f.aregs, sa := if space == 0 then Spec.isRecord else Spec.isS0
    sb := Spec.isOffX, sc := f.aopnd, ext := (· < ext), mod := fun m => m % 16 < 9
    guard := true, ty := atomTy f.aop f.b128, disp := true }
def shPref : Shape :=
  { sa := Spec.isRecord, sb := Spec.isOffX, ext := (· < 4), guard := true, disp := true }
def shDiscard : Shape :=
  { sa := Spec.isRecord, sb := Spec.isOffX, guard := true, disp := true }
def shFence : Shape := { ext := (· < 7), mod := fun m => m / 4 < 6, noLit := true }
def shWaitc : Shape := { sa := Spec.isScalar, ext := (· < 8) }
def shCntrd : Shape := { dst := Spec.isS0, ext := (· < 9), noLit := true }

/-- The types of a formatted load (R210). -/
def fragTy : Ty → Bool
  | .ds8 | .f8e4 | .f8e5 | .h16 | .b16 | .f32 => true
  | _ => false

/-- The fields of LDF: role .b, .scl and .win (R196). -/
def LF.roleB (f : LF) : Bool := f.mod.toNat % 2 == 1
def LF.scl (f : LF) : Bool := f.mod.toNat / 2 % 2 == 1
def LF.isWin (f : LF) : Bool := f.ext.toNat / 8 == 2

def shLdf (f : LF) : Shape :=
  { dst := if f.scl && f.roleB then Spec.isS else Spec.isV
    sa := if f.isWin then Spec.unused else Spec.isRecord, sb := Spec.isS
    ext := fun e => e < 4 || e / 8 == 2, mod := (· < 4)
    ty := fun t => fragTy t && !(f.scl && t == .f32), noLit := true }

/-! ### Matrix (R253, R257, R261) -/

/-- The B type of MMA and MCONV (R253). -/
def LF.bty (f : LF) : Ty := Ty.ofCode (f.mod.toNat % 16)
/-- The tile number (R253). -/
def LF.tile (f : LF) : Nat := f.ext.toNat + 32 * (f.mod.toNat / 16)

/-- R257: the accepted pairs of an A and a B type. -/
def mmaPair (a b : Ty) : Bool :=
  match a, b with
  | .f8e4, .ds8 | .f8e5, .ds8 | .f8e4, .f8e4 | .f8e4, .f8e5 | .f8e5, .f8e4 | .f8e5, .f8e5
  | .h16, .h16 | .b16, .b16 | .f32, .f32 => true
  | _, _ => false

/-- The scale and bias operands of the drains (R253). -/
def LF.isScale (f : LF) : Spec → Bool
  | .s _ | .v _ | .q _ | .one | .two | .four | .eight | .neg1 | .half | .oneF => true
  | .lit => f.lit.isSome
  | _ => false
def isBias : Spec → Bool
  | .v _ | .q _ | .zero => true
  | _ => false
def drainTy : Ty → Bool
  | .f32 | .h16 | .b16 | .f8e4 | .f8e5 => true
  | _ => false

def anyNat (_ : Nat) : Bool := true

def shMma (f : LF) : Shape :=
  { dst := fun x => if f.ty == .f32 then x == .zero else x.isS0
    sa := Spec.isV, sb := Spec.isV
    sc := fun x => if f.ty == .f32 then x == .zero else isBias x
    ext := anyNat, mod := anyNat, guard := true, ty := fun t => mmaPair t f.bty, noLit := true }
def shMconv (f : LF) : Shape :=
  { dst := fun x => if f.ty == .f32 then x == .zero else x.isS0
    sa := Spec.isRecord, sb := Spec.isV, sc := Spec.isS
    ext := anyNat, mod := anyNat, guard := true, ty := fun t => mmaPair t f.bty, noLit := true }
def shMzero : Shape := { ext := anyNat, mod := fun m => m % 16 == 0, noLit := true }
def shMload : Shape :=
  { sa := Spec.isV, ext := anyNat, mod := fun m => m % 16 == 0, guard := true, ty := (· == .f32), noLit := true }
def shMdrain (f : LF) : Shape :=
  { dst := Spec.isVDst, sa := f.isScale, sb := isBias, ext := anyNat, mod := fun m => m % 16 < 4
    guard := true, ty := drainTy, rounds := true }
def shMdrains (f : LF) : Shape :=
  { dst := Spec.isWindow, sa := f.isScale, sb := Spec.isS, sc := isBias, ext := anyNat
    mod := fun m => m % 16 < 4, guard := true, ty := drainTy, rounds := true }
def shMrows : Shape :=
  { dst := Spec.isVDstMul 2, ext := anyNat, mod := fun m => m % 16 < 2, guard := true
    ty := (· == .f32), noLit := true }
def shMshape : Shape := { sa := fun x => Spec.isSMul 1 26 x, noLit := true }

/-! ### Synchronisation and copy (R273, R274) -/

/-- The base field of a copy end in a space (R274). -/
def copyBase (sp : Nat) (x : Spec) : Bool :=
  match sp with
  | 0 => x.isRecord
  | 1 => x.isWindow
  | _ => x == .zero

def shCpy (list : Bool) (f : LF) : Shape :=
  { dst := copyBase (f.mod.toNat % 4), sa := copyBase (f.mod.toNat / 4 % 4), sb := Spec.isSMul 1 26
    sc := if list then Spec.isVMul 2 else Spec.unused
    ext := (· < 2), mod := (· < 16), guard := true, noLit := true }
def shBarInit : Shape := { sa := Spec.isBarrier, sb := Spec.isScalar }
def shBarRd : Shape := { dst := Spec.isS0, sa := Spec.isBarrier, sb := Spec.isScalar }
def shBarPay : Shape := { dst := Spec.isS0, sa := Spec.isBarrier, sb := Spec.isScalar, ext := (· < 6) }
def shFuture (fill : Bool) : Shape :=
  { dst := Spec.isS0, sa := Spec.isCell, sb := Spec.isS0
    sc := if fill then Spec.isScalar else Spec.unused, disp := true }
def shSem : Shape :=
  { dst := Spec.isS0, sa := Spec.isRecord, sb := Spec.isS0, sc := Spec.isScalar, ext := (· < 7), disp := true }
def shRngres : Shape :=
  { dst := Spec.isS0, sa := Spec.isRecord, sb := Spec.isS0, sc := Spec.isScalar, mod := (· < 2), disp := true }
def shRngpub : Shape := { sa := Spec.isRecord, sb := Spec.isS0, sc := Spec.isScalar, disp := true }
def shPhase : Shape := { sa := Spec.isBarrier, sb := Spec.isS0, mod := (· < 2), label := true }

/-! ### System (R319) -/

/-- TRAPC: the run vA to vA + k ends at or below v63 (R320). -/
def shTrapc (f : LF) : Shape :=
  { dst := fun x => x.isVMul 2 || x == .zero
    sa := fun x => match x with
      | .v n => n.val + f.ext.toNat ≤ 63
      | _ => false
    ext := (· < 7), guard := true, noLit := true }
def shResume : Shape := { sa := Spec.isScalar, sb := Spec.isScalar, sc := Spec.isS0, ext := (· < 3) }
def shBrk : Shape := { ext := anyNat, noLit := true }
def shSysrd : Shape := { dst := Spec.isS0, sb := Spec.isScalar, sc := Spec.isScalar, ext := (· < 8) }
def shSyswr : Shape := { sa := Spec.isScalar, sb := Spec.isScalar, sc := Spec.isScalar, ext := (· < 8) }
def shMsend : Shape := { dst := Spec.isS0, sa := Spec.isScalar, sb := Spec.isSMul 8 24 }
def shMrecv : Shape := { dst := Spec.isSMul 8 24, ext := (· < 2), noLit := true }
def shSaveg : Shape := { dst := Spec.isS0, sa := Spec.isScalar, sb := Spec.isScalar, ext := (· < 4) }
def shTlbinv (f : LF) : Shape :=
  { sa := fun x => if f.ext == 0 then x.isScalar else x == .zero
    sb := fun x => if f.ext == 2 then x == .zero else x.isScalar, ext := (· < 3) }
def shKeysel : Shape := { dst := Spec.isS0, sa := Spec.isScalar, ext := (· < 4) }

/-! ### Network (R367), trace and audit (R395, R414) -/

def shNet (mod : Nat → Bool) (ty : Ty → Bool) : Shape :=
  { dst := Spec.isS0, sa := Spec.isRecord, sb := Spec.isS, sc := Spec.isRecord, ext := (· < 7)
    mod := mod, ty := ty, guard := true, noLit := true }
def shNatom (f : LF) : Shape :=
  { shNet (· < 8) (atomTy f.mod.toNat false) with sa := Spec.unused }
def shNwaitn : Shape := { dst := Spec.isSMul 2 30, sa := Spec.isScalar, mod := (· < 2) }
def shNwopen : Shape := { dst := Spec.isS0, sa := Spec.isScalar, sb := Spec.isRecord }
def shNwrev : Shape := { dst := Spec.isS0, sa := Spec.isScalar }
def shTrace : Shape := { sa := Spec.isScalar, ext := anyNat }
def shTrflush : Shape := { dst := Spec.isS0, noLit := true }
def shAudrd : Shape :=
  { dst := Spec.isS0, sa := Spec.isScalar, sb := Spec.isScalar, sc := Spec.isScalar, ext := (· < 5), mod := (· < 2) }
def shAudclr (f : LF) : Shape :=
  { sa := if f.ext == 4 || f.ext == 6 then Spec.unused else Spec.isScalar
    sb := if f.ext == 5 || f.ext == 6 then Spec.isScalar else Spec.unused
    sc := Spec.isScalar, ext := (· < 7) }

/-! ### Short forms (R50, R53, R79) -/

/-- A short form's own fields: no illegal destination and no literal specifier (R54, R56). -/
def SF.base (f : SF) : Bool := f.dst.isVDst || f.dst.isS

/-- The scalar short forms: G is 0 (R168). -/
def SF.scalar (f : SF) (n : Nat) : Bool :=
  !f.g && f.dst.isS0 && f.sa.isScalar && !f.sa.isLit &&
  (if n ≥ 2 then f.sb.isScalar && !f.sb.isLit else f.sb.unused)

/-- The vector short forms of n sources; the rest of the rule needs GMODE.TYPE (R53, R64). -/
def SF.vector (f : SF) (n : Nat) : Bool :=
  f.dst.isVDst && !f.sa.isLit && (if n ≥ 2 then !f.sb.isLit else f.sb.unused)

/-- The short forms of the votes (R240). -/
def SF.vote (f : SF) : Bool := f.dst.isS0 && f.sa.isVQ && f.sb.unused

/-- The short NOP (R79). -/
def SF.nop (f : SF) : Bool := !f.g && f.dst.unused && f.sa.unused && f.sb.unused

/-! ### One rule per instruction -/

namespace Wf

def nop (f : LF) : Bool := Shape.ok (shNop) f
def setmode (f : LF) : Bool := Shape.ok (shSetmode) f
def getmode (f : LF) : Bool := Shape.ok (shGetmode) f
def bra (f : LF) : Bool := Shape.ok (shBra) f && f.litAligned
def bral (f : LF) : Bool := Shape.ok (shBral) f && f.litAligned
def jmp (f : LF) : Bool := Shape.ok (shJmp) f
def jmpl (f : LF) : Bool := Shape.ok (shJmpl) f
def ret (f : LF) : Bool := Shape.ok (shJmp) f
def brzm (f : LF) : Bool := Shape.ok (shBrm) f && f.litAligned
def brnzm (f : LF) : Bool := Shape.ok (shBrm) f && f.litAligned
def brallm (f : LF) : Bool := Shape.ok (shBrm) f && f.litAligned
def loop (f : LF) : Bool := Shape.ok (shLoop) f && f.litAligned
def exit (f : LF) : Bool := Shape.ok (shNop) f
def split (f : LF) : Bool := Shape.ok (shSplit) f
def splitm (f : LF) : Bool := Shape.ok (shSplitm) f
def fuse (f : LF) : Bool := Shape.ok (shFuse) f
def setpri (f : LF) : Bool := Shape.ok (shSa) f
def yield (f : LF) : Bool := Shape.ok (shNop) f
def sleep (f : LF) : Bool := Shape.ok (shSa) f
def getid (f : LF) : Bool := Shape.ok (shGetid) f
def sadd (f : LF) : Bool := Shape.ok (shScalar 2 false) f
def ssub (f : LF) : Bool := Shape.ok (shScalar 2 false) f
def smul (f : LF) : Bool := Shape.ok (shScalar 2 false) f
def smulh (f : LF) : Bool := Shape.ok (shScalar 2 true) f
def sdiv (f : LF) : Bool := Shape.ok (shScalar 2 true) f
def srem (f : LF) : Bool := Shape.ok (shScalar 2 true) f
def smin (f : LF) : Bool := Shape.ok (shScalar 2 true) f
def smax (f : LF) : Bool := Shape.ok (shScalar 2 true) f
def sand (f : LF) : Bool := Shape.ok (shScalar 2 false) f
def sor (f : LF) : Bool := Shape.ok (shScalar 2 false) f
def sxor (f : LF) : Bool := Shape.ok (shScalar 2 false) f
def sandn (f : LF) : Bool := Shape.ok (shScalar 2 false) f
def sshl (f : LF) : Bool := Shape.ok (shScalar 2 false) f
def sshr (f : LF) : Bool := Shape.ok (shScalar 2 false) f
def ssar (f : LF) : Bool := Shape.ok (shScalar 2 false) f
def smov (f : LF) : Bool := Shape.ok (shScalar 1 false) f
def sli (f : LF) : Bool := Shape.ok (shSli f) f
def scmp (f : LF) : Bool := Shape.ok (shScmp) f
def ssel (f : LF) : Bool := Shape.ok (shScalar 3 false) f
def spopc (f : LF) : Bool := Shape.ok (shScalar 1 false) f
def sclz (f : LF) : Bool := Shape.ok (shScalar 1 false) f
def sctz (f : LF) : Bool := Shape.ok (shScalar 1 false) f
def sffs (f : LF) : Bool := Shape.ok (shScalar 2 false) f
def sbfx (f : LF) : Bool := Shape.ok (shScalar 3 true) f
def sbfi (f : LF) : Bool := Shape.ok (shScalar 3 false) f
def vadd (f : LF) : Bool := Shape.ok (shVArith 2 true f) f
def vsub (f : LF) : Bool := Shape.ok (shVArith 2 true f) f
def vmul (f : LF) : Bool := Shape.ok (shVArith 2 true f) f
def vmulh (f : LF) : Bool := Shape.ok (shVMulh f) f
def vmad (f : LF) : Bool := Shape.ok (shVArith 3 true f) f
def vmin (f : LF) : Bool := Shape.ok (shVArith 2 false f) f
def vmax (f : LF) : Bool := Shape.ok (shVArith 2 false f) f
def vabs (f : LF) : Bool := Shape.ok (shVAbs f) f
def vand (f : LF) : Bool := Shape.ok (shVBits 2 f) f
def vor (f : LF) : Bool := Shape.ok (shVBits 2 f) f
def vxor (f : LF) : Bool := Shape.ok (shVBits 2 f) f
def vandn (f : LF) : Bool := Shape.ok (shVBits 2 f) f
def vshl (f : LF) : Bool := Shape.ok (shVShift f) f
def vshr (f : LF) : Bool := Shape.ok (shVShift f) f
def vsar (f : LF) : Bool := Shape.ok (shVShift f) f
def vrol (f : LF) : Bool := Shape.ok (shVShift f) f
def vbfx (f : LF) : Bool := Shape.ok (shVBfx f) f
def vbfi (f : LF) : Bool := Shape.ok (shVBfi f) f
def vpopc (f : LF) : Bool := Shape.ok (shVCount f) f
def vclz (f : LF) : Bool := Shape.ok (shVCount f) f
def vbrev (f : LF) : Bool := Shape.ok (shVCount f) f
def vsel (f : LF) : Bool := Shape.ok (shVSel f) f
def vmov (f : LF) : Bool := Shape.ok (shVMov f) f
def vli (f : LF) : Bool := Shape.ok (shVLi f) f
def vcmp (f : LF) : Bool := Shape.ok (shVCmp f) f
def fadd (f : LF) : Bool := Shape.ok (shFArith 2 f) f
def fsub (f : LF) : Bool := Shape.ok (shFArith 2 f) f
def fmul (f : LF) : Bool := Shape.ok (shFArith 2 f) f
def fma (f : LF) : Bool := Shape.ok (shFArith 3 f) f
def fmin (f : LF) : Bool := Shape.ok (shFMinMax f) f
def fmax (f : LF) : Bool := Shape.ok (shFMinMax f) f
def fcmp (f : LF) : Bool := Shape.ok (shFCmp f) f
def frcp (f : LF) : Bool := Shape.ok (shFSpecial f) f
def frsq (f : LF) : Bool := Shape.ok (shFSpecial f) f
def fsqrt (f : LF) : Bool := Shape.ok (shFSqrt f) f
def fdiv (f : LF) : Bool := Shape.ok (shFDiv f) f
def fexp2 (f : LF) : Bool := Shape.ok (shFSpecial f) f
def flog2 (f : LF) : Bool := Shape.ok (shFSpecial f) f
def fsin (f : LF) : Bool := Shape.ok (shFSpecial f) f
def fcos (f : LF) : Bool := Shape.ok (shFSpecial f) f
def ftanh (f : LF) : Bool := Shape.ok (shFSpecial f) f
def fclass (f : LF) : Bool := Shape.ok (shFClass f) f
def fscale (f : LF) : Bool := Shape.ok (shFScale f) f
def frint (f : LF) : Bool := Shape.ok (shFRint f) f
def cvt (f : LF) : Bool := Shape.ok (shCvt f) f
def pack (f : LF) : Bool := Shape.ok (shPack f) f
def unpk (f : LF) : Bool := Shape.ok (shUnpk f) f
def srseed (f : LF) : Bool := Shape.ok (shSrseed) f
def srget (f : LF) : Bool := Shape.ok (shSrget) f
def shfl (f : LF) : Bool := Shape.ok (shShfl f) f
def shflx (f : LF) : Bool := Shape.ok (shShfl f) f
def shflup (f : LF) : Bool := Shape.ok (shShfl f) f
def shfldn (f : LF) : Bool := Shape.ok (shShfl f) f
def put (f : LF) : Bool := Shape.ok (shPut f) f
def bcast (f : LF) : Bool := Shape.ok (shBcast f) f
def vany (f : LF) : Bool := Shape.ok (shVote f) f
def vall (f : LF) : Bool := Shape.ok (shVote f) f
def ballot (f : LF) : Bool := Shape.ok (shVote f) f
def matchLanes (f : LF) : Bool := Shape.ok (shMatch f) f
def redux (f : LF) : Bool := Shape.ok (shRedux f) f
def scan (f : LF) : Bool := Shape.ok (shScan f) f
def ld (f : LF) : Bool := Shape.ok (shLd f) f
def st (f : LF) : Bool := Shape.ok (shSt f) f
def ldf (f : LF) : Bool := Shape.ok (shLdf f) f
def lds (f : LF) : Bool := Shape.ok (shLdx 8 f) f
def sts (f : LF) : Bool := Shape.ok (shStx 8 f) f
def ldc (f : LF) : Bool := Shape.ok (shLdx 1 f) f
def stc (f : LF) : Bool := Shape.ok (shStx 1 f) f
def ldk (f : LF) : Bool := Shape.ok (shLdx 1 f) f
def stk (f : LF) : Bool := Shape.ok (shStx 1 f) f
def ldp (f : LF) : Bool := Shape.ok (shLdx 4 f) f
def stp (f : LF) : Bool := Shape.ok (shStx 4 f) f
def atom (f : LF) : Bool := Shape.ok (shAtom 0 1 f) f
def atoms (f : LF) : Bool := Shape.ok (shAtom 1 8 f) f
def atomc (f : LF) : Bool := Shape.ok (shAtom 2 1 f) f
def pref (f : LF) : Bool := Shape.ok (shPref) f
def discard (f : LF) : Bool := Shape.ok (shDiscard) f
def fence (f : LF) : Bool := Shape.ok (shFence) f
def waitc (f : LF) : Bool := Shape.ok (shWaitc) f
def cntrd (f : LF) : Bool := Shape.ok (shCntrd) f
def mma (f : LF) : Bool := Shape.ok (shMma f) f
def mconv (f : LF) : Bool := Shape.ok (shMconv f) f
def mzero (f : LF) : Bool := Shape.ok (shMzero) f
def mload (f : LF) : Bool := Shape.ok (shMload) f
def mdrain (f : LF) : Bool := Shape.ok (shMdrain f) f
def mdrains (f : LF) : Bool := Shape.ok (shMdrains f) f
def mrows (f : LF) : Bool := Shape.ok (shMrows) f
def mshape (f : LF) : Bool := Shape.ok (shMshape) f
def cpy (f : LF) : Bool := Shape.ok (shCpy false f) f
def cpyg (f : LF) : Bool := Shape.ok (shCpy true f) f
def cpys (f : LF) : Bool := Shape.ok (shCpy true f) f
def barinit (f : LF) : Bool := Shape.ok (shBarInit) f
def barexp (f : LF) : Bool := Shape.ok (shBarInit) f
def bararr (f : LF) : Bool := Shape.ok (shBarRd) f
def barwait (f : LF) : Bool := Shape.ok (shBarRd) f
def bartest (f : LF) : Bool := Shape.ok (shBarRd) f
def barpay (f : LF) : Bool := Shape.ok (shBarPay) f
def fwait (f : LF) : Bool := Shape.ok (shFuture false) f
def ffill (f : LF) : Bool := Shape.ok (shFuture true) f
def fclr (f : LF) : Bool := Shape.ok (shFuture false) f
def semsig (f : LF) : Bool := Shape.ok (shSem) f
def semwait (f : LF) : Bool := Shape.ok (shSem) f
def rngres (f : LF) : Bool := Shape.ok (shRngres) f
def rngpub (f : LF) : Bool := Shape.ok (shRngpub) f
def phase (f : LF) : Bool := Shape.ok (shPhase) f
def teambar (f : LF) : Bool := Shape.ok (shNop) f
def trapc (f : LF) : Bool := Shape.ok (shTrapc f) f
def resume (f : LF) : Bool := Shape.ok (shResume) f
def retx (f : LF) : Bool := Shape.ok (shNop) f
def brk (f : LF) : Bool := Shape.ok (shBrk) f
def sysrd (f : LF) : Bool := Shape.ok (shSysrd) f
def syswr (f : LF) : Bool := Shape.ok (shSyswr) f
def msend (f : LF) : Bool := Shape.ok (shMsend) f
def mrecv (f : LF) : Bool := Shape.ok (shMrecv) f
def saveg (f : LF) : Bool := Shape.ok (shSaveg) f
def loadg (f : LF) : Bool := Shape.ok (shSaveg) f
def tlbinv (f : LF) : Bool := Shape.ok (shTlbinv f) f
def keysel (f : LF) : Bool := Shape.ok (shKeysel) f
def idle (f : LF) : Bool := Shape.ok (shNop) f
def nput (f : LF) : Bool := Shape.ok (shNet (· == 0) (· == .i32)) f
def nget (f : LF) : Bool := Shape.ok (shNet (· == 0) (· == .i32)) f
def nputi (f : LF) : Bool := Shape.ok (shNet (· < 2) (· == .i32)) f
def nputa (f : LF) : Bool := Shape.ok (shNet (· == 0) (fun t => t == .f32 || t == .b16)) f
def natom (f : LF) : Bool := Shape.ok (shNatom f) f
def nwaitn (f : LF) : Bool := Shape.ok (shNwaitn) f
def nwopen (f : LF) : Bool := Shape.ok (shNwopen) f
def nwrev (f : LF) : Bool := Shape.ok (shNwrev) f
def trace (f : LF) : Bool := Shape.ok (shTrace) f
def trflush (f : LF) : Bool := Shape.ok (shTrflush) f
def trtag (f : LF) : Bool := Shape.ok (shSa) f
def audtag (f : LF) : Bool := Shape.ok (shSa) f
def audrd (f : LF) : Bool := Shape.ok (shAudrd) f
def audclr (f : LF) : Bool := Shape.ok (shAudclr f) f

end Wf

/-- A well-formed instruction: its encoding is one that its description assigns (R82). A step without
an encoding is well formed. The vector short forms are checked again with GMODE.TYPE (R64). -/
def Instr.wf : Instr → Bool
  | .moduleReset => true
  | .powerLoss => true
  | .grandmasterLock => true
  | .grandmasterLoss => true
  | .ethernetOtherFrame => true
  | .hostMemoryRequest => true
  | .hostRegisterWrite => true
  | .hcmddWrite => true
  | .dbellWrite => true
  | .qreg => true
  | .qunreg => true
  | .qclear => true
  | .imageRewrite => true
  | .powerCapSet => true
  | .lifetimeLogRead => true
  | .attestationRequest => true
  | .commit => true
  | .issueCycle => true
  | .issueBoundExpiry => true
  | .arbitrationLossLimit => true
  | .registerResultArrival => true
  | .lsAccessComplete => true
  | .lsDrainComplete => true
  | .laneReplay => true
  | .fuseWindowExpiry => true
  | .fuseSuccess => true
  | .sleepExpiry => true
  | .exitComplete => true
  | .copyUnitWrite => true
  | .copyComplete => true
  | .matrixOpComplete => true
  | .phaseReadmission => true
  | .semaphoreReevaluation => true
  | .semaphoreWaitTimeout => true
  | .teamStall => true
  | .softStopTimeout => true
  | .timeSliceExpiry => true
  | .ctimerExpiry => true
  | .colHandlerEntry => true
  | .eventRingRecordWrite => true
  | .queuePoll => true
  | .resumePacket => true
  | .signalPacket => true
  | .waitPacket => true
  | .markPacket => true
  | .notePacket => true
  | .softStop => true
  | .hardStop => true
  | .hardStopComplete => true
  | .resumeIssue => true
  | .releasePlaces => true
  | .mresolve => true
  | .barreinit => true
  | .tenupd => true
  | .keyDraw => true
  | .keyErase => true
  | .keyInstall => true
  | .monitorKey => true
  | .monitorErase => true
  | .islset => true
  | .islget => true
  | .attest => true
  | .logread => true
  | .memmap => true
  | .memunmap => true
  | .memprot => true
  | .fopen => true
  | .fclose => true
  | .fread => true
  | .fwrite => true
  | .finfo => true
  | .fsync => true
  | .skopen => true
  | .skconn => true
  | .sksend => true
  | .skrecv => true
  | .skclose => true
  | .timeget => true
  | .timewait => true
  | .evring => true
  | .winset => true
  | .grpctl => true
  | .qopen => true
  | .nvmeCompletion => true
  | .putPacket => true
  | .putiPacket => true
  | .addPacket => true
  | .getreq => true
  | .getrsp => true
  | .atomreq => true
  | .atomrsp => true
  | .ack => true
  | .nak => true
  | .busy => true
  | .openPacket => true
  | .openack => true
  | .connectionContextFetched => true
  | .messageTransmit => true
  | .retransmitTimeout => true
  | .busyRetry => true
  | .networkDeadline => true
  | .reassemblyAbandon => true
  | .heldNotificationWrite => true
  | .notificationHoldExpiry => true
  | .sampleAudit => true
  | .traceRingWrite => true
  | .dropRecordWrite => true
  | .losslessRelease => true
  | .trfullTimeout => true
  | .samplePick => true
  | .powerMeasurement => true
  | .limiterRaiseHold => true
  | .ageingMeasurement => true
  | .ageingMeasurementEnd => true
  | .patrolScrub => true
  | .lifetimeLogRewrite => true
  | .nopShort f => f.nop
  | .saddShort f => f.scalar 2
  | .ssubShort f => f.scalar 2
  | .sandShort f => f.scalar 2
  | .sorShort f => f.scalar 2
  | .sxorShort f => f.scalar 2
  | .sandnShort f => f.scalar 2
  | .sshlShort f => f.scalar 2
  | .sshrShort f => f.scalar 2
  | .ssarShort f => f.scalar 2
  | .smovShort f => f.scalar 1
  | .spopcShort f => f.scalar 1
  | .vaddShort f => f.vector 2
  | .vsubShort f => f.vector 2
  | .vmulShort f => f.vector 2
  | .vmulhShort f => f.vector 2
  | .vminShort f => f.vector 2
  | .vmaxShort f => f.vector 2
  | .vabsShort f => f.vector 1
  | .vandShort f => f.vector 2
  | .vorShort f => f.vector 2
  | .vxorShort f => f.vector 2
  | .vandnShort f => f.vector 2
  | .vshlShort f => f.vector 2
  | .vshrShort f => f.vector 2
  | .vsarShort f => f.vector 2
  | .vrolShort f => f.vector 2
  | .vpopcShort f => f.vector 1
  | .vclzShort f => f.vector 1
  | .vbrevShort f => f.vector 1
  | .vmovShort f => f.vector 1
  | .faddShort f => f.vector 2
  | .fsubShort f => f.vector 2
  | .fmulShort f => f.vector 2
  | .fminShort f => f.vector 2
  | .fmaxShort f => f.vector 2
  | .frcpShort f => f.vector 1
  | .frsqShort f => f.vector 1
  | .fsqrtShort f => f.vector 1
  | .fexp2Short f => f.vector 1
  | .flog2Short f => f.vector 1
  | .fsinShort f => f.vector 1
  | .fcosShort f => f.vector 1
  | .ftanhShort f => f.vector 1
  | .frintShort f => f.vector 1
  | .shflShort f => f.vector 2
  | .bcastShort f => f.vector 2
  | .ballotShort f => f.vote
  | .vanyShort f => f.vote
  | .vallShort f => f.vote
  | .nop f => Wf.nop f
  | .setmode f => Wf.setmode f
  | .getmode f => Wf.getmode f
  | .bra f => Wf.bra f
  | .bral f => Wf.bral f
  | .jmp f => Wf.jmp f
  | .jmpl f => Wf.jmpl f
  | .ret f => Wf.ret f
  | .brzm f => Wf.brzm f
  | .brnzm f => Wf.brnzm f
  | .brallm f => Wf.brallm f
  | .loop f => Wf.loop f
  | .exit f => Wf.exit f
  | .split f => Wf.split f
  | .splitm f => Wf.splitm f
  | .fuse f => Wf.fuse f
  | .setpri f => Wf.setpri f
  | .yield f => Wf.yield f
  | .sleep f => Wf.sleep f
  | .getid f => Wf.getid f
  | .sadd f => Wf.sadd f
  | .ssub f => Wf.ssub f
  | .smul f => Wf.smul f
  | .smulh f => Wf.smulh f
  | .sdiv f => Wf.sdiv f
  | .srem f => Wf.srem f
  | .smin f => Wf.smin f
  | .smax f => Wf.smax f
  | .sand f => Wf.sand f
  | .sor f => Wf.sor f
  | .sxor f => Wf.sxor f
  | .sandn f => Wf.sandn f
  | .sshl f => Wf.sshl f
  | .sshr f => Wf.sshr f
  | .ssar f => Wf.ssar f
  | .smov f => Wf.smov f
  | .sli f => Wf.sli f
  | .scmp f => Wf.scmp f
  | .ssel f => Wf.ssel f
  | .spopc f => Wf.spopc f
  | .sclz f => Wf.sclz f
  | .sctz f => Wf.sctz f
  | .sffs f => Wf.sffs f
  | .sbfx f => Wf.sbfx f
  | .sbfi f => Wf.sbfi f
  | .vadd f => Wf.vadd f
  | .vsub f => Wf.vsub f
  | .vmul f => Wf.vmul f
  | .vmulh f => Wf.vmulh f
  | .vmad f => Wf.vmad f
  | .vmin f => Wf.vmin f
  | .vmax f => Wf.vmax f
  | .vabs f => Wf.vabs f
  | .vand f => Wf.vand f
  | .vor f => Wf.vor f
  | .vxor f => Wf.vxor f
  | .vandn f => Wf.vandn f
  | .vshl f => Wf.vshl f
  | .vshr f => Wf.vshr f
  | .vsar f => Wf.vsar f
  | .vrol f => Wf.vrol f
  | .vbfx f => Wf.vbfx f
  | .vbfi f => Wf.vbfi f
  | .vpopc f => Wf.vpopc f
  | .vclz f => Wf.vclz f
  | .vbrev f => Wf.vbrev f
  | .vsel f => Wf.vsel f
  | .vmov f => Wf.vmov f
  | .vli f => Wf.vli f
  | .vcmp f => Wf.vcmp f
  | .fadd f => Wf.fadd f
  | .fsub f => Wf.fsub f
  | .fmul f => Wf.fmul f
  | .fma f => Wf.fma f
  | .fmin f => Wf.fmin f
  | .fmax f => Wf.fmax f
  | .fcmp f => Wf.fcmp f
  | .frcp f => Wf.frcp f
  | .frsq f => Wf.frsq f
  | .fsqrt f => Wf.fsqrt f
  | .fdiv f => Wf.fdiv f
  | .fexp2 f => Wf.fexp2 f
  | .flog2 f => Wf.flog2 f
  | .fsin f => Wf.fsin f
  | .fcos f => Wf.fcos f
  | .ftanh f => Wf.ftanh f
  | .fclass f => Wf.fclass f
  | .fscale f => Wf.fscale f
  | .frint f => Wf.frint f
  | .cvt f => Wf.cvt f
  | .pack f => Wf.pack f
  | .unpk f => Wf.unpk f
  | .srseed f => Wf.srseed f
  | .srget f => Wf.srget f
  | .shfl f => Wf.shfl f
  | .shflx f => Wf.shflx f
  | .shflup f => Wf.shflup f
  | .shfldn f => Wf.shfldn f
  | .put f => Wf.put f
  | .bcast f => Wf.bcast f
  | .vany f => Wf.vany f
  | .vall f => Wf.vall f
  | .ballot f => Wf.ballot f
  | .matchLanes f => Wf.matchLanes f
  | .redux f => Wf.redux f
  | .scan f => Wf.scan f
  | .ld f => Wf.ld f
  | .st f => Wf.st f
  | .ldf f => Wf.ldf f
  | .lds f => Wf.lds f
  | .sts f => Wf.sts f
  | .ldc f => Wf.ldc f
  | .stc f => Wf.stc f
  | .ldk f => Wf.ldk f
  | .stk f => Wf.stk f
  | .ldp f => Wf.ldp f
  | .stp f => Wf.stp f
  | .atom f => Wf.atom f
  | .atoms f => Wf.atoms f
  | .atomc f => Wf.atomc f
  | .pref f => Wf.pref f
  | .discard f => Wf.discard f
  | .fence f => Wf.fence f
  | .waitc f => Wf.waitc f
  | .cntrd f => Wf.cntrd f
  | .mma f => Wf.mma f
  | .mconv f => Wf.mconv f
  | .mzero f => Wf.mzero f
  | .mload f => Wf.mload f
  | .mdrain f => Wf.mdrain f
  | .mdrains f => Wf.mdrains f
  | .mrows f => Wf.mrows f
  | .mshape f => Wf.mshape f
  | .cpy f => Wf.cpy f
  | .cpyg f => Wf.cpyg f
  | .cpys f => Wf.cpys f
  | .barinit f => Wf.barinit f
  | .barexp f => Wf.barexp f
  | .bararr f => Wf.bararr f
  | .barwait f => Wf.barwait f
  | .bartest f => Wf.bartest f
  | .barpay f => Wf.barpay f
  | .fwait f => Wf.fwait f
  | .ffill f => Wf.ffill f
  | .fclr f => Wf.fclr f
  | .semsig f => Wf.semsig f
  | .semwait f => Wf.semwait f
  | .rngres f => Wf.rngres f
  | .rngpub f => Wf.rngpub f
  | .phase f => Wf.phase f
  | .teambar f => Wf.teambar f
  | .trapc f => Wf.trapc f
  | .resume f => Wf.resume f
  | .retx f => Wf.retx f
  | .brk f => Wf.brk f
  | .sysrd f => Wf.sysrd f
  | .syswr f => Wf.syswr f
  | .msend f => Wf.msend f
  | .mrecv f => Wf.mrecv f
  | .saveg f => Wf.saveg f
  | .loadg f => Wf.loadg f
  | .tlbinv f => Wf.tlbinv f
  | .keysel f => Wf.keysel f
  | .idle f => Wf.idle f
  | .nput f => Wf.nput f
  | .nget f => Wf.nget f
  | .nputi f => Wf.nputi f
  | .nputa f => Wf.nputa f
  | .natom f => Wf.natom f
  | .nwaitn f => Wf.nwaitn f
  | .nwopen f => Wf.nwopen f
  | .nwrev f => Wf.nwrev f
  | .trace f => Wf.trace f
  | .trflush f => Wf.trflush f
  | .trtag f => Wf.trtag f
  | .audtag f => Wf.audtag f
  | .audrd f => Wf.audrd f
  | .audclr f => Wf.audclr f
  | .pyxlinkPacketDropped => true
  | .temperatureVoltageBinMinute => true

/-- A step without an encoding. -/
def Instr.isEvent : Instr → Bool
  | .moduleReset => true
  | .powerLoss => true
  | .grandmasterLock => true
  | .grandmasterLoss => true
  | .ethernetOtherFrame => true
  | .hostMemoryRequest => true
  | .hostRegisterWrite => true
  | .hcmddWrite => true
  | .dbellWrite => true
  | .qreg => true
  | .qunreg => true
  | .qclear => true
  | .imageRewrite => true
  | .powerCapSet => true
  | .lifetimeLogRead => true
  | .attestationRequest => true
  | .commit => true
  | .issueCycle => true
  | .issueBoundExpiry => true
  | .arbitrationLossLimit => true
  | .registerResultArrival => true
  | .lsAccessComplete => true
  | .lsDrainComplete => true
  | .laneReplay => true
  | .fuseWindowExpiry => true
  | .fuseSuccess => true
  | .sleepExpiry => true
  | .exitComplete => true
  | .copyUnitWrite => true
  | .copyComplete => true
  | .matrixOpComplete => true
  | .phaseReadmission => true
  | .semaphoreReevaluation => true
  | .semaphoreWaitTimeout => true
  | .teamStall => true
  | .softStopTimeout => true
  | .timeSliceExpiry => true
  | .ctimerExpiry => true
  | .colHandlerEntry => true
  | .eventRingRecordWrite => true
  | .queuePoll => true
  | .resumePacket => true
  | .signalPacket => true
  | .waitPacket => true
  | .markPacket => true
  | .notePacket => true
  | .softStop => true
  | .hardStop => true
  | .hardStopComplete => true
  | .resumeIssue => true
  | .releasePlaces => true
  | .mresolve => true
  | .barreinit => true
  | .tenupd => true
  | .keyDraw => true
  | .keyErase => true
  | .keyInstall => true
  | .monitorKey => true
  | .monitorErase => true
  | .islset => true
  | .islget => true
  | .attest => true
  | .logread => true
  | .memmap => true
  | .memunmap => true
  | .memprot => true
  | .fopen => true
  | .fclose => true
  | .fread => true
  | .fwrite => true
  | .finfo => true
  | .fsync => true
  | .skopen => true
  | .skconn => true
  | .sksend => true
  | .skrecv => true
  | .skclose => true
  | .timeget => true
  | .timewait => true
  | .evring => true
  | .winset => true
  | .grpctl => true
  | .qopen => true
  | .nvmeCompletion => true
  | .putPacket => true
  | .putiPacket => true
  | .addPacket => true
  | .getreq => true
  | .getrsp => true
  | .atomreq => true
  | .atomrsp => true
  | .ack => true
  | .nak => true
  | .busy => true
  | .openPacket => true
  | .openack => true
  | .connectionContextFetched => true
  | .messageTransmit => true
  | .retransmitTimeout => true
  | .busyRetry => true
  | .networkDeadline => true
  | .reassemblyAbandon => true
  | .heldNotificationWrite => true
  | .notificationHoldExpiry => true
  | .sampleAudit => true
  | .traceRingWrite => true
  | .dropRecordWrite => true
  | .losslessRelease => true
  | .trfullTimeout => true
  | .samplePick => true
  | .powerMeasurement => true
  | .limiterRaiseHold => true
  | .ageingMeasurement => true
  | .ageingMeasurementEnd => true
  | .patrolScrub => true
  | .lifetimeLogRewrite => true
  | .nopShort _ => false
  | .saddShort _ => false
  | .ssubShort _ => false
  | .sandShort _ => false
  | .sorShort _ => false
  | .sxorShort _ => false
  | .sandnShort _ => false
  | .sshlShort _ => false
  | .sshrShort _ => false
  | .ssarShort _ => false
  | .smovShort _ => false
  | .spopcShort _ => false
  | .vaddShort _ => false
  | .vsubShort _ => false
  | .vmulShort _ => false
  | .vmulhShort _ => false
  | .vminShort _ => false
  | .vmaxShort _ => false
  | .vabsShort _ => false
  | .vandShort _ => false
  | .vorShort _ => false
  | .vxorShort _ => false
  | .vandnShort _ => false
  | .vshlShort _ => false
  | .vshrShort _ => false
  | .vsarShort _ => false
  | .vrolShort _ => false
  | .vpopcShort _ => false
  | .vclzShort _ => false
  | .vbrevShort _ => false
  | .vmovShort _ => false
  | .faddShort _ => false
  | .fsubShort _ => false
  | .fmulShort _ => false
  | .fminShort _ => false
  | .fmaxShort _ => false
  | .frcpShort _ => false
  | .frsqShort _ => false
  | .fsqrtShort _ => false
  | .fexp2Short _ => false
  | .flog2Short _ => false
  | .fsinShort _ => false
  | .fcosShort _ => false
  | .ftanhShort _ => false
  | .frintShort _ => false
  | .shflShort _ => false
  | .bcastShort _ => false
  | .ballotShort _ => false
  | .vanyShort _ => false
  | .vallShort _ => false
  | .nop _ => false
  | .setmode _ => false
  | .getmode _ => false
  | .bra _ => false
  | .bral _ => false
  | .jmp _ => false
  | .jmpl _ => false
  | .ret _ => false
  | .brzm _ => false
  | .brnzm _ => false
  | .brallm _ => false
  | .loop _ => false
  | .exit _ => false
  | .split _ => false
  | .splitm _ => false
  | .fuse _ => false
  | .setpri _ => false
  | .yield _ => false
  | .sleep _ => false
  | .getid _ => false
  | .sadd _ => false
  | .ssub _ => false
  | .smul _ => false
  | .smulh _ => false
  | .sdiv _ => false
  | .srem _ => false
  | .smin _ => false
  | .smax _ => false
  | .sand _ => false
  | .sor _ => false
  | .sxor _ => false
  | .sandn _ => false
  | .sshl _ => false
  | .sshr _ => false
  | .ssar _ => false
  | .smov _ => false
  | .sli _ => false
  | .scmp _ => false
  | .ssel _ => false
  | .spopc _ => false
  | .sclz _ => false
  | .sctz _ => false
  | .sffs _ => false
  | .sbfx _ => false
  | .sbfi _ => false
  | .vadd _ => false
  | .vsub _ => false
  | .vmul _ => false
  | .vmulh _ => false
  | .vmad _ => false
  | .vmin _ => false
  | .vmax _ => false
  | .vabs _ => false
  | .vand _ => false
  | .vor _ => false
  | .vxor _ => false
  | .vandn _ => false
  | .vshl _ => false
  | .vshr _ => false
  | .vsar _ => false
  | .vrol _ => false
  | .vbfx _ => false
  | .vbfi _ => false
  | .vpopc _ => false
  | .vclz _ => false
  | .vbrev _ => false
  | .vsel _ => false
  | .vmov _ => false
  | .vli _ => false
  | .vcmp _ => false
  | .fadd _ => false
  | .fsub _ => false
  | .fmul _ => false
  | .fma _ => false
  | .fmin _ => false
  | .fmax _ => false
  | .fcmp _ => false
  | .frcp _ => false
  | .frsq _ => false
  | .fsqrt _ => false
  | .fdiv _ => false
  | .fexp2 _ => false
  | .flog2 _ => false
  | .fsin _ => false
  | .fcos _ => false
  | .ftanh _ => false
  | .fclass _ => false
  | .fscale _ => false
  | .frint _ => false
  | .cvt _ => false
  | .pack _ => false
  | .unpk _ => false
  | .srseed _ => false
  | .srget _ => false
  | .shfl _ => false
  | .shflx _ => false
  | .shflup _ => false
  | .shfldn _ => false
  | .put _ => false
  | .bcast _ => false
  | .vany _ => false
  | .vall _ => false
  | .ballot _ => false
  | .matchLanes _ => false
  | .redux _ => false
  | .scan _ => false
  | .ld _ => false
  | .st _ => false
  | .ldf _ => false
  | .lds _ => false
  | .sts _ => false
  | .ldc _ => false
  | .stc _ => false
  | .ldk _ => false
  | .stk _ => false
  | .ldp _ => false
  | .stp _ => false
  | .atom _ => false
  | .atoms _ => false
  | .atomc _ => false
  | .pref _ => false
  | .discard _ => false
  | .fence _ => false
  | .waitc _ => false
  | .cntrd _ => false
  | .mma _ => false
  | .mconv _ => false
  | .mzero _ => false
  | .mload _ => false
  | .mdrain _ => false
  | .mdrains _ => false
  | .mrows _ => false
  | .mshape _ => false
  | .cpy _ => false
  | .cpyg _ => false
  | .cpys _ => false
  | .barinit _ => false
  | .barexp _ => false
  | .bararr _ => false
  | .barwait _ => false
  | .bartest _ => false
  | .barpay _ => false
  | .fwait _ => false
  | .ffill _ => false
  | .fclr _ => false
  | .semsig _ => false
  | .semwait _ => false
  | .rngres _ => false
  | .rngpub _ => false
  | .phase _ => false
  | .teambar _ => false
  | .trapc _ => false
  | .resume _ => false
  | .retx _ => false
  | .brk _ => false
  | .sysrd _ => false
  | .syswr _ => false
  | .msend _ => false
  | .mrecv _ => false
  | .saveg _ => false
  | .loadg _ => false
  | .tlbinv _ => false
  | .keysel _ => false
  | .idle _ => false
  | .nput _ => false
  | .nget _ => false
  | .nputi _ => false
  | .nputa _ => false
  | .natom _ => false
  | .nwaitn _ => false
  | .nwopen _ => false
  | .nwrev _ => false
  | .trace _ => false
  | .trflush _ => false
  | .trtag _ => false
  | .audtag _ => false
  | .audrd _ => false
  | .audclr _ => false
  | .pyxlinkPacketDropped => true
  | .temperatureVoltageBinMinute => true

end Sys2Proof
end

