-- ==== Sys2Proof/Config.lean ====
section
/-! DEFINITION. What an implementation fixes, and the free values (constants with no body): the
choices the spec leaves to the implementation, to timing or to the outside world, and the
cryptographic primitives that it names and does not define. -/

namespace Sys2Proof

namespace Config

/-! ### Free values -/

/-- A free number, by the tick of the step and a position within it: the scheduling choices
(assumption 4), the unchecked reads (R68, assumption 5), and every other choice among allowed
outcomes. -/
opaque choose (tick pos : Nat) : Nat

/-- A free 64-bit value: random keys (R342, R362), the sampling seed (R399). -/
opaque random (tick pos : Nat) : W64

/-- The module time that passes in a step, in 1/16 ns (R381, assumption 10). -/
opaque elapsed (tick : Nat) : Nat

/-- The functions of R110 on one implementation: fn 0 FRCP, 1 FRSQ, 2 FEXP2, 3 FLOG2, 4 FSIN,
5 FCOS, 6 FTANH; the type's code; GMODE.FTZ; the input bits (R111, assumption 9). -/
opaque special (fn ty : Nat) (ftz : Bool) (x : Nat) : Nat

/-! ### Primitives of other standards (assumption 8) -/

/-- ML-DSA-87: whether a signature over a digest verifies under a public key. -/
opaque mldsaVerify (key digest sig : List Byte) : Bool
/-- ML-DSA-87: the public key that SHAKE256 derives from the fused device secret (R428). -/
opaque mldsaPublic (secret : List Byte) : List Byte
/-- ML-DSA-87: the private key that SHAKE256 derives from the fused device secret (R428). -/
opaque mldsaPrivate (secret : List Byte) : List Byte
/-- ML-DSA-87: the signature of a digest with a private key (R429). -/
opaque mldsaSign (key digest : List Byte) : List Byte
/-! ### The firmware image (R350), whose layout the spec does not give -/

/-- The public key, the signed image, the signature and the rollback version in the image slot of the flash. -/
opaque imageParts (flash : List Byte) : List Byte × List Byte × List Byte × Nat
/-- The bytes of a col's private memory as boot loads them, and those of the service kernel among them. -/
opaque imageLoad (img : List Byte) (col : Nat) : List Byte
opaque imageKernel (img : List Byte) : List Byte
/-- The digest of the configuration (R429): power cap, FMAX table, fenced islands. -/
opaque configDigest (cap : Nat) (fmax : List Nat) (fenced : List Bool) : List Byte

/-! ### Constants of the part -/

/-- The fused device secret, the digest of the firmware key and the IPv6 address of the module:
values of one device (R12, R350, R428). -/
opaque deviceSecret : List Byte
opaque fusedKeyDigest : List Byte

/-- Dies, ridges, cores, quadrants (R12). -/
def dies : Nat := 4
def ridgesPerDie : Nat := 12
def ridges : Nat := 48
def coresPerRidge : Nat := 12
def cores : Nat := 576
def quads : Nat := 2304
def sliceContexts : Nat := 64

/-- Scratchpad of a core and chip scratchpad of a die, in bytes (R16). -/
def coreSpad : Nat := 2 ^ 18
def chipSpad : Nat := 2 ^ 25

/-- Col-private memory (R307). -/
def colMem : Nat := 2 ^ 19
def monitorRegion : Nat := 2 ^ 16
/-- Where the private half of the identity key stands in the boot col's monitor region (R428): the spec does not say (assumption 11).
It is 4,896 bytes, an ML-DSA-87 private key. -/
def identityLen : Nat := 4896
def identityAt : Nat := monitorRegion - identityLen

/-! ### The model's map of storage that has no physical address (assumption 1) -/

def physTop : Nat := 2 ^ 52
/-- Core scratchpads, core n at spadBase + n * coreSpad. -/
def spadBase : Nat := 2 ^ 52
/-- Chip scratchpads, die d at chipBase + d * chipSpad. -/
def chipBase : Nat := 2 ^ 53
/-- Col-private memories, col n at colBase + n * colMem. -/
def colBase : Nat := 2 ^ 54
/-- The mask ROM of the boot col (R350). -/
def romBase : Nat := 2 ^ 55
def romSize : Nat := 2 ^ 16

/-- Where a col reaches its private memory and the boot col its mask ROM (assumption 7): the lowest
virtual addresses, private memory first. -/
def romVa : Nat := colMem
/-- The boot col's program counter after reset: word 2 of the first line of the mask ROM. -/
def resetPc : Nat := romVa + 8

/-- Trace records that a source buffers for one tenant (assumption 18). -/
def traceBuffer : Nat := 64

/-- Reassembly entries of the receiver (R376, assumption 17). -/
def reassemblyLimit : Nat := 4096

end Config

end Sys2Proof
end

