-- ==== Sys2Proof/Machine/Crypto.lean ====
section
/-! DEFINITION. The primitives of other standards that have a short definition (assumption 8): AES-256 in Galois/counter mode
(R343; FIPS 197, SP 800-38D) and SHA3-512 (R350, R428, R429; FIPS 202). The spec names them and does not define them: what stands
here is PRESUMED from those standards. -/

namespace Sys2Proof.Machine

/-! ### AES-256 -/

/-- A byte times x in the field of AES. -/
def xtime (a : Nat) : Nat := if a < 128 then 2 * a else ((2 * a) ^^^ 0x11B) % 256

/-- The product of two bytes in the field of AES. -/
def gmul (a b : Nat) : Nat := (List.range 8).foldl (fun x i => xtime x ^^^ (if b.testBit (7 - i) then a else 0)) 0

/-- The inverse of a byte, its 254th power; 0 for 0. -/
def ginv (a : Nat) : Nat := (List.range 7).foldl (fun x i => gmul (gmul x x) (if i = 6 then 1 else a)) a

def rotl8 (n a : Nat) : Nat := (a * 2 ^ n + a / 2 ^ (8 - n)) % 256

/-- The substitution of a byte. -/
def subByte (a : Nat) : Nat :=
  let b := ginv a
  b ^^^ rotl8 1 b ^^^ rotl8 2 b ^^^ rotl8 3 b ^^^ rotl8 4 b ^^^ 0x63

def xorList (x y : List Nat) : List Nat := List.zipWith (· ^^^ ·) x y

/-- The words of the key schedule, the last one first: n more after those given. -/
def keyWords (i rcon : Nat) : Nat → List (List Nat) → List (List Nat)
  | 0, ws => ws
  | n + 1, ws =>
    let p := ws.headD []
    let t := if i % 8 = 0 then xorList ((p.drop 1 ++ p.take 1).map subByte) [rcon, 0, 0, 0] else if i % 8 = 4 then p.map subByte else p
    keyWords (i + 1) (if i % 8 = 0 then xtime rcon else rcon) n (xorList (ws.getD 7 []) t :: ws)

/-- The fifteen round keys of a 32-byte key. -/
def roundKeys (key : List Nat) : List (List Nat) :=
  let ws := (keyWords 8 1 52 ((List.range 8).map fun i => (key.drop (4 * (7 - i))).take 4)).reverse.flatten
  (List.range 15).map fun r => (ws.drop (16 * r)).take 16

/-- ShiftRows: a block lists its columns. -/
def shiftRows (b : List Nat) : List Nat := (List.range 16).map fun i => b.getD ((i + 4 * (i % 4)) % 16) 0

/-- MixColumns. -/
def mixColumns (b : List Nat) : List Nat :=
  (List.range 16).map fun i =>
    let at_ := fun k => b.getD (i / 4 * 4 + (i + k) % 4) 0
    gmul (at_ 0) 2 ^^^ gmul (at_ 1) 3 ^^^ at_ 2 ^^^ at_ 3

/-- A block enciphered under round keys. -/
def aesBlock (ks : List (List Nat)) (b : List Nat) : List Nat :=
  (List.range 14).foldl (fun x r =>
    let y := shiftRows (x.map subByte)
    xorList (if r = 13 then y else mixColumns y) (ks.getD (r + 1) [])) (xorList b (ks.headD []))

/-! ### Galois/counter mode -/

/-- The number of big-endian bytes. -/
def beNum (b : List Nat) : Nat := b.foldl (fun x y => 256 * x + y) 0

def beBytes (n x : Nat) : List Nat := (List.range n).map fun i => x / 256 ^ (n - 1 - i) % 256

/-- The product of two blocks, their first bit the highest. -/
def ghashMul (x y : Nat) : Nat :=
  ((List.range 128).foldl (fun (p : Nat × Nat) i =>
    (if x.testBit (127 - i) then p.1 ^^^ p.2 else p.1, if p.2 % 2 = 1 then p.2 / 2 ^^^ 0xE1 * 2 ^ 120 else p.2 / 2)) (0, y)).1

/-- Bytes as whole blocks, the last one filled with zeros. -/
def gcmBlocks (b : List Nat) : List Nat :=
  (List.range ((b.length + 15) / 16)).map fun i =>
    let x := (b.drop (16 * i)).take 16
    beNum (x ++ List.replicate (16 - x.length) 0)

/-- The bytes of the counter stream from a block counter on. -/
def gcmStream (ks : List (List Nat)) (nonce : List Nat) (first n : Nat) : List Nat :=
  (List.range ((n + 15) / 16)).flatMap fun i => aesBlock ks (nonce ++ beBytes 4 ((first + i) % 2 ^ 32))

/-- The tag of a ciphertext. -/
def gcmTag (ks : List (List Nat)) (nonce aad body : List Nat) : List Nat :=
  let h := beNum (aesBlock ks (List.replicate 16 0))
  let x := (gcmBlocks aad ++ gcmBlocks body ++ [8 * aad.length * 2 ^ 64 + 8 * body.length]).foldl (fun x b => ghashMul (x ^^^ b) h) 0
  xorList (beBytes 16 x) (gcmStream ks nonce 1 16)

def natsOf (b : List Byte) : List Nat := b.map BitVec.toNat
def bytesOf (b : List Nat) : List Byte := b.map (BitVec.ofNat 8)

/-- The round keys of a 256-bit key, whose bytes are taken little-endian (assumption 8). -/
def keyBytes (key : Nat) : List (List Nat) := roundKeys (beBytes 32 key).reverse

/-- The body of a section with the counter stream, to seal it or to open it. -/
def gcmText (key : Nat) (nonce body : List Byte) : List Byte :=
  List.zipWith (· ^^^ ·) body (bytesOf (gcmStream (keyBytes key) (natsOf nonce) 2 body.length))

/-- A sealed section: the ciphertext and the 16-byte tag (R343). -/
def gcmSeal (key : Nat) (nonce aad body : List Byte) : List Byte × List Byte :=
  let c := gcmText key nonce body
  (c, bytesOf (gcmTag (keyBytes key) (natsOf nonce) (natsOf aad) (natsOf c)))

/-- The body of a sealed section, when its tag is right (R343). -/
def gcmOpen (key : Nat) (nonce aad body tag : List Byte) : Option (List Byte) :=
  if bytesOf (gcmTag (keyBytes key) (natsOf nonce) (natsOf aad) (natsOf body)) = tag then some (gcmText key nonce body) else none

/-! ### SHA3-512 -/

def rotl64 (n x : Nat) : Nat := (x * 2 ^ (n % 64) + x / 2 ^ (64 - n % 64)) % 2 ^ 64

/-- A step of the sequence of bits from which the round constants are made. -/
def lfsr (x : Nat) : Nat := if x < 128 then 2 * x else ((2 * x) ^^^ 0x171) % 256

/-- The constant of a round. -/
def roundConst (r : Nat) : Nat :=
  (List.range 7).foldl (fun c j => if (((List.range (7 * r + j)).foldl (fun x _ => lfsr x) 1) % 2 = 1) then c ^^^ 2 ^ (2 ^ j - 1) else c) 0

/-- The rotations of the lanes, by x + 5 y. -/
def rotations : List Nat := [0, 1, 62, 28, 27, 36, 44, 6, 55, 20, 3, 10, 43, 25, 39, 41, 45, 15, 21, 8, 18, 2, 61, 56, 14]

/-- One round of Keccak-f[1600] on 25 lanes of 64 bits. -/
def keccakRound (a : List Nat) (r : Nat) : List Nat :=
  let l := fun (b : List Nat) (x y : Nat) => b.getD (x % 5 + 5 * (y % 5)) 0
  let c := (List.range 5).map fun x => l a x 0 ^^^ l a x 1 ^^^ l a x 2 ^^^ l a x 3 ^^^ l a x 4
  let t := (List.range 25).map fun i => a.getD i 0 ^^^ c.getD ((i + 4) % 5) 0 ^^^ rotl64 1 (c.getD ((i + 1) % 5) 0)
  -- the lane that moves to (x, y) comes from (x + 3 y, x)
  let p := (List.range 25).map fun i =>
    let j := (i % 5 + 3 * (i / 5)) % 5 + 5 * (i % 5)
    rotl64 (rotations.getD j 0) (t.getD j 0)
  (List.range 25).map fun i =>
    let x := i % 5
    let y := i / 5
    (l p x y ^^^ ((2 ^ 64 - 1 - l p (x + 1) y) &&& l p (x + 2) y)) ^^^ (if i = 0 then roundConst r else 0)

def keccak (a : List Nat) : List Nat := (List.range 24).foldl keccakRound a

def leNum (b : List Nat) : Nat := b.reverse.foldl (fun x y => 256 * x + y) 0

/-- The SHA3-512 digest, 64 bytes. -/
def sha3 (data : List Byte) : List Byte :=
  let n := data.length % 72
  let m := natsOf data ++ (if n = 71 then [0x86] else 6 :: List.replicate (70 - n) 0 ++ [0x80])
  let out := (List.range (m.length / 72)).foldl (fun a i =>
    keccak ((List.range 25).map fun j => a.getD j 0 ^^^ (if j < 9 then leNum ((m.drop (72 * i + 8 * j)).take 8) else 0))) (List.replicate 25 0)
  bytesOf ((out.take 8).flatMap fun x => (beBytes 8 x).reverse)

end Sys2Proof.Machine
end

