-- ==== Sys2Proof/Machine/State.lean ====
section
/-! DEFINITION. The state of the part: every piece of state the chapters give it, as plain data, the
reasons a step can stop, and the state after reset. -/

namespace Sys2Proof.Machine

/-- Why the model stops where the part has no such state. -/
inductive Fault where
  /-- raised by a meaning whose issuing agent (State.cur) names no resident group and no col; no run
  from reset reaches it. Safe: the model stops. -/
  | noAgent
  deriving DecidableEq, Repr

/-- Why the model gives an instruction no meaning. -/
inductive Refusal where
  /-- raised by an arm of Dispatch.lean that has no meaning yet. Safe: the model stops. -/
  | notModelled (mnemonic : String)
  deriving DecidableEq, Repr

/-- What a meaning or a step answers. -/
abbrev Out (σ : Type) := Host.Outcome σ Fault Refusal

/-- A program counter: a virtual address of 57 bits (R42, R155). -/
abbrev Pc := BitVec 57

/-! ### Groups -/

/-- The registers of one resident lane (R14) and its push staging registers (R314). -/
structure Lane where
  v : Vector W32 64
  q : Vector W32 16
  stg : Vector W32 4
  deriving DecidableEq, Repr

/-- A lane with every register zero (R27, assumption 3). -/
def Lane.zero : Lane :=
  { v := Vector.replicate 64 0, q := Vector.replicate 16 0, stg := Vector.replicate 4 0 }

/-- One register that an outstanding result writes (R67): a v register of a lane, an s register, or
the slot that push number n reserved in a lane's age queue (R60). -/
inductive Write where
  | v (lane reg : Nat) (x : W32)
  | s (reg : Nat) (x : W64)
  | q (lane push : Nat) (x : W32)
  deriving DecidableEq, Repr

/-- An outstanding register result: its writes, the flags that its lanes raise (R95) and the operation on a
path counter that completes with it. The result of a matrix or network operation is late until the
operation has produced it: it names its registers, and cannot arrive yet. -/
structure Res where
  writes : List Write
  flags : List (Nat × Nat) := []
  op : Option Nat := none
  late : Bool := false
  deriving DecidableEq, Repr

/-- An operation counted on a path counter (R148): path number, operation number, the lanes it was
issued for, and whether it has completed. -/
structure PathOp where
  path : Nat
  op : Nat
  lanes : W64
  done : Bool := false
  /-- the lanes whose accesses were out of bounds and dropped (R121, R159) -/
  oob : W64 := 0
  deriving DecidableEq, Repr

/-- A 64-byte record of a col's event ring (R330), without its phase bit. -/
structure EvRec where
  code : Nat
  cause : Nat := 0
  flags : Nat := 0
  ctx : Nat := 0
  gnum : Nat := 0
  root : Nat := 0
  place : Nat := 0
  seq : Nat := 0
  cls : Nat := 0
  merge : Nat := 0
  pc : W64 := 0
  lanes : W64 := 0
  d32 : W64 := 0
  d40 : W64 := 0
  d48 : W64 := 0
  d56 : W64 := 0
  /-- not in its bytes: the service kernel resolves it itself, by emulating the access (R136) -/
  mine : Bool := false
  deriving DecidableEq, Repr

/-- What halted a group (R321, R322, R397, R398, R401). -/
inductive Halt where
  | brk | pcBreak | watch | race
  deriving DecidableEq, Repr

/-- What a drain waits for (R316): the LS counters, the register results, or both. -/
inductive Drain where
  | ls | results | both
  deriving DecidableEq, Repr

/-- Why a group, or a col, does not issue (R316). The destination field is the register that the
parked instruction writes when it completes. -/
inductive Park where
  | ready
  /-- after an instruction with the switch marker (R67) -/
  | marker
  | drain (d : Drain)
  /-- after the access of a SEMWAIT, for its fence at a scope (R294); whether it has waited in state 12 -/
  | fence (scope : Nat) (waited : Bool)
  /-- a path counter stands at 63 (R148) -/
  | room (path : Nat)
  | waitc (path thr : Nat)
  | sleep (ns due : Nat)
  /-- a memory translation fault (R131), with the merge entries waited for (R132) -/
  | transl (entries : List Nat)
  /-- translation retry (R132); whether an entry of its die has ended -/
  | retry (ended : Bool)
  | trapc (dst : Spec)
  | fuse (code : Nat) (tag : W64) (strict : Bool) (dst : Spec)
  | barwait (bar gen : Nat) (dst : Spec)
  | barpay (bar gen : Nat) (dst : Spec)
  | teambar
  | fwait (key path : Nat) (dst : Spec)
  | semwait (dst : Spec)
  | nwaitn (dst : Spec)
  /-- on a precise fault whose record is not written yet: earlier results still arrive (R71), or the col's ring
  is full (R329) -/
  | faulting (r : EvRec)
  /-- a precise fault held at the col (R331), with its record -/
  | held (r : EvRec)
  /-- after PHASE, resident (R302): barrier, generation, label, carry mask, queue carried -/
  | phase (bar gen : Nat) (label : Pc) (carry : W64) (q : Bool)
  | exiting
  /-- a trace ring flush (R395): it waits for the tenant's records below a number -/
  | trflush (dst : Spec) (upto : Nat)
  /-- an audit synchronisation (R416) -/
  | audsync
  /-- at an instruction that the issue unit holds by lossless back-pressure (R393), since a time -/
  | lossless (since : Nat)
  /-- a col's MRECV with an empty mailbox (R325) -/
  | mrecv
  /-- a col's IDLE (R327) -/
  | idle
  deriving DecidableEq, Repr

/-- A group (R155), or a col seen as a group of one lane (R307). -/
structure Group where
  /-- the model's number of the group; a col's is not used -/
  id : Nat := 0
  ctx : Nat := 0
  /-- the number of its team -/
  tlin : Nat := 0
  /-- core in the module, ridge * 12 + core of the ridge -/
  core : Nat := 0
  quad : Nat := 0
  slice0 : Nat := 0
  root : Nat := 0
  /-- home lane of lane 0 (R24) -/
  home : Nat := 0
  pc : Pc := 0
  sregs : Vector W64 32
  lanes : List Lane
  gmode : W32 := 0
  fstat : W32 := 0
  mstat : W32 := 0
  fctl : W32 := 0x1000
  pri : BitVec 3 := 0
  srSeed : W64 := 0
  srCtr : W64 := 0
  /-- the tensor shape register (R265) -/
  shape : BitVec 384 := 0
  /-- audit tag and ordinal (R403) -/
  audTag : BitVec 16 := 0
  audOrd : BitVec 32 := 0
  /-- trace tag (R395), launch number and placing packet (R386, R190) -/
  trTag : BitVec 16 := 0
  launch : Nat := 0
  pktQueue : Nat := 0
  pktIdx : Nat := 0
  /-- engine sequence numbers (R252, R282) -/
  seqCpy : BitVec 16 := 0
  seqMtx : BitVec 16 := 0
  seqNet : BitVec 16 := 0
  /-- outstanding register results in issue order (R67), and the pushes made so far (R60, R69) -/
  results : List Res := []
  pushes : Nat := 0
  /-- operations counted on the path counters, in issue order (R148), and the operations that the
  group issued (R150) -/
  ops : List PathOp := []
  park : Park := .ready
  /-- the address after the parked instruction, and its switch marker -/
  pnext : Pc := 0
  psw : Bool := false
  halted : Option Halt := none
  /-- pending or unfinished lanes (R131, R320) -/
  mask : W64 := 0
  /-- SR counter held for replay (R100, R340) and queue slots reserved by the parked instruction -/
  srHeld : Option W64 := none
  reserved : Nat := 0
  /-- the operation that the parked instruction has raised a counter with (R202) -/
  parkOp : Option Nat := none
  /-- the lanes for which the next issue is made (R131, R321) -/
  redo : Option W64 := none
  /-- the next issue does not trigger a PC breakpoint (R321) -/
  noBreak : Bool := false
  /-- a launch entry or a PHASE label whose target bit is still to be checked (R46) -/
  entry : Bool := false
  /-- 1: the phase for which the group waits, resident, has ended while a stop counts it as stopped (R300) -/
  stage : Nat := 0
  /-- issue cycles since the last issue (R33); ready cycles since the group became ready, and the bound of R35,
  of the groups resident then; YIELD (R188), lost arbitrations (R34) and the second pass of a 64-lane group (R183) -/
  age : Nat := 0
  waited : Nat := 0
  bound : Nat := 0
  yielded : Bool := false
  lost : List (Nat × Nat) := []
  pass2 : Bool := false
  /-- a watch that the instruction in progress has triggered (R398): lanes, lowest address, index;
  a race that it has found (R401): offset, writer, lane; for a halt after it -/
  watched : Option (W64 × Nat × Nat) := none
  raced : Option (Nat × Nat × Nat) := none
  /-- the lanes of a precise fault for which a RESUME has not yet issued the instruction again, with
  the fault's record and the pushes made before it (R321) -/
  rest : Option (W64 × EvRec × Nat) := none
  /-- engine operations that have left the path counters, and those whose completion the group has observed
  (R150), while writes of them have no place yet -/
  past : List PathOp := []
  seen : List Nat := []
  /-- the TAG of the record through which the parked access goes (R390); the unfinished lanes are emulated (R136) -/
  accTag : Option Nat := none
  /-- the first address that faulted, of a group in translation wait or retry (R340) -/
  faultVa : Nat := 0
  emul : Bool := false
  /-- the registers that hold an uncorrectable error (R424) -/
  bad : List Write := []
  /-- the copy of the line that it executes from (R48): context, address and words -/
  line : Option (Nat × Nat × List W32) := none
  deriving DecidableEq, Repr

/-- A phase record (R301): the group out of residency, with its carry set, its barrier and the
generation it waits for. -/
structure PhaseRec where
  slot : Nat
  grp : Group
  carry : W64
  q : Bool
  bar : Nat
  gen : Nat
  /-- size in the core's phase reserve -/
  size : Nat
  /-- the order in which its phase ended (R303); none while it is in progress -/
  ended : Option Nat := none
  deriving DecidableEq, Repr

/-! ### Teams and contexts -/

/-- The three words of a named barrier (R284). -/
structure Barrier where
  w0 : W64 := 0
  w1 : W64 := 0
  w2 : W64 := 0
  /-- payloads of a float sum with the home lanes of their groups (R287) -/
  pays : List (Nat × W64) := []
  /-- the results of phases with payloads that have ended, by generation (R287) -/
  outs : List (Nat × W64) := []
  /-- copies counted into this phase, and into earlier ones, whose writes have not all taken their places (R150) -/
  ops : List Nat := []
  past : List Nat := []
  deriving DecidableEq, Repr

/-- An accumulator tile (R249): its quadrant and number, its error state (R271) and its 256 words. -/
structure Tile where
  quad : Nat
  num : Nat
  err : Bool := false
  /-- an uncorrectable error that no operation has found yet (R424) -/
  bad : Bool := false
  words : Vector W32 256
  deriving DecidableEq, Repr

/-- The word-level record of a scratchpad race check (R401): last writer and epoch. -/
structure Shadow where
  addr : Nat
  writer : Nat
  epoch : Nat
  deriving DecidableEq, Repr

/-- A team (R21) on its core. -/
structure Team where
  ctx : Nat
  /-- the model's number of the team, by which its groups and operations name it -/
  tlin : Nat
  /-- team linear index (R113), index in the cluster (R116), cluster index (R190) -/
  pos : Nat
  idx : Nat
  clu : Nat
  core : Nat
  /-- its cluster's shape, the bytes that its core lends (R116), the width code of its root groups (R338) -/
  cx : Nat := 1
  cy : Nat := 1
  lent : Nat := 0
  rwidth : Nat := 0
  /-- its allocation in the core scratchpad (R114) and the lent part of its core (R116) -/
  base : Nat
  size : Nat
  lentBase : Nat := 0
  /-- core and lent part of each team of its cluster, by index (R116); they outlive the team -/
  parts : List (Nat × Nat) := []
  windows : Vector (BitVec 128) 8
  barriers : Vector Barrier 64
  tcnt : Nat
  bcnt : Nat
  tiles : List Tile := []
  phases : List PhaseRec := []
  /-- slice contexts released by EXIT (R178): quadrant and index -/
  exited : List (Nat × Nat) := []
  /-- scratchpad race detection (R401) -/
  shadow : List Shadow := []
  epoch : Nat := 0
  /-- since when the team is stalled, with RSTALL then, and whether the event was sent (R305) -/
  stall : Option (Nat × Nat) := none
  stallSent : Bool := false
  launch : Nat := 0
  pktQueue : Nat := 0
  pktIdx : Nat := 0
  retired : Bool := false
  deriving DecidableEq, Repr

/-- A stop in progress (R36, R317). -/
inductive Stop where
  | none
  /-- a soft stop since a time, with the RSOFT it began with -/
  | soft (since rsoft : Nat)
  | hard
  | stopped
  deriving DecidableEq, Repr

/-- An entry of a process-group table (R356). -/
structure Member where
  ident : Nat
  addr : Nat
  port : Nat
  ctx : Nat
  paths : Nat
  deriving DecidableEq, Repr

/-- An entry of the context's window table (R360). -/
structure Win where
  idx : Nat
  base : Nat
  len : Nat
  perm : Nat
  key : Nat
  /-- generation: odd, open; even, closed -/
  gen : Nat
  /-- notification ring header and semaphore addresses -/
  notif : Nat := 0
  sem : Nat := 0
  infl : Nat := 0
  deriving DecidableEq, Repr

/-- An open descriptor of the service kernel (R332). -/
structure Desc where
  num : Nat
  socket : Bool
  write : Bool
  kind : Nat := 0
  peer : Option (Nat × Nat) := none
  port : Nat := 0
  /-- of a file: the command that opened it -/
  file : Nat := 0
  deriving DecidableEq, Repr

/-- A context (R314, R338). -/
structure Context where
  ctx : Nat
  croot : W64 := 0
  pbase : W64 := 0
  psize : W64 := 0
  /-- chip scratchpad granted on each die and its place there, the size requested by an image (R117, R338), and the
  regions' bytes while the cols have reclaimed them (R335) -/
  ksize : W64 := 0
  kbase : Nat := 0
  kreq : Nat := 0
  kout : Option (List Byte) := none
  clevel : W64 := 0
  evring : W64 := 0
  cflags : W64 := 0
  chome : Nat := 0
  stop : Stop := .none
  /-- the stop in progress is the service kernel's own, for a pre-emption or a time slice (R32) -/
  kstop : Bool := false
  /-- teams that left the part by CCMD 4 and have not retired: linear index, launch number, queue and index -/
  away : List (Nat × Nat × Nat × Nat) := []
  /-- cluster shape and lent bytes of its teams (R116, R338) -/
  cx : Nat := 1
  cy : Nat := 1
  lent : Nat := 0
  clusters : Nat := 1
  /-- root groups per team, their width code and their priority (R338) -/
  nroot : Nat := 1
  gpri : Nat := 0
  rwidth : Nat := 0
  alloc : Nat := 0
  tcnt : Nat := 0
  bcnt : Nat := 0
  launches : Nat := 0
  /-- the context's process-group table (R357): its address, own rank and members -/
  table : Nat := 0
  rank : Nat := 0
  members : List Member := []
  wins : List Win := []
  descs : List Desc := []
  /-- records held for a hard-saved context or a full event ring (R41, R331) -/
  heldEv : List EvRec := []
  /-- since when its time slice runs, and RSLICE then (R32, R315) -/
  slice : Nat := 0
  sliceLen : Nat := 2000000
  deriving DecidableEq, Repr

/-! ### Engines -/

/-- An end of a copy (R274): its space, the record of a global end, or the key of offset 0 of the window
found at issue and its size (R220). -/
structure CopyEnd where
  space : Nat
  rc : List W64 := []
  key : Nat := 0
  size : Nat := 0
  deriving DecidableEq, Repr

/-- A copy operation in progress (R276-R282): the rows of its box, in ascending (z, y) order, and its
units, whose bytes have their places. -/
structure CopyOp where
  op : Nat
  ctx : Nat
  tlin : Nat
  core : Nat
  /-- the record of an engine fault or trace record -/
  rcd : EvRec
  trTag : Nat
  dst : CopyEnd
  src : CopyEnd
  /-- bytes of a row, rows of a plane, rows in all -/
  x : Nat
  y : Nat
  rows : Nat
  doff : Int
  soff : Int
  drp : Nat
  srp : Nat
  dpp : Nat
  spp : Nat
  /-- the list of a gather or scatter: source and destination offsets of each row -/
  list : Option (List (Int × Int)) := none
  done : List Nat := []
  /-- the aligned 16-byte source units that it has read for its rows (R147) -/
  units : List (Nat × Nat × List Byte) := []
  /-- the barrier that its bytes are counted into, under .bar -/
  bar : Option Nat
  /-- the merge entry it waits for (R134), and the address and cause with which that entry was lost -/
  wait : Option Nat := none
  lost : Option (Nat × Nat) := none
  /-- the error in which it ends, while its record waits (R393): cause and details -/
  fail : Option (Nat × Nat × Nat) := none
  deriving DecidableEq, Repr

/-- What a matrix operation has read so far (R134): how many accesses it has made, the elements and scales that they
gave, the GEOM codes of the row in progress, and whether an element was dropped. -/
structure Gather where
  pos : Nat := 0
  elems : List Nat := []
  /-- the aligned 16-byte units it has read (R147) -/
  units : List (Nat × List Byte) := []
  sa : List W32 := []
  geoms : List Nat := []
  oob : Bool := false
  deriving DecidableEq, Repr

/-- A matrix operation in a quadrant's queue (R252), with what it read at issue. -/
structure MtxOp where
  op : Nat
  ctx : Nat
  tlin : Nat
  core : Nat
  quad : Nat
  /-- the tile it names; none for LDF -/
  tile : Option Nat
  /-- width and home lane of the issuing group, and the record of an engine fault or trace record:
  group, place, PC and sequence number -/
  width : Nat
  home : Nat
  rcd : EvRec
  trTag : Nat
  i : Instr
  /-- fragments or tile words in the order of R256 -/
  a : List W32 := []
  b : List W32 := []
  /-- row scales, block scale or uniform drain scale, and bias -/
  sa : List W32 := []
  sb : Option W32 := none
  bias : Option (List W32) := none
  /-- other values: a buffer record, a position, an offset -/
  sv : List W64 := []
  shape : BitVec 384 := 0
  gmode : W32 := 0
  srSeed : W64 := 0
  srCtr : W64 := 0
  /-- keys of the elements or scales that LDF reads, in fragment order, or the key of MDRAINS' window
  offset 0 -/
  keys : List (Option Nat) := []
  /-- who issued it; its audit tag and ordinal, whether its values are reported, and its slot of the area, as at issue (R403,
  R406) -/
  by_ : Agent := .col 0
  audTag : Nat := 0
  audOrd : Nat := 0
  audOn : Bool := false
  audSlot : Nat := 0
  sampled : Bool := false
  got : Gather := {}
  /-- produced, with success or not, while its register results have not all arrived -/
  landing : Option Bool := none
  /-- the number that it had before it was cancelled and issued again (R251) -/
  was : Option Nat := none
  /-- the merge entry it waits for (R134), and the address and cause with which
  that entry was lost -/
  wait : Option Nat := none
  lost : Option (Nat × Nat) := none
  deriving DecidableEq, Repr

/-- An entry of a die's fault merge table (R132). -/
structure Merge where
  /-- die * 1024 + index -/
  num : Nat
  ctx : Nat
  page : Nat
  cause : Nat
  ridges : List Nat
  groups : List Nat
  deriving DecidableEq, Repr

/-- A cached translation (R129). -/
structure TlbEnt where
  ctx : Nat
  /-- the page's first address and its size -/
  va : Nat
  size : Nat
  /-- the leaf entry and the address it was read from -/
  pte : W64
  at_ : Nat
  deriving DecidableEq, Repr

/-- A line of an instruction cache (R48): 0-575 a core's, 576 + n col n's. -/
structure ILine where
  owner : Nat
  ctx : Nat
  va : Nat
  words : List W32
  deriving DecidableEq, Repr

/-- A waiter of a semaphore or of a notification ring (R295). -/
structure Waiter where
  /-- the group, or none for a queue's WAIT -/
  gid : Option Nat
  queue : Nat := 0
  ridge : Nat
  ctx : Nat
  /-- virtual address of the counter or of the ring header -/
  va : Nat
  key : Nat
  n : W64
  ring : Bool := false
  /-- its slot of the wait table; none for a spilled waiter -/
  slot : Option Nat
  order : Nat
  /-- the order of its first registration, while its context has not run since it was restored (R295) -/
  was : Option Nat := none
  since : Nat
  /-- RSEMTO when the wait began, in ns (R315), and whether the timeout event was sent -/
  limit : Nat := 0
  told : Bool := false
  scope : Nat := 0
  deriving DecidableEq, Repr

/-- An open fuse attempt (R178): its block, key, window and arrived groups. -/
structure Fuse where
  num : Nat
  core : Nat
  quad : Nat
  first : Nat
  len : Nat
  code : Nat
  tag : W64
  strict : Bool
  since : Nat
  fwin : Nat
  arrived : List (Nat × Vector W64 32)
  deriving DecidableEq, Repr

/-- A party as scopes see it (R144): the agent, and the team, launch, cluster and core it acts in; a col's core is
576 + its number. It outlives the group that it was. -/
structure Party where
  who : Agent
  ctx : Nat := 0
  tlin : Nat := 0
  launch : Nat := 0
  clu : Nat := 0
  core : Nat
  ridge : Nat
  /-- the cores of its cluster -/
  cores : List Nat := []
  deriving DecidableEq, Repr

/-- A history of the stores to streaming bytes (R152): address, version, writer and its core, value. -/
structure SVal where
  addr : Nat
  ver : Nat
  by_ : Agent
  core : Nat
  val : Byte
  deriving DecidableEq, Repr

/-- What a party has published by a fence (R152): the stores of a writer up to a version, at a scope. -/
structure Pub where
  party : Party
  writer : Agent
  ver : Nat
  scope : Nat
  deriving DecidableEq, Repr

/-- What R152 needs: the stores to streaming pages, what each agent has published by a fence, the publications
that a coherent byte carries, those an agent has read, the oldest version that an agent may still read, and the
groups that a group of a split or a fuse continues. -/
structure Streams where
  ver : Nat := 0
  hist : List SVal := []
  pub : List (Agent × List Pub) := []
  tags : List (Nat × List Pub) := []
  seen : List (Agent × List Pub) := []
  known : List (Agent × List (Agent × Nat)) := []
  kin : List (Agent × List Agent) := []
  deriving DecidableEq, Repr

/-- What an access does when it takes its place: a store, of a run of bytes or of bytes of one unit, a load of some bytes, or an atomic on n bytes (R208) of a type with
its operand and cmp. -/
inductive Deed where
  | write (bytes : List Byte)
  | cells (cs : List (Nat × Byte))
  | read (n : Nat)
  | atom (n op : Nat) (ty : Ty) (v cmp : Nat)
  deriving DecidableEq, Repr

/-- An access that has no place in the memory order yet (R138, R147): one unit of an engine operation, or an access of a
lane. Its class: 0 LS, 1 CPY, 2 MTX, 3 NET, 4 AUD. -/
structure LateAccess where
  cls : Nat
  op : Nat
  who : Agent
  /-- the core of the engine (R144), and the connection and message that it writes for as a receiver -/
  core : Nat := 0
  msg : Option (Nat × Nat) := none
  coh : Bool
  key : Nat
  deed : Deed
  /-- the register slots that the words read go to, and the type that makes them (R200) -/
  ty : Ty := .x32
  into : List Write := []
  /-- the fences that put it before later accesses of a class (R151): who executed each, its scope, and the class -/
  fences : List (Party × Nat × Nat) := []
  deriving DecidableEq, Repr

/-! ### Cols, queues and the service kernel -/

/-- Whether a col runs (R307, R312, R350). -/
inductive ColRun where
  | inReset | running | stopped
  deriving DecidableEq, Repr

/-- A monitor call in progress (R310): its result registers, its number and its argument words. -/
structure MonCall where
  dst : Spec
  num : W32
  args : List W32
  deriving DecidableEq, Repr

/-- A col (R307). Its registers are those of a group of one lane. -/
structure Col where
  g : Group
  run : ColRun := .inReset
  cstat : W32 := 0x200
  cepc : W64 := 0
  cecode : W64 := 0
  cvec : W64 := 0
  cevb : W64 := 0
  cevr : W64 := 0
  ctimer : W64 := 0
  cctx : W64 := 0
  ksel : Nat := 0
  mepc : W64 := 0
  msave : W64 := 0
  monvec : W64 := 0
  mcode : W64 := 0
  call : Option MonCall := none
  kslot : W64 := 0
  key : Vector W64 4
  kown : W64 := 0
  /-- free-running index of the next event-ring record (R329), and the records held -/
  evw : Nat := 0
  held : List EvRec := []
  mailbox : List (List W64) := []
  /-- ridge registers (R314, R315) -/
  rsoft : W64 := 100000
  rslice : W64 := 2000000
  rsemto : W64 := 1000000000
  rstall : W64 := 1000000
  regx : Vector W64 48
  qdesc : Vector W64 64
  /-- since when CTIMER has been armed: whether TM was set for it -/
  timed : Bool := false
  deriving DecidableEq, Repr

/-- A host command block (R427) as the col read it, and its host address. -/
structure HostCmd where
  op : Nat
  tag : Nat
  blk : List Byte
  at_ : Nat
  deriving DecidableEq, Repr

/-- Where a launch queue stands with its packet (R348). -/
inductive QPhase where
  /-- no packet in progress -/
  | idle
  /-- a packet read and not yet acted on: its launch number -/
  | taken (launch : Nat)
  /-- a WAIT registered in the wait table -/
  | waiting
  /-- a RESUME whose teams run: the launch number, and the next cluster to place -/
  | running (launch next : Nat)
  deriving DecidableEq, Repr

/-- A registered launch queue (R346). -/
structure Queue where
  num : Nat
  ctx : Nat
  /-- address of its descriptor, and whether it is a physical one (host registration) -/
  desc : Nat
  phys : Bool
  /-- the context in whose address space its descriptor and ring are, unless they are physical -/
  asp : Nat := 0
  ring : Nat
  n : Nat
  level : Nat
  idx : W32
  err : Bool := false
  ph : QPhase := .idle
  pkt : List Byte := []
  /-- the checked context header of the image in progress -/
  img : List Byte := []
  /-- groups that the packet in progress has placed and that are gone: what REL publishes (R31) -/
  gids : List Party := []
  /-- the QUNREG that completes with the packet in progress (R427) -/
  unreg : Option HostCmd := none
  deriving DecidableEq, Repr

/-- Where boot stands (R350, R427). -/
inductive Boot where
  | reset | verify
  /-- the image that has passed its checks, and its version -/
  | load (img : List Byte) (version : Nat)
  | train | measure | ready | stopped
  deriving DecidableEq, Repr

/-- A system-call request (R320): one distinct tuple of a TRAPC. -/
structure SysReq where
  gid : Nat
  ridge : Nat
  lanes : W64
  num : W32
  args : List W32
  /-- when it was made, and the device command it waits for -/
  since : Nat := 0
  dev : Option Nat := none
  deriving DecidableEq, Repr

/-- A key slot (R342). -/
structure KeySlot where
  key : Nat := 0
  ctr : W64 := 0
  owner : Nat := 0
  valid : Bool := false
  deriving DecidableEq, Repr

/-! ### Network (R351-R379) -/

/-- A packet sent and not forgotten (R355): the attempts made, when it was last sent, and until when a BUSY
delays it. -/
structure TxPkt where
  acked : Bool := false
  attempts : Nat := 1
  at_ : Nat := 0
  busyUntil : Option Nat := none
  deriving DecidableEq, Repr

/-- A connection of a context towards a rank, as sender (R358). -/
structure Conn where
  num : Nat
  ctx : Nat
  rank : Nat
  /-- the identifier that the receiver assigned; none before OPENACK, while OPEN is outstanding -/
  peer : Option Nat := none
  tx : TxPkt
  lastBusy : Option Nat := none
  paths : Nat := 1
  nextMsn : Nat := 0
  /-- its home col (R349), and the base of its UDP source ports (R351) -/
  home : Nat := 0
  udpBase : Nat := 0
  deriving DecidableEq, Repr

/-- A network operation of this module (R369), or the response to a received GETREQ, which nobody counts. -/
structure NetOp where
  op : Nat
  who : Agent
  ctx : Nat
  core : Nat
  /-- group, place, PC and sequence number, for records -/
  rcd : EvRec
  trTag : Nat
  fn : Nat
  kind : PktKind
  /-- its connection: as sender, or as receiver for a response -/
  conn : Nat
  rank : Nat
  msn : Nat := 0
  win : Nat
  gen : Nat
  key : Nat
  ty : Ty
  aop : Nat
  sig : Bool
  /-- the local end; for a response, the address of the first byte -/
  lend : CopyEnd
  loff : Int
  len : Nat
  roff : Nat
  imm : Nat
  cmp : Nat
  dst : Spec
  /-- the packets of the message, and those sent so far, in order -/
  total : Nat
  pkts : List TxPkt := []
  /-- a response's bytes as read, and the CE mark of its request (R351) -/
  data : List Byte := []
  ce : Bool := false
  /-- the packets of an NGET's response that have been written -/
  got : List Nat := []
  lastBusy : Option Nat := none
  since : Nat
  /-- the LS operations that its fence waits for (R369) -/
  fence : List Nat := []
  /-- the merge entry it waits for (R134), and the address and cause with which that entry was lost -/
  wait : Option Nat := none
  lost : Option (Nat × Nat) := none
  /-- ended with a status and a value, while its record (R393) or the arrival of its result waits -/
  ended : Option (Nat × Nat) := none
  deriving DecidableEq, Repr

/-- A connection as receiver (R358): its identifier, the contexts it joins and the messages it has
completed (R376), with the recorded values of completed ATOMREQs. -/
structure RxConn where
  num : Nat
  ctx : Nat
  senderId : Nat
  rank : Nat
  paths : Nat := 1
  udpBase : Nat := 0
  /-- cached in the I/O die (R358) -/
  cached : Bool := true
  /-- completed messages: those below the low mark, and others -/
  low : Nat := 0
  finished : List Nat := []
  /-- messages abandoned or ended with a status: MSN and status -/
  failed : List (Nat × Nat) := []
  atoms : List (Nat × Nat) := []
  deriving DecidableEq, Repr

/-- A reassembly entry (R376). -/
structure Reasm where
  num : Nat
  conn : Nat
  ctx : Nat
  rank : Nat
  msn : Nat
  win : Nat
  pcnt : Nat
  /-- recorded at acceptance (R364): base, length, ring, semaphore -/
  base : Nat
  len : Nat
  ring : Nat
  sem : Nat
  /-- the operation's number under which it writes: a loopback sender's, or its own -/
  name : Nat := 0
  got : List Nat := []
  bytes : Nat := 0
  refused : Bool := false
  last : Nat
  /-- a notification held because the ring is full (R372), since when, and the packet whose completing
  acknowledgement is withheld -/
  held : Option (Nat × NetPkt) := none
  deriving DecidableEq, Repr

/-- A packet of the receiver that waits in a merge table (R365). -/
structure RxWait where
  pkt : NetPkt
  entry : Nat
  deriving DecidableEq, Repr

/-- A packet sent to the network: the IPv6 address and the UDP ports of its datagram (R351). -/
structure Dgram where
  addr : Nat
  port : Nat
  src : Nat
  pkt : NetPkt
  deriving DecidableEq, Repr

structure Net where
  conns : List Conn := []
  ops : List NetOp := []
  rx : List RxConn := []
  reasm : List Reasm := []
  miss : List NetPkt := []
  waits : List RxWait := []
  /-- packets whose access was declared unrecoverable (R365) -/
  refused : List NetPkt := []
  /-- packets sent to the network, oldest first; packets to be processed: of a loopback connection, or after a wait -/
  out : List Dgram := []
  loop : List NetPkt := []
  deadline : Nat := 1600000000
  /-- dropped and counted packets (R351, R353) -/
  dropped : Nat := 0
  /-- frames handed to the service kernel (R351) -/
  frames : List Frame := []
  deriving DecidableEq, Repr

/-! ### Trace fabric and debug (R381-R401) -/

/-- A trace record before it is written (R383): its 32 bytes. -/
structure TraceRec where
  src : Nat
  bytes : List Byte
  /-- the core of the source, for TRFLUSH (R395), and its number among the records of its tenant -/
  core : Nat
  gid : Option Nat
  num : Nat
  deriving DecidableEq, Repr

/-- A record whose event its source holds for want of room (R393): it is stamped when it is released. -/
structure TracePend where
  src : Nat
  seq : Nat
  kind : Nat
  pay : List Byte
  core : Nat
  gid : Option Nat
  deriving DecidableEq, Repr

/-- An instruction that an issue unit has picked (R399): its quadrant and group, its tag, the payload of its record but for the
memory level, and the levels that can have served it. -/
structure Pick where
  quad : Nat
  gid : Nat
  ctx : Nat
  tag : Nat
  src : Nat
  core : Nat
  gnum : Nat
  root : Nat
  width : Nat
  pc : Nat
  levels : List Nat
  deriving DecidableEq, Repr

/-- A source: its next sequence number and stall by tenant (R385, R383). -/
structure TraceSrc where
  src : Nat
  seq : BitVec 16 := 0
  stalls : List (Nat × Nat) := []
  deriving DecidableEq, Repr

/-- Losses of one tenant waiting for a DROP or LOSS record (R388, R392). -/
structure Losses where
  count : Nat
  /-- how many of them the ring's header counts already (R391) -/
  shown : Nat := 0
  src : Nat
  seq : Nat
  time : Nat
  deriving DecidableEq, Repr

/-- A tenant's entry as last reloaded by TENUPD (R389), and its records. -/
structure Tenant where
  num : Nat
  base : Nat
  logn : Nat
  mode : Nat
  classes : Nat
  kinds : Nat
  tagv : Nat
  tagm : Nat
  /-- the context in whose address space the ring lies: the one that the col served at TENUPD -/
  tctx : Nat := 0
  /-- the records in its sources' buffers, in the order in which they entered, how many have entered, and those that sources
  hold -/
  buf : List TraceRec := []
  made : Nat := 0
  pend : List TracePend := []
  drop : Option Losses := none
  loss : Option Losses := none
  /-- a MODE record to be written when there is room -/
  modeRec : Option (Nat × Nat × Nat) := none
  fullSince : Option Nat := none
  deriving DecidableEq, Repr

/-- The debug registers of one core (R396). -/
structure Debug where
  pcbrk : Vector W64 4
  waddr : Vector W64 2
  wctl : Vector W64 2
  dctl : W64 := 0
  sampint : W64 := 0
  deriving DecidableEq, Repr

/-- Waiters that the synchronisation engine wakes (R285, R291, R304): of a phase of a barrier, of a cell, of a team barrier. -/
inductive SyncWake where
  | bar (ctx tlin bar gen status : Nat) (result : W64) (ops : List Nat)
  | cell (key : Nat) (x : W64)
  | team (ctx tlin : Nat)
  deriving DecidableEq, Repr

/-- A wake that waits for room for its record (R393): the tenant, the source and the record's payload. -/
structure HeldWake where
  ten : Nat
  src : Nat
  pay : List Byte
  wake : SyncWake
  deriving DecidableEq, Repr

structure Trace where
  srcs : List TraceSrc := []
  tenants : List Tenant := []
  tentab : W64 := 0
  trfull : W64 := 10000
  /-- the tenant of a context (CTXTEN, R396) -/
  ctxten : List (Nat × W64) := []
  debug : List (Nat × Debug) := []
  /-- the sources that hold an event for a tenant's record (R393): source, tenant and since when -/
  held : List (Nat × Nat × Nat) := []
  /-- the instructions picked and not yet written back (R399) -/
  picked : List Pick := []
  /-- the wakes whose records wait (R393) -/
  wakes : List HeldWake := []
  deriving DecidableEq, Repr

/-! ### Audit (R402-R418) -/

/-- The sampling registers of a context (R405). -/
structure AudRegs where
  ctx : Nat
  actl : W64 := 0
  aseed : W64 := 0
  afilt : W64 := 0
  aarea : W64 := 0
  aupc : W64 := 0
  deriving DecidableEq, Repr

/-- A retained sample (R407): the record names the operation as at issue. -/
structure Sample where
  ridge : Nat
  ctx : Nat
  tag : Nat
  ord : Nat
  tile : Nat
  rcd : EvRec
  aty : Ty
  bty : Ty
  /-- elements a(i, k) by rows and b(k, j) by columns -/
  a : List Nat
  b : List Nat
  sa : List W32
  sb : W32
  told : List W32
  tnew : List W32
  /-- who issued it, and the slot of the area as at issue (R406) -/
  by_ : Agent := .col 0
  slot : Nat := 0
  /-- the registers that its audit began with (R406) -/
  began : Option AudRegs := none
  /-- the merge entry its audit waits for, and the address and cause with which that entry was lost -/
  wait : Option Nat := none
  lost : Option (Nat × Nat) := none
  /-- its slot of the buffer holds an uncorrectable error (R409) -/
  bad : Bool := false
  deriving DecidableEq, Repr

/-- A reported value that the engine has not yet added to the area (R411): who reported it, its slot and the counter's
offset in it, the record of an engine fault, and the merge entry waited for. -/
structure AudReport where
  ctx : Nat
  ridge : Nat
  by_ : Agent
  tag : Nat
  slot : Nat
  off : Nat
  rcd : EvRec
  wait : Option Nat := none
  deriving DecidableEq, Repr

/-- A signal of a threshold event that the service kernel still has to make, after it has delivered the event's record
(R413). -/
structure Upcall where
  ridge : Nat
  ctx : Nat
  va : Nat
  rcd : EvRec
  deriving DecidableEq, Repr

structure Audit where
  regs : List AudRegs := []
  samples : List Sample := []
  reports : List AudReport := []
  upcalls : List Upcall := []
  deriving DecidableEq, Repr

/-! ### Module operation (R419-R430) -/

/-- An island (R419): set clock, FMAX in MHz, fenced, when it was last measured, measuring since. -/
structure Island where
  setClk : Nat
  fmax : Nat
  fenced : Bool := false
  measured : Nat := 0
  measuring : Option Nat := none
  deriving DecidableEq, Repr

/-- A lifetime-log record (R423): its sequence number, kind and 256 bytes. -/
structure LogRec where
  seq : Nat
  kind : Nat
  bytes : List Byte
  deriving DecidableEq, Repr

/-- The cumulative counters of one die (R423, kinds 1 to 3). -/
structure DieCounts where
  tbin : Vector W32 16
  vbin : Vector W32 16
  corrected : Vector W64 9
  uncorrected : Vector W64 9
  faults : Vector W32 25
  deriving DecidableEq, Repr

structure Module where
  /-- module identity (fuse, R428), rollback counter (R430) -/
  modid : W64
  fuses : Nat := 0
  /-- the firmware image in flash (R350, R426) -/
  flash : List Byte := []
  /-- where boot stands -/
  boot : Boot := .reset
  /-- the image that boot has loaded, and its version -/
  running : List Byte := []
  version : Nat := 0
  /-- BAR0 (R427) -/
  hstat : W64 := 0
  hcmda : W64 := 0
  hcmds : W64 := 0
  hevt : W64 := 0
  /-- host addresses of the command blocks submitted and not yet read -/
  cmds : List Nat := []
  islands : Vector Island 640
  cap : Nat := 2600
  ceiling : Nat := 1400
  limiting : Bool := false
  /-- since when measurements stay below 95 % of the cap -/
  calm : Option Nat := none
  /-- they have for 1 ms: the ceiling rises with each measurement -/
  raising : Bool := false
  limPeriods : Nat := 0
  limTime : Nat := 0
  limSince : Option Nat := none
  lowest : Nat := 1400
  log : List LogRec := []
  logSeq : Nat := 0
  /-- the cumulative record to be rewritten next; 0 when no rewriting is under way -/
  logNext : Nat := 0
  dies : Vector DieCounts 5
  absent : Nat := 0
  /-- patrol scrub and log rewrite: when they last ran -/
  scrubbed : Nat := 0
  rewritten : Nat := 0
  /-- module time is locked to a master, and has been once (R382); the UTC offset announced -/
  locked : Bool := false
  lockedOnce : Bool := false
  utc : Option Nat := none
  /-- what the part has sent to the host and the management port: 0 the bytes of a read by a host requester,
  1 a completer abort, 2 an unsupported request, 3 bytes written through a socket or file, 4 an answer of the host
  port, 5 an answer of the management port, 6 MSI-X vector 0,
  7 the number of cores published to the host and the management port, 8 a command to a storage device -/
  replies : List (Nat × List Byte) := []
  /-- commands submitted to NVMe devices (R333) and not yet completed: number and context -/
  nvme : List (Nat × Nat) := []
  /-- completions observed for a stopped context, held for it (R41) -/
  nvmeHeld : List NvmeDone := []
  deriving DecidableEq, Repr

/-- A group of a saved team: its quadrant and first slice context, or the slot of its phase record; its section's
body (R340); what the section does not hold (R403); and its calls that are still to be completed. -/
structure SavedGrp where
  quad : Nat
  slice0 : Nat
  slices : Nat
  phase : Option Nat := none
  body : List Byte
  audTag : BitVec 16
  audOrd : BitVec 32
  calls : List SysReq := []
  deriving DecidableEq, Repr

/-- A team of a context that the service kernel has taken off its core (R32, R334): what names it and its
launch, its section's body (R339), and its groups. -/
structure Saved where
  ctx : Nat
  pos : Nat
  /-- shape, lent bytes, root width code, allocation and counts, as Team holds them -/
  cx : Nat
  cy : Nat
  lent : Nat
  rwidth : Nat
  alloc : Nat
  tcnt : Nat
  bcnt : Nat
  launch : Nat
  pktQueue : Nat
  pktIdx : Nat
  body : List Byte
  groups : List SavedGrp
  deriving DecidableEq, Repr

/-- A page whose mapping the service kernel has revoked to move it (R135): its range, the address of its leaf, the page that
holds its data, and the leaf to come. -/
structure Move where
  ctx : Nat
  va : Nat
  size : Nat
  at_ : Nat
  old : Nat
  leaf : W64
  deriving DecidableEq, Repr

/-! ### The state -/

/-- The instruction that is being executed: who executes it, and the address after it (R45). -/
structure Issue where
  agent : Agent
  next : Pc
  deriving DecidableEq, Repr

structure State where
  /-- module time in 1/16 ns (R381), and a counter of steps that free values are drawn by -/
  time : Nat := 0
  tick : Nat := 0
  /-- what the outside world does, in order; the operands of the event in progress -/
  inputs : List Event := []
  ev : EvArg := .none
  /-- agents chosen to issue (R184), and the instruction being executed -/
  issuing : List Agent := []
  cur : Issue := { agent := .col 0, next := 0 }
  mem : List Host.Cell := []
  /-- lines with uncorrectable data (R219, R425), by the address of their first byte -/
  poison : List Nat := []
  /-- those of them whose error stands in a cache, and was not written back (R424, code 3) -/
  cacheErr : List Nat := []
  groups : List Group := []
  nextGroup : Nat := 0
  cols : Vector Col 48
  teams : List Team := []
  saved : List Saved := []
  contexts : List Context := []
  moving : List Move := []
  /-- numbers of operations, waiters, fuse attempts, phase endings -/
  nextNum : Nat := 0
  copies : List CopyOp := []
  mtx : List MtxOp := []
  merges : List Merge := []
  tlb : List TlbEnt := []
  icache : List ILine := []
  waiters : List Waiter := []
  fuses : List Fuse := []
  streams : Streams := {}
  /-- accesses without a place, in the order of their issue; whether an engine's in this step go there, and the lane from
  which an instruction's do, or how many accesses a matrix operation makes in this step (R138, R147): free in every step -/
  late : List LateAccess := []
  lag : Bool := false
  cut : Option Nat := none
  queues : List Queue := []
  sys : List SysReq := []
  keys : Vector KeySlot 1024
  net : Net := {}
  trc : Trace := {}
  aud : Audit := {}
  mod : Module
  deriving DecidableEq, Repr

/-! ### Reset -/

def Island.reset (i : Nat) : Island :=
  if 576 ≤ i ∧ i < 624 then { setClk := 2000, fmax := 2000 } else { setClk := 1400, fmax := 1400 }

def DieCounts.zero : DieCounts :=
  { tbin := Vector.replicate 16 0, vbin := Vector.replicate 16 0, corrected := Vector.replicate 9 0
    uncorrected := Vector.replicate 9 0, faults := Vector.replicate 25 0 }

/-- The registers of a col after reset (assumption 3): one lane, every register zero. -/
def Group.colReset : Group :=
  { sregs := Vector.replicate 32 0, lanes := [Lane.zero] }

/-- A col after reset (R307, R308, R350): the boot col runs, every other col stays in reset. -/
def Col.reset (boot : Bool) : Col :=
  { g := { Group.colReset with pc := if boot then BitVec.ofNat 57 Config.resetPc else 0 }
    run := if boot then .running else .inReset
    key := Vector.replicate 4 0, regx := Vector.replicate 48 0, qdesc := Vector.replicate 64 0 }

/-- The eight little-endian bytes at the start of a list, as a number. -/
def leBytes : List Byte → Nat
  | [] => 0
  | b :: r => b.toNat + 256 * leBytes r

/-- The module identity (R428): the first 8 bytes of the SHA3-512 digest of the public key. -/
def moduleIdentity : W64 :=
  BitVec.ofNat 64 (leBytes ((sha3 (Config.mldsaPublic Config.deviceSecret)).take 8))

def Module.reset : Module :=
  { modid := moduleIdentity, islands := Vector.ofFn fun i => Island.reset i.val
    dies := Vector.replicate 5 DieCounts.zero }

/-- The part right after reset (R350): the boot col in mask ROM at monitor privilege. -/
def State.reset : State :=
  { cols := Vector.ofFn fun i => Col.reset (i.val == 0)
    keys := Vector.replicate 1024 {}
    mod := Module.reset }

end Sys2Proof.Machine
end

