-- ==== Sys2Proof/Machine/Mem.lean ====
section
/-! DEFINITION. Memory: one list of cells in a canonical form (R1, R138). A key is a physical address,
or the model's number of a byte of storage that has no physical address (Config, assumption 1). An
unlisted byte reads as zero (assumption 2). -/

namespace Sys2Proof.Machine

abbrev Memory := List Host.Cell

/-- An element put before the first one that it does not come after. -/
def insertBy {α : Type} (le : α → α → Bool) (x : α) : List α → List α
  | [] => [x]
  | y :: r => if le x y then x :: y :: r else y :: insertBy le x r

/-- A list in the order of a comparison; equals keep their order. -/
def sortBy {α : Type} (le : α → α → Bool) (l : List α) : List α := l.foldr (insertBy le) []

/-- The byte at a key. -/
def readByte : Memory → Nat → Byte
  | [], _ => 0
  | (k, x) :: r, a => if a < k then 0 else if a = k then x else readByte r a

/-- A cell in front of a rest, left out when it holds zero. -/
def consByte (a : Nat) (b : Byte) (r : Memory) : Memory := if b = 0 then r else (a, b) :: r

/-- Memory with one byte written. -/
def writeByte : Memory → Nat → Byte → Memory
  | [], a, b => consByte a b []
  | (k, x) :: r, a, b =>
    if a < k then consByte a b ((k, x) :: r)
    else if a = k then consByte a b r
    else (k, x) :: writeByte r a b

/-- The canonical form: keys rise strictly and no cell holds zero. -/
def Memory.wf : Memory → Bool
  | [] => true
  | [c] => c.2 != 0
  | c :: d :: r => c.2 != 0 && decide (c.1 < d.1) && Memory.wf (d :: r)

/-- n bytes from a key. -/
def readBytes (m : Memory) (a : Nat) : Nat → List Byte
  | 0 => []
  | n + 1 => readByte m a :: readBytes m (a + 1) n

/-- Bytes written from a key upwards. -/
def writeBytes (m : Memory) (a : Nat) : List Byte → Memory
  | [] => m
  | b :: r => writeBytes (writeByte m a b) (a + 1) r

/-- The n little-endian bytes of a number (R1). -/
def toLE : Nat → Nat → List Byte
  | 0, _ => []
  | n + 1, x => BitVec.ofNat 8 x :: toLE n (x / 256)

/-- The n big-endian bytes of a number (R352). -/
def toBE (n x : Nat) : List Byte := (toLE n x).reverse

/-- The number of n little-endian bytes at a key. -/
def readLE (m : Memory) (a n : Nat) : Nat := leBytes (readBytes m a n)

/-- The keys of a run, cleared. -/
def zeroBytes (m : Memory) (a n : Nat) : Memory :=
  m.filter fun c => !(decide (a ≤ c.1) && decide (c.1 < a + n))

/-- n bytes of a list from an offset, as a little-endian number; missing bytes read as zero. -/
def field (bs : List Byte) (off n : Nat) : Nat := leBytes ((bs.drop off).take n)

/-- Bits hi down to lo of a number. -/
def bitsOf (x hi lo : Nat) : Nat := x / 2 ^ lo % 2 ^ (hi + 1 - lo)

/-- x as a signed number of w bits. -/
def signed (w x : Nat) : Int := if x % 2 ^ w < 2 ^ (w - 1) then (x % 2 ^ w : Nat) else (x % 2 ^ w : Nat) - (2 ^ w : Nat)

/-- An integer as w bits, wrapping. -/
def wrapTo (w : Nat) (x : Int) : Nat := (x % (2 ^ w : Nat)).toNat

end Sys2Proof.Machine
end

