-- ==== Sys2Proof/Machine/Flags.lean ====
section
/-! DEFINITION. Number formats and rounding (R83-R110): the exact value of an encoding, the one
rounding of an exact value into a type, and the flags of FSTAT that it sets. -/

namespace Sys2Proof.Machine

/-! ### FSTAT flags (R95) -/

def flNV : Nat := 1
def flDZ : Nat := 2
def flOF : Nat := 4
def flUF : Nat := 8
def flNX : Nat := 16
def flSATF : Nat := 32

/-! ### Integers (R83, R84) -/

/-- The number that the low bits of a slot hold in an integer type (R84); x32 reads as unsigned. -/
def intOf (t : Ty) (x : Nat) : Int := if t.signed then signed t.bits x else ((x % 2 ^ t.bits : Nat) : Int)

/-- An integer result as a register slot of 32 bits, or 64 bits for a wide type (R84). -/
def slotOf (t : Ty) (x : Int) : Nat :=
  if t.signed then wrapTo (if t.wide then 64 else 32) (signed t.bits (wrapTo t.bits x)) else wrapTo t.bits x

def intMin (t : Ty) : Int := if t.signed then -((2 ^ (t.bits - 1) : Nat) : Int) else 0
def intMax (t : Ty) : Int := if t.signed then ((2 ^ (t.bits - 1) : Nat) : Int) - 1 else ((2 ^ t.bits : Nat) : Int) - 1

/-- `sat` of R83. -/
def satInt (t : Ty) (x : Int) : Int := max (intMin t) (min (intMax t) x)

/-- An exact integer result, wrapped or saturated (R83): the slot and the flags. -/
def intResult (t : Ty) (sat : Bool) (x : Int) : Nat × Nat :=
  if sat then (slotOf t (satInt t x), if satInt t x = x then 0 else flSATF) else (slotOf t x, 0)

/-! ### Exact values -/

/-- A value: a NaN, an infinity, or m units of 2^e, plus less than one unit more where sticky. -/
inductive FV where
  | nan (signalling : Bool)
  | inf (neg : Bool)
  | fin (neg : Bool) (m : Nat) (e : Int) (sticky : Bool)
  deriving DecidableEq, Repr

/-- A float type's fraction bits, exponent bits and bias (R85). -/
def fmtOf : Ty → Nat × Nat × Nat
  | .f64 => (52, 11, 1023)
  | .f32 => (23, 8, 127)
  | .h16 => (10, 5, 15)
  | .b16 => (7, 8, 127)
  | .f8e4 => (3, 4, 7)
  | .f8e5 => (2, 5, 15)
  | _ => (23, 8, 127)

/-- A type that GMODE.FTZ concerns (R87). -/
def ftzTy : Ty → Bool
  | .f32 | .h16 | .b16 => true
  | _ => false

/-- One term of a ds8 byte in units of 2^-6 (R88). -/
def ds8Term (x : Nat) : Int :=
  let k := x % 8
  if k = 7 then 0 else if x / 8 % 2 = 1 then -((2 ^ (6 - k) : Nat) : Int) else ((2 ^ (6 - k) : Nat) : Int)

/-- The value of a ds8 byte in units of 2^-6 (R88). -/
def ds8Val (x : Nat) : Int := ds8Term (x / 16 % 16) + ds8Term (x % 16)

def FV.ofInt (x : Int) (e : Int) : FV := .fin (decide (x < 0)) x.natAbs e false

/-- The exact value of an encoding (R85, R86, R88). -/
def fvOf (t : Ty) (x : Nat) : FV :=
  if t = .ds8 then FV.ofInt (ds8Val x) (-6)
  else
    let (fb, eb, bias) := fmtOf t
    let f := x % 2 ^ fb
    let e := x / 2 ^ fb % 2 ^ eb
    let neg := x / 2 ^ (fb + eb) % 2 = 1
    if t = .f8e4 then
      if e = 15 ∧ f = 7 then .nan false
      else if e = 0 then .fin neg f (1 - bias - fb) false else .fin neg (2 ^ fb + f) ((e : Int) - bias - fb) false
    else if e = 2 ^ eb - 1 then
      if f = 0 then .inf neg else .nan (decide (f < 2 ^ (fb - 1)))
    else if e = 0 then .fin neg f (1 - bias - fb) false
    else .fin neg (2 ^ fb + f) ((e : Int) - bias - fb) false

/-- A subnormal encoding (R87). -/
def isSubnormal (t : Ty) (x : Nat) : Bool :=
  let (fb, eb, _) := fmtOf t
  x % 2 ^ fb != 0 && x / 2 ^ fb % 2 ^ eb == 0

/-- A numeric input, with subnormals flushed under FTZ (R87). -/
def fvIn (ftz : Bool) (t : Ty) (x : Nat) : FV :=
  match fvOf t x with
  | .fin n m e s => if ftz && ftzTy t && isSubnormal t x then .fin n 0 e s else .fin n m e s
  | v => v

def FV.isNan : FV → Bool
  | .nan _ => true
  | _ => false

def FV.isZero : FV → Bool
  | .fin _ m _ s => m == 0 && !s
  | _ => false

def FV.neg? : FV → Bool
  | .nan _ => false
  | .inf n => n
  | .fin n _ _ _ => n

def FV.negate : FV → FV
  | .nan s => .nan s
  | .inf n => .inf (!n)
  | .fin n m e s => .fin (!n) m e s

/-- NV for a signalling NaN read as a numeric input (R86). -/
def snan : FV → Nat
  | .nan true => flNV
  | _ => 0

/-! ### Encodings of results -/

def canonNan : Ty → Nat
  | .f64 => 0x7FF8000000000000
  | .f32 => 0x7FC00000
  | .h16 => 0x7E00
  | .b16 => 0x7FC0
  | .f8e4 => 0x7F
  | .f8e5 => 0x7E
  | _ => 0x77

def signBit (t : Ty) (neg : Bool) : Nat := if neg then 2 ^ (t.bits - 1) else 0

def infBits (t : Ty) (neg : Bool) : Nat :=
  let (fb, eb, _) := fmtOf t
  signBit t neg + (2 ^ eb - 1) * 2 ^ fb

/-- The encoding of the largest finite value. -/
def maxBits (t : Ty) (neg : Bool) : Nat :=
  if t = .f8e4 then signBit t neg + 0x7E else infBits t neg - 1

/-- Whether a rounding of n plus r / 2^k units goes up to n + 1 (R91, R99). -/
def roundsUp (mode : Rnd) (sr : Nat) (neg : Bool) (n r k : Nat) (sticky : Bool) : Bool :=
  match mode with
  | .rne | .md => decide (2 * r > 2 ^ k) || (decide (2 * r = 2 ^ k) && (sticky || n % 2 == 1))
  | .rna => decide (2 * r ≥ 2 ^ k)
  | .rz => false
  | .rdn => neg && (r != 0 || sticky)
  | .rup => !neg && (r != 0 || sticky)
  | .sr =>
    let f := r * 2 ^ 24 / 2 ^ k
    decide (sr < f) || (decide (sr = f) && (r * 2 ^ 24 % 2 ^ k != 0 || sticky))

/-- m units rounded to units 2^k times as large: the number of units, and whether it was inexact. -/
def roundShift (mode : Rnd) (sr : Nat) (neg : Bool) (m : Nat) (sticky : Bool) (k : Int) : Nat × Bool :=
  if k ≤ 0 then (m * 2 ^ (-k).toNat, sticky)
  else
    let k := k.toNat
    let n := m / 2 ^ k
    let r := m % 2 ^ k
    (if roundsUp mode sr neg n r k sticky then n + 1 else n, r != 0 || sticky)

/-- The encoding of n units of 2^q, a value of the type (R85). -/
def packFloat' (t : Ty) (neg : Bool) (n : Nat) (q : Int) : Nat :=
  let (fb, _, bias) := fmtOf t
  -- a carry out of the significand
  let (n, q) := if n ≥ 2 ^ (fb + 1) then (n / 2, q + 1) else (n, q)
  if n < 2 ^ fb then signBit t neg + n
  else signBit t neg + (q + bias + fb).toNat * 2 ^ fb + (n - 2 ^ fb)

/-- n units of 2^q exceed the largest finite value (R92). -/
def exceedsMax (t : Ty) (n : Nat) (q : Int) : Bool :=
  let (fb, eb, bias) := fmtOf t
  let top : Nat := if t = .f8e4 then 14 else 2 ^ (fb + 1) - 1
  let qm : Int := (if t = .f8e4 then (2 ^ eb - 1 : Nat) else (2 ^ eb - 2 : Nat)) - (bias : Int) - fb
  if q ≥ qm then decide (n * 2 ^ (q - qm).toNat > top) else false

/-- R92: the value of an overflowed result. -/
def overflowBits (mode : Rnd) (t : Ty) (sat neg : Bool) : Nat :=
  let inf := if t = .f8e4 then canonNan t else infBits t neg
  if sat then maxBits t neg
  else
    match mode with
    | .rz => maxBits t neg
    | .rdn => if neg then inf else maxBits t neg
    | .rup => if neg then maxBits t neg else inf
    | _ => inf

/-- The non-negative ds8 values in units of 2^-6 and their codes (R89). -/
def ds8Grid : List (Nat × Nat) :=
  [(0, 0x77), (1, 0x67), (2, 0x57), (3, 0x56), (4, 0x47), (5, 0x46), (6, 0x45), (7, 0x3E), (8, 0x37), (9, 0x36),
   (10, 0x35), (12, 0x34), (14, 0x2D), (15, 0x2E), (16, 0x27), (17, 0x26), (18, 0x25), (20, 0x24), (24, 0x23), (28, 0x1C)] ++
  [(30, 0x1D), (31, 0x1E), (32, 0x17), (33, 0x16), (34, 0x15), (36, 0x14), (40, 0x13), (48, 0x12), (56, 0x0B),
   (60, 0x0C), (62, 0x0D), (63, 0x0E), (64, 0x07), (65, 0x06), (66, 0x05), (68, 0x04), (72, 0x03), (80, 0x02),
   (96, 0x01), (128, 0x00)]

/-- The code of a magnitude of the grid with a sign (R89). -/
def ds8Code (neg : Bool) (v : Nat) : Nat :=
  let c := ((ds8Grid.find? fun p => p.1 == v).map Prod.snd).getD 0x77
  if neg && v != 0 then c ^^^ 0x88 else c

/-- The neighbours of a magnitude: the largest grid value at or below it and the next. -/
def ds8Around (n : Nat) : Nat × Nat :=
  (ds8Grid.foldl (fun x p => if p.1 ≤ n then p.1 else x) 0, (ds8Grid.foldr (fun p x => if p.1 > n then p.1 else x) 128))

def trailing0 : Nat → Nat → Nat
  | 0, _ => 0
  | k + 1, n => if n % 2 = 1 then 0 else 1 + trailing0 k (n / 2)

/-- Rounding into ds8 (R90): m units of 2^e. -/
def roundDs8 (mode : Rnd) (sr : Nat) (neg : Bool) (m : Nat) (e : Int) (sticky : Bool) : Nat × Nat :=
  -- the magnitude in units of 2^-6 is n + r / 2^k
  let s := e + 6
  let k := if s < 0 then (-s).toNat else 0
  let mm := if s < 0 then m else m * 2 ^ s.toNat
  let n := mm / 2 ^ k
  let exact := mm % 2 ^ k == 0 && !sticky
  if n > 128 ∨ (n = 128 ∧ !exact) then (ds8Code neg 128, flOF + flNX)
  else
    let (a, b) := ds8Around n
    if exact ∧ n = a then (ds8Code neg a, 0)
    else
      let d := (b - a) * 2 ^ k
      let r := mm - a * 2 ^ k
      let up :=
        match mode with
        | .rne | .md =>
          decide (2 * r > d) || (decide (2 * r = d) && (sticky ||
            (decide (trailing0 8 b > trailing0 8 a) && a != 0)))
        | .rna => decide (2 * r ≥ d)
        | .rz => false
        | .rdn => neg
        | .rup => !neg
        | .sr =>
          let f := r * 2 ^ 24 / d
          decide (sr < f) || (decide (sr = f) && (r * 2 ^ 24 % d != 0 || sticky))
      (ds8Code neg (if up then b else a), flNX)

/-- One rounding of an exact value into a float type (R87, R90-R93): the encoding and the flags. The
flags of a NaN input are its reader's. -/
def roundTo (mode : Rnd) (sr : Nat) (t : Ty) (sat ftz : Bool) (x : FV) : Nat × Nat :=
  match x with
  | .nan _ => (canonNan t, if t = .ds8 then flNV else 0)
  | .inf neg =>
    if t = .ds8 then (ds8Code neg 128, flNV)
    else if t = .f8e4 then (if sat then maxBits t neg else canonNan t, flNV)
    else (infBits t neg, 0)
  | .fin neg m e sticky =>
    if t = .ds8 then roundDs8 mode sr neg m e sticky
    else if m = 0 ∧ !sticky then (signBit t neg, 0)
    else
      let (fb, _, bias) := fmtOf t
      let emin : Int := 1 - (bias : Int) - fb
      let u : Int := e + Nat.log2 m - fb
      let q := max u emin
      let (nu, inexactU) := roundShift mode sr neg m sticky (u - e)
      -- rounded as if the exponent range were unbounded: below the minimum normal
      let tiny := if u ≥ emin then false else decide (nu < 2 ^ (fb + (emin - u).toNat))
      if ftz && ftzTy t && tiny then (signBit t neg, flUF + flNX)
      else
        let (n, inexact) := if u ≥ emin then (nu, inexactU) else roundShift mode sr neg m sticky (q - e)
        if exceedsMax t n q then (overflowBits mode t sat neg, flOF + flNX)
        else (packFloat' t neg n q, (if inexact then flNX else 0) + (if tiny && inexact then flUF else 0))

/-- A value rounded to an integer (R91). -/
def roundInt (mode : Rnd) (sr : Nat) (neg : Bool) (m : Nat) (e : Int) (sticky : Bool) : Int × Bool :=
  let (n, inexact) := roundShift mode sr neg m sticky (-e)
  (if neg then -(n : Int) else n, inexact)

/-- Conversion into an integer type (R94): the slot and the flags. -/
def floatToInt (mode : Rnd) (sr : Nat) (t : Ty) (x : FV) : Nat × Nat :=
  match x with
  | .nan _ => (0, flNV)
  | .inf neg => (slotOf t (if neg then intMin t else intMax t), flNV)
  | .fin neg m e sticky =>
    let (n, inexact) := roundInt mode sr neg m e sticky
    if satInt t n ≠ n then (slotOf t (satInt t n), flNV + flNX)
    else (slotOf t n, if inexact then flNX else 0)

/-! ### Exact operations -/

/-- The sum of two finite values, exact; its sign when it is zero is the caller's. -/
def addFin (n1 : Bool) (m1 : Nat) (e1 : Int) (n2 : Bool) (m2 : Nat) (e2 : Int) : Int × Int :=
  let e := min e1 e2
  let a : Int := (m1 * 2 ^ (e1 - e).toNat : Nat)
  let b : Int := (m2 * 2 ^ (e2 - e).toNat : Nat)
  ((if n1 then -a else a) + (if n2 then -b else b), e)

/-- The exact sum (IEEE 754-2019): a zero sum of unlike signs is +0, or -0 when rounding down. -/
def FV.add (down : Bool) (x y : FV) : FV × Nat :=
  match x, y with
  | .nan _, _ => (.nan false, 0)
  | _, .nan _ => (.nan false, 0)
  | .inf a, .inf b => if a = b then (.inf a, 0) else (.nan false, flNV)
  | .inf a, .fin _ _ _ _ => (.inf a, 0)
  | .fin _ _ _ _, .inf b => (.inf b, 0)
  | .fin n1 m1 e1 _, .fin n2 m2 e2 _ =>
    let (v, e) := addFin n1 m1 e1 n2 m2 e2
    if v = 0 then (.fin (if n1 = n2 then n1 else down) 0 e false, 0) else (FV.ofInt v e, 0)

/-- The exact product. -/
def FV.mul (x y : FV) : FV × Nat :=
  match x, y with
  | .nan _, _ => (.nan false, 0)
  | _, .nan _ => (.nan false, 0)
  | .inf a, .inf b => (.inf (a != b), 0)
  | .inf a, .fin n m _ _ => if m = 0 then (.nan false, flNV) else (.inf (a != n), 0)
  | .fin n m _ _, .inf b => if m = 0 then (.nan false, flNV) else (.inf (b != n), 0)
  | .fin n1 m1 e1 _, .fin n2 m2 e2 _ => (.fin (n1 != n2) (m1 * m2) (e1 + e2) false, 0)

/-- The exact quotient (R109), with its flags. -/
def FV.div (x y : FV) : FV × Nat :=
  match x, y with
  | .nan _, _ => (.nan false, 0)
  | _, .nan _ => (.nan false, 0)
  | .inf _, .inf _ => (.nan false, flNV)
  | .inf a, .fin n _ _ _ => (.inf (a != n), 0)
  | .fin n _ _ _, .inf b => (.fin (n != b) 0 0 false, 0)
  | .fin n1 m1 e1 _, .fin n2 m2 e2 _ =>
    if m2 = 0 then (if m1 = 0 then (.nan false, flNV) else (.inf (n1 != n2), flDZ))
    else if m1 = 0 then (.fin (n1 != n2) 0 0 false, 0)
    else
      let k := 128 + Nat.log2 m2
      let num := m1 * 2 ^ k
      (.fin (n1 != n2) (num / m2) (e1 - e2 - k) (num % m2 != 0), 0)

/-- The square root (R109), with its flags. -/
def FV.sqrt (x : FV) : FV × Nat :=
  match x with
  | .nan _ => (.nan false, 0)
  | .inf n => if n then (.nan false, flNV) else (.inf false, 0)
  | .fin n m e _ =>
    if m = 0 then (.fin n 0 e false, 0)
    else if n then (.nan false, flNV)
    else
      let odd := e % 2 != 0
      let m' := (if odd then 2 * m else m) * 2 ^ 256
      let e' := (if odd then e - 1 else e) - 256
      let r := Nat.sqrt m'
      (.fin false r (e' / 2) (r * r != m'), 0)

/-- The order of two values that are not NaN: -1, 0 or 1; zeros are equal. -/
def FV.cmp (x y : FV) : Int :=
  match x, y with
  | .inf a, .inf b => if a = b then 0 else if a then -1 else 1
  | .inf a, _ => if a then -1 else 1
  | _, .inf b => if b then 1 else -1
  | .fin n1 m1 e1 _, .fin n2 m2 e2 _ => Int.sign (addFin n1 m1 e1 (!n2) m2 e2).1
  | _, _ => 0

/-- 24 random bits for an element (R98). -/
def srbits (seed ctr : W64) (h e : Nat) : Nat :=
  let x := seed ^^^ (ctr * 0x5E8A17F3C06D2B99) ^^^ (BitVec.ofNat 64 e <<< 12) ^^^ BitVec.ofNat 64 h
  let step := fun (x c : W64) => (x ^^^ (x >>> 29)) * c
  let x := step (step (step x 0x8F3C5A71D2E69B0B) 0x6B1DE4930A7FC285) 0xD4A271C93E58B6F1
  ((x ^^^ (x >>> 32)).extractLsb' 40 24).toNat

/-! ### The float sums of memory, barriers and windows (R141, R287, R371) -/

/-- round(old + v, rne, type), subnormals kept, no flags. -/
def faddRne (t : Ty) (old v : Nat) : Nat :=
  (roundTo .rne 0 t false false (FV.add false (fvOf t old) (fvOf t v)).1).1

/-! ### Elements in memory (R200, R204, R208) -/

/-- The slots of a result of a wide or narrow type. -/
def slotWords (t : Ty) (x : Nat) : List W32 :=
  if t.wide then [BitVec.ofNat 32 x, BitVec.ofNat 32 (x / 2 ^ 32)] else [BitVec.ofNat 32 x]

/-- An element of size bytes as a register slot of its type (R84, R85). -/
def elemSlot (t : Ty) (x : Nat) : Nat := if t.isInt then slotOf t (intOf t x) else x

/-- The words of the elements in some bytes. -/
def wordsOfBytes (t : Ty) (count : Nat) (bs : List Byte) : List W32 :=
  (List.range count).flatMap fun j => slotWords t (elemSlot t (field bs (j * t.size) t.size))

/-- The s register that a uniform load of an element gives (R204). -/
def uniWord (t : Ty) (bs : List Byte) : W64 :=
  let x := field bs 0 t.size
  if t.isInt then BitVec.ofInt 64 (intOf t x) else BitVec.ofNat 64 x

/-- The new value of an atomic on n bytes (R208): the operation, the old value, the operand, cmp and new. -/
def atomNew (op : Nat) (t : Ty) (old v cmp : Nat) : Nat :=
  match op with
  | 0 => wrapTo t.bits (intOf t old + intOf t v)
  | 1 => wrapTo t.bits (min (intOf t old) (intOf t v))
  | 2 => wrapTo t.bits (max (intOf t old) (intOf t v))
  | 3 => old &&& v
  | 4 => old ||| v
  | 5 => old ^^^ v
  | 6 => v
  | 7 => if old = cmp then v else old
  | _ => faddRne t old v

end Sys2Proof.Machine
end

