-- ==== Sys2Proof/Decode.lean ====
section
/-! DEFINITION. The decoder, total on any bytes, and the encoder, from the formats of R49 to R51 and
the opcode maps of R79 and R80. -/

namespace Sys2Proof

/-- Why a sequence of bytes is not an instruction (R82). -/
inductive DecodeError where
  /-- fewer bytes than the length field asks for -/
  | truncated
  /-- length 11 (R49) -/
  | length
  /-- an OPC7 value marked as unassigned (R79) -/
  | opc7 (n : Nat)
  /-- an unassigned function or group (R80) -/
  | function (grp fn : Nat)
  /-- RND 111 (R63) -/
  | rounding
  /-- an operand, modifier, type, literal or unused field that the description does not accept -/
  | fields
  deriving DecidableEq, Repr

/-! ### Fields -/

/-- The specifier of a 7-bit field (R55). -/
def Spec.ofBits (b : BitVec 7) : Spec :=
  let n := b.toNat
  if n < 0x40 then .v (Fin.ofNat 64 n)
  else if n < 0x50 then .q (Fin.ofNat 16 (n - 0x40))
  else if n < 0x70 then .s (Fin.ofNat 32 (n - 0x50))
  else match n - 0x70 with
    | 0 => .zero | 1 => .lane | 2 => .width | 3 => .live | 4 => .home | 5 => .slice | 6 => .root
    | 7 => .team | 8 => .one | 9 => .two | 10 => .four | 11 => .eight | 12 => .neg1 | 13 => .half
    | 14 => .oneF | _ => .lit

/-- The number of a specifier (R55). -/
def Spec.code : Spec → Nat
  | .v n => n.val | .q n => 0x40 + n.val | .s n => 0x50 + n.val
  | .zero => 0x70 | .lane => 0x71 | .width => 0x72 | .live => 0x73 | .home => 0x74 | .slice => 0x75
  | .root => 0x76 | .team => 0x77 | .one => 0x78 | .two => 0x79 | .four => 0x7A | .eight => 0x7B
  | .neg1 => 0x7C | .half => 0x7D | .oneF => 0x7E | .lit => 0x7F

/-- The 7-bit field of a specifier. -/
def Spec.bits (x : Spec) : BitVec 7 := BitVec.ofNat 7 x.code

/-- The rounding field (R63). -/
def Rnd.ofBits (b : BitVec 3) : Option Rnd :=
  match b.toNat with
  | 0 => some .rne | 1 => some .rz | 2 => some .rdn | 3 => some .rup | 4 => some .rna
  | 5 => some .sr | 6 => some .md | _ => none

def Rnd.code : Rnd → Nat
  | .rne => 0 | .rz => 1 | .rdn => 2 | .rup => 3 | .rna => 4 | .sr => 5 | .md => 6

/-- Bit i of a word. -/
def wbit (w : W32) (i : Nat) : Bool := w.getLsbD i

/-- The fields of a short form (R50). -/
def SF.ofWord (w : W32) : SF :=
  { sw := wbit w 29, g := wbit w 28, dst := .ofBits (w.extractLsb' 14 7), sa := .ofBits (w.extractLsb' 7 7)
    sb := .ofBits (w.extractLsb' 0 7) }

/-- OPC7 of a short form (R50). -/
def opc7Of (w : W32) : Nat := (w.extractLsb' 21 7).toNat

/-- The word of a short form. -/
def SF.word (opc : Nat) (f : SF) : W32 :=
  (BitVec.ofNat 2 0 ++ BitVec.ofBool f.sw ++ BitVec.ofBool f.g ++ BitVec.ofNat 7 opc ++ f.dst.bits ++ f.sa.bits ++
    f.sb.bits : BitVec (2 + 1 + 1 + 7 + 7 + 7 + 7))

/-- The fields of a long form (R51). -/
def LF.ofWords (w0 w1 : W32) (lit : Option W32) : Option LF :=
  (Rnd.ofBits (w1.extractLsb' 5 3)).map fun r =>
    { sw := wbit w0 29, lit := lit, dst := .ofBits (w0.extractLsb' 12 7), sa := .ofBits (w0.extractLsb' 5 7)
      ext := w0.extractLsb' 0 5, sb := .ofBits (w1.extractLsb' 25 7), sc := .ofBits (w1.extractLsb' 18 7)
      guard := { inv := wbit w1 17, idx := (w1.extractLsb' 12 5).toFin }
      ty := .ofCode (w1.extractLsb' 8 4).toNat, rnd := r, mod := w1.extractLsb' 0 5 }

/-- GRP and FN of a long form (R51). -/
def grpOf (w : W32) : Nat := (w.extractLsb' 25 4).toNat
def fnOf (w : W32) : Nat := (w.extractLsb' 19 6).toNat

/-- Word 0 of a long form. -/
def LF.word0 (grp fn : Nat) (f : LF) : W32 :=
  ((if f.lit.isSome then BitVec.ofNat 2 2 else BitVec.ofNat 2 1) ++ BitVec.ofBool f.sw ++ BitVec.ofNat 4 grp ++ BitVec.ofNat 6 fn ++
    f.dst.bits ++ f.sa.bits ++ f.ext : BitVec (2 + 1 + 4 + 6 + 7 + 7 + 5))

/-- Word 1 of a long form. -/
def LF.word1 (f : LF) : W32 :=
  (f.sb.bits ++ f.sc.bits ++ BitVec.ofBool f.guard.inv ++ BitVec.ofNat 5 f.guard.idx.val ++ BitVec.ofNat 4 f.ty.code ++
    BitVec.ofNat 3 f.rnd.code ++ f.mod : BitVec (7 + 7 + 1 + 5 + 4 + 3 + 5))

/-- The words of a long form (R51, R54). -/
def LF.words (grp fn : Nat) (f : LF) : List W32 :=
  f.word0 grp fn :: f.word1 :: f.lit.toList

/-! ### Opcode maps -/

/-- The short forms (R79). -/
def shortMap (opc : Nat) (f : SF) : Option Instr :=
  match opc with
  | 0x00 => some (.nopShort f)
  | 0x08 => some (.saddShort f)
  | 0x09 => some (.ssubShort f)
  | 0x0A => some (.sandShort f)
  | 0x0B => some (.sorShort f)
  | 0x0C => some (.sxorShort f)
  | 0x0D => some (.sandnShort f)
  | 0x0E => some (.sshlShort f)
  | 0x0F => some (.sshrShort f)
  | 0x10 => some (.ssarShort f)
  | 0x11 => some (.smovShort f)
  | 0x12 => some (.spopcShort f)
  | 0x20 => some (.vaddShort f)
  | 0x21 => some (.vsubShort f)
  | 0x22 => some (.vmulShort f)
  | 0x23 => some (.vmulhShort f)
  | 0x24 => some (.vminShort f)
  | 0x25 => some (.vmaxShort f)
  | 0x26 => some (.vabsShort f)
  | 0x27 => some (.vandShort f)
  | 0x28 => some (.vorShort f)
  | 0x29 => some (.vxorShort f)
  | 0x2A => some (.vandnShort f)
  | 0x2B => some (.vshlShort f)
  | 0x2C => some (.vshrShort f)
  | 0x2D => some (.vsarShort f)
  | 0x2E => some (.vrolShort f)
  | 0x2F => some (.vpopcShort f)
  | 0x30 => some (.vclzShort f)
  | 0x31 => some (.vbrevShort f)
  | 0x32 => some (.vmovShort f)
  | 0x40 => some (.faddShort f)
  | 0x41 => some (.fsubShort f)
  | 0x42 => some (.fmulShort f)
  | 0x43 => some (.fminShort f)
  | 0x44 => some (.fmaxShort f)
  | 0x45 => some (.frcpShort f)
  | 0x46 => some (.frsqShort f)
  | 0x47 => some (.fsqrtShort f)
  | 0x48 => some (.fexp2Short f)
  | 0x49 => some (.flog2Short f)
  | 0x4A => some (.fsinShort f)
  | 0x4B => some (.fcosShort f)
  | 0x4C => some (.ftanhShort f)
  | 0x4D => some (.frintShort f)
  | 0x60 => some (.shflShort f)
  | 0x61 => some (.bcastShort f)
  | 0x62 => some (.ballotShort f)
  | 0x63 => some (.vanyShort f)
  | 0x64 => some (.vallShort f)
  | _ => none

/-- Group 0x0, sequencer (R80). -/
def longMap0 (fn : Nat) (f : LF) : Option Instr :=
  match fn with
  | 0x00 => some (.nop f)
  | 0x01 => some (.setmode f)
  | 0x02 => some (.getmode f)
  | 0x03 => some (.bra f)
  | 0x04 => some (.bral f)
  | 0x05 => some (.jmp f)
  | 0x06 => some (.jmpl f)
  | 0x07 => some (.ret f)
  | 0x08 => some (.brzm f)
  | 0x09 => some (.brnzm f)
  | 0x0A => some (.brallm f)
  | 0x0B => some (.loop f)
  | 0x0C => some (.exit f)
  | 0x0D => some (.split f)
  | 0x0E => some (.splitm f)
  | 0x0F => some (.fuse f)
  | 0x10 => some (.setpri f)
  | 0x11 => some (.yield f)
  | 0x12 => some (.sleep f)
  | 0x13 => some (.getid f)
  | _ => none

/-- Group 0x1, scalar (R80). -/
def longMap1 (fn : Nat) (f : LF) : Option Instr :=
  match fn with
  | 0x00 => some (.sadd f)
  | 0x01 => some (.ssub f)
  | 0x02 => some (.smul f)
  | 0x03 => some (.smulh f)
  | 0x04 => some (.sdiv f)
  | 0x05 => some (.srem f)
  | 0x06 => some (.smin f)
  | 0x07 => some (.smax f)
  | 0x08 => some (.sand f)
  | 0x09 => some (.sor f)
  | 0x0A => some (.sxor f)
  | 0x0B => some (.sandn f)
  | 0x0C => some (.sshl f)
  | 0x0D => some (.sshr f)
  | 0x0E => some (.ssar f)
  | 0x0F => some (.smov f)
  | 0x10 => some (.sli f)
  | 0x11 => some (.scmp f)
  | 0x12 => some (.ssel f)
  | 0x13 => some (.spopc f)
  | 0x14 => some (.sclz f)
  | 0x15 => some (.sctz f)
  | 0x16 => some (.sffs f)
  | 0x17 => some (.sbfx f)
  | 0x18 => some (.sbfi f)
  | _ => none

/-- Group 0x2, vector integer (R80). -/
def longMap2 (fn : Nat) (f : LF) : Option Instr :=
  match fn with
  | 0x00 => some (.vadd f)
  | 0x01 => some (.vsub f)
  | 0x02 => some (.vmul f)
  | 0x03 => some (.vmulh f)
  | 0x04 => some (.vmad f)
  | 0x05 => some (.vmin f)
  | 0x06 => some (.vmax f)
  | 0x07 => some (.vabs f)
  | 0x08 => some (.vand f)
  | 0x09 => some (.vor f)
  | 0x0A => some (.vxor f)
  | 0x0B => some (.vandn f)
  | 0x0C => some (.vshl f)
  | 0x0D => some (.vshr f)
  | 0x0E => some (.vsar f)
  | 0x0F => some (.vrol f)
  | 0x10 => some (.vbfx f)
  | 0x11 => some (.vbfi f)
  | 0x12 => some (.vpopc f)
  | 0x13 => some (.vclz f)
  | 0x14 => some (.vbrev f)
  | 0x15 => some (.vsel f)
  | 0x16 => some (.vmov f)
  | 0x17 => some (.vli f)
  | 0x18 => some (.vcmp f)
  | _ => none

/-- Group 0x3, vector float (R80). -/
def longMap3 (fn : Nat) (f : LF) : Option Instr :=
  match fn with
  | 0x00 => some (.fadd f)
  | 0x01 => some (.fsub f)
  | 0x02 => some (.fmul f)
  | 0x03 => some (.fma f)
  | 0x04 => some (.fmin f)
  | 0x05 => some (.fmax f)
  | 0x06 => some (.fcmp f)
  | 0x07 => some (.frcp f)
  | 0x08 => some (.frsq f)
  | 0x09 => some (.fsqrt f)
  | 0x0A => some (.fdiv f)
  | 0x0B => some (.fexp2 f)
  | 0x0C => some (.flog2 f)
  | 0x0D => some (.fsin f)
  | 0x0E => some (.fcos f)
  | 0x0F => some (.ftanh f)
  | 0x10 => some (.fclass f)
  | 0x11 => some (.fscale f)
  | 0x12 => some (.frint f)
  | _ => none

/-- Group 0x4, conversion and cross-lane (R80). -/
def longMap4 (fn : Nat) (f : LF) : Option Instr :=
  match fn with
  | 0x00 => some (.cvt f)
  | 0x01 => some (.pack f)
  | 0x02 => some (.unpk f)
  | 0x03 => some (.srseed f)
  | 0x04 => some (.srget f)
  | 0x05 => some (.shfl f)
  | 0x06 => some (.shflx f)
  | 0x07 => some (.shflup f)
  | 0x08 => some (.shfldn f)
  | 0x09 => some (.put f)
  | 0x0A => some (.bcast f)
  | 0x0B => some (.vany f)
  | 0x0C => some (.vall f)
  | 0x0D => some (.ballot f)
  | 0x0E => some (.matchLanes f)
  | 0x0F => some (.redux f)
  | 0x10 => some (.scan f)
  | _ => none

/-- Group 0x5, memory (R80). -/
def longMap5 (fn : Nat) (f : LF) : Option Instr :=
  match fn with
  | 0x00 => some (.ld f)
  | 0x01 => some (.st f)
  | 0x02 => some (.ldf f)
  | 0x03 => some (.lds f)
  | 0x04 => some (.sts f)
  | 0x05 => some (.ldc f)
  | 0x06 => some (.stc f)
  | 0x07 => some (.ldk f)
  | 0x08 => some (.stk f)
  | 0x09 => some (.ldp f)
  | 0x0A => some (.stp f)
  | 0x0B => some (.atom f)
  | 0x0C => some (.atoms f)
  | 0x0D => some (.atomc f)
  | 0x0E => some (.pref f)
  | 0x0F => some (.discard f)
  | 0x10 => some (.fence f)
  | 0x11 => some (.waitc f)
  | 0x12 => some (.cntrd f)
  | _ => none

/-- Group 0x6, matrix (R80). -/
def longMap6 (fn : Nat) (f : LF) : Option Instr :=
  match fn with
  | 0x00 => some (.mma f)
  | 0x01 => some (.mconv f)
  | 0x02 => some (.mzero f)
  | 0x03 => some (.mload f)
  | 0x04 => some (.mdrain f)
  | 0x05 => some (.mdrains f)
  | 0x06 => some (.mrows f)
  | 0x07 => some (.mshape f)
  | _ => none

/-- Group 0x7, synchronisation and copy (R80). -/
def longMap7 (fn : Nat) (f : LF) : Option Instr :=
  match fn with
  | 0x00 => some (.cpy f)
  | 0x01 => some (.cpyg f)
  | 0x02 => some (.cpys f)
  | 0x03 => some (.barinit f)
  | 0x04 => some (.barexp f)
  | 0x05 => some (.bararr f)
  | 0x06 => some (.barwait f)
  | 0x07 => some (.bartest f)
  | 0x08 => some (.barpay f)
  | 0x09 => some (.fwait f)
  | 0x0A => some (.ffill f)
  | 0x0B => some (.fclr f)
  | 0x0C => some (.semsig f)
  | 0x0D => some (.semwait f)
  | 0x0E => some (.rngres f)
  | 0x0F => some (.rngpub f)
  | 0x10 => some (.phase f)
  | 0x11 => some (.teambar f)
  | _ => none

/-- Group 0x8, system (R80). -/
def longMap8 (fn : Nat) (f : LF) : Option Instr :=
  match fn with
  | 0x00 => some (.trapc f)
  | 0x01 => some (.resume f)
  | 0x02 => some (.retx f)
  | 0x03 => some (.brk f)
  | 0x04 => some (.sysrd f)
  | 0x05 => some (.syswr f)
  | 0x06 => some (.msend f)
  | 0x07 => some (.mrecv f)
  | 0x08 => some (.saveg f)
  | 0x09 => some (.loadg f)
  | 0x0A => some (.tlbinv f)
  | 0x0B => some (.keysel f)
  | 0x0C => some (.idle f)
  | _ => none

/-- Group 0x9, network (R80). -/
def longMap9 (fn : Nat) (f : LF) : Option Instr :=
  match fn with
  | 0x00 => some (.nput f)
  | 0x01 => some (.nget f)
  | 0x02 => some (.nputi f)
  | 0x03 => some (.nputa f)
  | 0x04 => some (.natom f)
  | 0x05 => some (.nwaitn f)
  | 0x06 => some (.nwopen f)
  | 0x07 => some (.nwrev f)
  | _ => none

/-- Group 0xA, trace and audit (R80). -/
def longMap10 (fn : Nat) (f : LF) : Option Instr :=
  match fn with
  | 0x00 => some (.trace f)
  | 0x01 => some (.trflush f)
  | 0x02 => some (.trtag f)
  | 0x03 => some (.audtag f)
  | 0x04 => some (.audrd f)
  | 0x05 => some (.audclr f)
  | _ => none

/-- The long forms (R80). -/
def longMap (grp fn : Nat) (f : LF) : Option Instr :=
  match grp with
  | 0 => longMap0 fn f
  | 1 => longMap1 fn f
  | 2 => longMap2 fn f
  | 3 => longMap3 fn f
  | 4 => longMap4 fn f
  | 5 => longMap5 fn f
  | 6 => longMap6 fn f
  | 7 => longMap7 fn f
  | 8 => longMap8 fn f
  | 9 => longMap9 fn f
  | 10 => longMap10 fn f
  | _ => none

/-- The code of an instruction and its fields: OPC7 of a short form. -/
def Instr.short? : Instr → Option (Nat × SF)
  | .nopShort f => some (0x00, f)
  | .saddShort f => some (0x08, f)
  | .ssubShort f => some (0x09, f)
  | .sandShort f => some (0x0A, f)
  | .sorShort f => some (0x0B, f)
  | .sxorShort f => some (0x0C, f)
  | .sandnShort f => some (0x0D, f)
  | .sshlShort f => some (0x0E, f)
  | .sshrShort f => some (0x0F, f)
  | .ssarShort f => some (0x10, f)
  | .smovShort f => some (0x11, f)
  | .spopcShort f => some (0x12, f)
  | .vaddShort f => some (0x20, f)
  | .vsubShort f => some (0x21, f)
  | .vmulShort f => some (0x22, f)
  | .vmulhShort f => some (0x23, f)
  | .vminShort f => some (0x24, f)
  | .vmaxShort f => some (0x25, f)
  | .vabsShort f => some (0x26, f)
  | .vandShort f => some (0x27, f)
  | .vorShort f => some (0x28, f)
  | .vxorShort f => some (0x29, f)
  | .vandnShort f => some (0x2A, f)
  | .vshlShort f => some (0x2B, f)
  | .vshrShort f => some (0x2C, f)
  | .vsarShort f => some (0x2D, f)
  | .vrolShort f => some (0x2E, f)
  | .vpopcShort f => some (0x2F, f)
  | .vclzShort f => some (0x30, f)
  | .vbrevShort f => some (0x31, f)
  | .vmovShort f => some (0x32, f)
  | .faddShort f => some (0x40, f)
  | .fsubShort f => some (0x41, f)
  | .fmulShort f => some (0x42, f)
  | .fminShort f => some (0x43, f)
  | .fmaxShort f => some (0x44, f)
  | .frcpShort f => some (0x45, f)
  | .frsqShort f => some (0x46, f)
  | .fsqrtShort f => some (0x47, f)
  | .fexp2Short f => some (0x48, f)
  | .flog2Short f => some (0x49, f)
  | .fsinShort f => some (0x4A, f)
  | .fcosShort f => some (0x4B, f)
  | .ftanhShort f => some (0x4C, f)
  | .frintShort f => some (0x4D, f)
  | .shflShort f => some (0x60, f)
  | .bcastShort f => some (0x61, f)
  | .ballotShort f => some (0x62, f)
  | .vanyShort f => some (0x63, f)
  | .vallShort f => some (0x64, f)
  | _ => none

/-- GRP and FN of a long form and its fields. -/
def Instr.long? : Instr → Option (Nat × Nat × LF)
  | .nop f => some (0, 0x00, f)
  | .setmode f => some (0, 0x01, f)
  | .getmode f => some (0, 0x02, f)
  | .bra f => some (0, 0x03, f)
  | .bral f => some (0, 0x04, f)
  | .jmp f => some (0, 0x05, f)
  | .jmpl f => some (0, 0x06, f)
  | .ret f => some (0, 0x07, f)
  | .brzm f => some (0, 0x08, f)
  | .brnzm f => some (0, 0x09, f)
  | .brallm f => some (0, 0x0A, f)
  | .loop f => some (0, 0x0B, f)
  | .exit f => some (0, 0x0C, f)
  | .split f => some (0, 0x0D, f)
  | .splitm f => some (0, 0x0E, f)
  | .fuse f => some (0, 0x0F, f)
  | .setpri f => some (0, 0x10, f)
  | .yield f => some (0, 0x11, f)
  | .sleep f => some (0, 0x12, f)
  | .getid f => some (0, 0x13, f)
  | .sadd f => some (1, 0x00, f)
  | .ssub f => some (1, 0x01, f)
  | .smul f => some (1, 0x02, f)
  | .smulh f => some (1, 0x03, f)
  | .sdiv f => some (1, 0x04, f)
  | .srem f => some (1, 0x05, f)
  | .smin f => some (1, 0x06, f)
  | .smax f => some (1, 0x07, f)
  | .sand f => some (1, 0x08, f)
  | .sor f => some (1, 0x09, f)
  | .sxor f => some (1, 0x0A, f)
  | .sandn f => some (1, 0x0B, f)
  | .sshl f => some (1, 0x0C, f)
  | .sshr f => some (1, 0x0D, f)
  | .ssar f => some (1, 0x0E, f)
  | .smov f => some (1, 0x0F, f)
  | .sli f => some (1, 0x10, f)
  | .scmp f => some (1, 0x11, f)
  | .ssel f => some (1, 0x12, f)
  | .spopc f => some (1, 0x13, f)
  | .sclz f => some (1, 0x14, f)
  | .sctz f => some (1, 0x15, f)
  | .sffs f => some (1, 0x16, f)
  | .sbfx f => some (1, 0x17, f)
  | .sbfi f => some (1, 0x18, f)
  | .vadd f => some (2, 0x00, f)
  | .vsub f => some (2, 0x01, f)
  | .vmul f => some (2, 0x02, f)
  | .vmulh f => some (2, 0x03, f)
  | .vmad f => some (2, 0x04, f)
  | .vmin f => some (2, 0x05, f)
  | .vmax f => some (2, 0x06, f)
  | .vabs f => some (2, 0x07, f)
  | .vand f => some (2, 0x08, f)
  | .vor f => some (2, 0x09, f)
  | .vxor f => some (2, 0x0A, f)
  | .vandn f => some (2, 0x0B, f)
  | .vshl f => some (2, 0x0C, f)
  | .vshr f => some (2, 0x0D, f)
  | .vsar f => some (2, 0x0E, f)
  | .vrol f => some (2, 0x0F, f)
  | .vbfx f => some (2, 0x10, f)
  | .vbfi f => some (2, 0x11, f)
  | .vpopc f => some (2, 0x12, f)
  | .vclz f => some (2, 0x13, f)
  | .vbrev f => some (2, 0x14, f)
  | .vsel f => some (2, 0x15, f)
  | .vmov f => some (2, 0x16, f)
  | .vli f => some (2, 0x17, f)
  | .vcmp f => some (2, 0x18, f)
  | .fadd f => some (3, 0x00, f)
  | .fsub f => some (3, 0x01, f)
  | .fmul f => some (3, 0x02, f)
  | .fma f => some (3, 0x03, f)
  | .fmin f => some (3, 0x04, f)
  | .fmax f => some (3, 0x05, f)
  | .fcmp f => some (3, 0x06, f)
  | .frcp f => some (3, 0x07, f)
  | .frsq f => some (3, 0x08, f)
  | .fsqrt f => some (3, 0x09, f)
  | .fdiv f => some (3, 0x0A, f)
  | .fexp2 f => some (3, 0x0B, f)
  | .flog2 f => some (3, 0x0C, f)
  | .fsin f => some (3, 0x0D, f)
  | .fcos f => some (3, 0x0E, f)
  | .ftanh f => some (3, 0x0F, f)
  | .fclass f => some (3, 0x10, f)
  | .fscale f => some (3, 0x11, f)
  | .frint f => some (3, 0x12, f)
  | .cvt f => some (4, 0x00, f)
  | .pack f => some (4, 0x01, f)
  | .unpk f => some (4, 0x02, f)
  | .srseed f => some (4, 0x03, f)
  | .srget f => some (4, 0x04, f)
  | .shfl f => some (4, 0x05, f)
  | .shflx f => some (4, 0x06, f)
  | .shflup f => some (4, 0x07, f)
  | .shfldn f => some (4, 0x08, f)
  | .put f => some (4, 0x09, f)
  | .bcast f => some (4, 0x0A, f)
  | .vany f => some (4, 0x0B, f)
  | .vall f => some (4, 0x0C, f)
  | .ballot f => some (4, 0x0D, f)
  | .matchLanes f => some (4, 0x0E, f)
  | .redux f => some (4, 0x0F, f)
  | .scan f => some (4, 0x10, f)
  | .ld f => some (5, 0x00, f)
  | .st f => some (5, 0x01, f)
  | .ldf f => some (5, 0x02, f)
  | .lds f => some (5, 0x03, f)
  | .sts f => some (5, 0x04, f)
  | .ldc f => some (5, 0x05, f)
  | .stc f => some (5, 0x06, f)
  | .ldk f => some (5, 0x07, f)
  | .stk f => some (5, 0x08, f)
  | .ldp f => some (5, 0x09, f)
  | .stp f => some (5, 0x0A, f)
  | .atom f => some (5, 0x0B, f)
  | .atoms f => some (5, 0x0C, f)
  | .atomc f => some (5, 0x0D, f)
  | .pref f => some (5, 0x0E, f)
  | .discard f => some (5, 0x0F, f)
  | .fence f => some (5, 0x10, f)
  | .waitc f => some (5, 0x11, f)
  | .cntrd f => some (5, 0x12, f)
  | .mma f => some (6, 0x00, f)
  | .mconv f => some (6, 0x01, f)
  | .mzero f => some (6, 0x02, f)
  | .mload f => some (6, 0x03, f)
  | .mdrain f => some (6, 0x04, f)
  | .mdrains f => some (6, 0x05, f)
  | .mrows f => some (6, 0x06, f)
  | .mshape f => some (6, 0x07, f)
  | .cpy f => some (7, 0x00, f)
  | .cpyg f => some (7, 0x01, f)
  | .cpys f => some (7, 0x02, f)
  | .barinit f => some (7, 0x03, f)
  | .barexp f => some (7, 0x04, f)
  | .bararr f => some (7, 0x05, f)
  | .barwait f => some (7, 0x06, f)
  | .bartest f => some (7, 0x07, f)
  | .barpay f => some (7, 0x08, f)
  | .fwait f => some (7, 0x09, f)
  | .ffill f => some (7, 0x0A, f)
  | .fclr f => some (7, 0x0B, f)
  | .semsig f => some (7, 0x0C, f)
  | .semwait f => some (7, 0x0D, f)
  | .rngres f => some (7, 0x0E, f)
  | .rngpub f => some (7, 0x0F, f)
  | .phase f => some (7, 0x10, f)
  | .teambar f => some (7, 0x11, f)
  | .trapc f => some (8, 0x00, f)
  | .resume f => some (8, 0x01, f)
  | .retx f => some (8, 0x02, f)
  | .brk f => some (8, 0x03, f)
  | .sysrd f => some (8, 0x04, f)
  | .syswr f => some (8, 0x05, f)
  | .msend f => some (8, 0x06, f)
  | .mrecv f => some (8, 0x07, f)
  | .saveg f => some (8, 0x08, f)
  | .loadg f => some (8, 0x09, f)
  | .tlbinv f => some (8, 0x0A, f)
  | .keysel f => some (8, 0x0B, f)
  | .idle f => some (8, 0x0C, f)
  | .nput f => some (9, 0x00, f)
  | .nget f => some (9, 0x01, f)
  | .nputi f => some (9, 0x02, f)
  | .nputa f => some (9, 0x03, f)
  | .natom f => some (9, 0x04, f)
  | .nwaitn f => some (9, 0x05, f)
  | .nwopen f => some (9, 0x06, f)
  | .nwrev f => some (9, 0x07, f)
  | .trace f => some (10, 0x00, f)
  | .trflush f => some (10, 0x01, f)
  | .trtag f => some (10, 0x02, f)
  | .audtag f => some (10, 0x03, f)
  | .audrd f => some (10, 0x04, f)
  | .audclr f => some (10, 0x05, f)
  | _ => none

/-! ### Decoding -/

/-- The number of words of an instruction whose first word is w (R49); none for length 11. -/
def lenOf (w : W32) : Option Nat :=
  match (w.extractLsb' 30 2).toNat with
  | 0 => some 1 | 1 => some 2 | 2 => some 3 | _ => none

/-- The words of a line are little-endian (R1). -/
def wordOf (b0 b1 b2 b3 : Byte) : W32 := b3 ++ b2 ++ b1 ++ b0

def wordBytes (w : W32) : List Byte :=
  [w.extractLsb' 0 8, w.extractLsb' 8 8, w.extractLsb' 16 8, w.extractLsb' 24 8]

/-- The words of a list of bytes; trailing bytes that make no word are left out. -/
def wordsOf : List Byte → List W32
  | a :: b :: c :: d :: r => wordOf a b c d :: wordsOf r
  | _ => []

/-- An instruction that is accepted by its description. -/
def checked (i : Option Instr) (e : DecodeError) : Except DecodeError Instr :=
  match i with
  | none => .error e
  | some i => if i.wf then .ok i else .error .fields

/-- The long form of two words and an optional literal. -/
def decodeLong (w0 w1 : W32) (lit : Option W32) : Except DecodeError Instr :=
  match LF.ofWords w0 w1 lit with
  | none => .error .rounding
  | some f => checked (longMap (grpOf w0) (fnOf w0) f) (.function (grpOf w0) (fnOf w0))

/-- The instruction at the head of a list of words (R49-R51, R82). -/
def decodeWords (ws : List W32) : Except DecodeError Instr :=
  match ws with
  | [] => .error .truncated
  | w :: r =>
    match lenOf w with
    | some 1 => checked (shortMap (opc7Of w) (SF.ofWord w)) (.opc7 (opc7Of w))
    | some 2 =>
      match r with
      | w1 :: _ => decodeLong w w1 none
      | _ => .error .truncated
    | some 3 =>
      match r with
      | w1 :: w2 :: _ => decodeLong w w1 (some w2)
      | _ => .error .truncated
    | _ => .error .length

/-- The instruction at the head of a list of bytes. -/
def decode (bytes : List Byte) : Except DecodeError Instr := decodeWords (wordsOf bytes)

/-- The words of an instruction; none for a step that has no encoding. -/
def encode (i : Instr) : List W32 :=
  match i.short?, i.long? with
  | some (opc, f), _ => [f.word opc]
  | none, some (g, fn, f) => f.words g fn
  | none, none => []

/-- The bytes of an instruction. -/
def encodeBytes (i : Instr) : List Byte := (encode i).flatMap wordBytes

/-- The three words of a table word: bit 0 is the least significant bit of the first word, and the
bits above nbits are zero. -/
def tableWords (nbits w : Nat) : List W32 :=
  let x := w % 2 ^ nbits
  [BitVec.ofNat 32 x, BitVec.ofNat 32 (x / 2 ^ 32), BitVec.ofNat 32 (x / 2 ^ 64)]

/-- The instruction that the decoder reads from the bits of a table word. -/
def decodeTableWord (nbits w : Nat) : Option Instr :=
  match decode ((tableWords nbits w).flatMap wordBytes) with
  | .ok i => some i
  | .error _ => none

end Sys2Proof
end

