-- ==== Sys2Proof/Machine/Access.lean ====
section
/-! DEFINITION. Named reads and updates of the state: agents, teams, contexts, outstanding register
results, path counters, and the creation of trace records. -/

namespace Sys2Proof.Machine

/-! ### Agents -/

def State.group? (s : State) (id : Nat) : Option Group := s.groups.find? fun g => g.id == id

def State.setGroup (s : State) (g : Group) : State :=
  { s with groups := s.groups.map fun x => if x.id == g.id then g else x }

/-- The number of a core in what concerns coherence: a group's own, 576 + n for col n. -/
def State.coreOf (s : State) : Agent → Nat
  | .group id => ((s.group? id).map (·.core)).getD 0
  | .col n => 576 + n

/-- An agent as scopes see it (R144). -/
def State.party (s : State) (a : Agent) : Party :=
  match a with
  | .col n => { who := a, core := 576 + n, ridge := n }
  | .group id =>
    match s.group? id with
    | none => { who := a, core := 0, ridge := 0 }
    | some g =>
      let t := s.teams.find? fun t => t.ctx == g.ctx && t.tlin == g.tlin && !t.retired
      { who := a, ctx := g.ctx, tlin := g.tlin, launch := (t.map (·.launch)).getD 0, clu := (t.map (·.clu)).getD 0
        core := g.core, ridge := g.core / 12, cores := (t.map fun t => t.parts.map Prod.fst).getD [] }

/-- The queue whose packet placed a group notes that the group is gone, when streaming stores are to be
published at the packet's release (R31). -/
def State.goneFrom (s : State) (id : Nat) : List Queue :=
  if s.streams.hist.isEmpty then s.queues
  else s.queues.map fun (q : Queue) =>
    if (s.group? id).any fun g => g.pktQueue == q.num then { q with gids := s.party (.group id) :: q.gids } else q

def State.dropGroup (s : State) (id : Nat) : State :=
  { s with groups := s.groups.filter fun x => x.id != id, queues := s.goneFrom id }

def State.col (s : State) (n : Nat) : Col := if h : n < 48 then s.cols[n] else Col.reset false

def State.setCol (s : State) (n : Nat) (c : Col) : State :=
  if h : n < 48 then { s with cols := s.cols.set n c h } else s

def State.ag? (s : State) : Agent → Option Group
  | .group id => s.group? id
  | .col n => if n < 48 then some (s.col n).g else none

def State.setAg (s : State) (a : Agent) (g : Group) : State :=
  match a with
  | .group id => s.setGroup { g with id := id }
  | .col n => s.setCol n { s.col n with g := g }

/-- A program counter, always a multiple of 4 (R42). -/
def pcOf (x : W64) : Pc := BitVec.ofNat 57 (x.toNat / 4 * 4)

/-- The width of a group (R21). -/
def Group.width (g : Group) : Nat := g.lanes.length

/-- The width code (R161). -/
def widthCode (w : Nat) : Nat :=
  if w ≤ 4 then 0 else if w ≤ 8 then 1 else if w ≤ 16 then 2 else if w ≤ 32 then 3 else 4

/-- The group number (R156). -/
def Group.gnum (g : Group) : Nat := g.quad * 64 + g.slice0

/-- The slice contexts of a group (R22). -/
def Group.slices (g : Group) : Nat := g.width / 4

/-- The ridge of a core, 0-47, and of a group. -/
def Group.ridge (g : Group) : Nat := g.core / 12

/-- The live-lane mask (R55). -/
def liveMask (w : Nat) : W64 := BitVec.ofNat 64 (2 ^ w - 1)

def Group.live (g : Group) : W64 := liveMask g.width

def isCol : Agent → Bool
  | .col _ => true
  | .group _ => false

/-- The ridge of an agent; col n serves ridge n (R324). -/
def State.ridge (s : State) : Agent → Nat
  | .group id => ((s.group? id).map Group.ridge).getD 0
  | .col n => n

/-- The privilege levels (R307). -/
inductive Priv where
  | user | service | monitor
  deriving DecidableEq, Repr

def Col.priv (c : Col) : Priv := if c.cstat.extractLsb' 8 2 = 2 then .monitor else .service

def State.priv (s : State) : Agent → Priv
  | .group _ => .user
  | .col n => (s.col n).priv

/-- The context whose address space and registers an agent uses: a col's is CCTX (R314). -/
def State.ctxOf (s : State) : Agent → Nat
  | .group id => ((s.group? id).map (·.ctx)).getD 0
  | .col n => (s.col n).cctx.toNat % 2 ^ 16

/-! ### Teams and contexts -/

def State.ctx? (s : State) (c : Nat) : Option Context := s.contexts.find? fun x => x.ctx == c

def State.setCtx (s : State) (c : Context) : State :=
  { s with contexts := s.contexts.map fun x => if x.ctx == c.ctx then c else x }

def State.team? (s : State) (ctx tlin : Nat) : Option Team :=
  s.teams.find? fun t => t.ctx == ctx && t.tlin == tlin && !t.retired

def State.setTeam (s : State) (t : Team) : State :=
  { s with teams := s.teams.map fun x => if x.ctx == t.ctx && x.tlin == t.tlin && !x.retired then t else x }

def State.teamOf (s : State) (g : Group) : Option Team := s.team? g.ctx g.tlin

/-- The resident groups of a team. -/
def State.groupsOf (s : State) (t : Team) : List Group :=
  s.groups.filter fun g => g.ctx == t.ctx && g.tlin == t.tlin

/-- A protected context (R342). -/
def State.protected? (s : State) (c : Nat) : Bool := ((s.ctx? c).map fun x => x.cflags.getLsbD 0).getD false

/-! ### Outstanding register results (R67-R70) -/

def setLane (ls : List Lane) (i : Nat) (f : Lane → Lane) : List Lane :=
  ls.mapIdx fun j l => if j == i then f l else l

def Lane.setV (l : Lane) (r : Nat) (x : W32) : Lane := { l with v := if h : r < 64 then l.v.set r x h else l.v }

def Lane.getV (l : Lane) (r : Nat) : W32 := l.v.getD r 0

def Lane.setQ (l : Lane) (k : Nat) (x : W32) : Lane := { l with q := if h : k < 16 then l.q.set k x h else l.q }

def Group.getS (g : Group) (r : Nat) : W64 := g.sregs.getD r 0

def Group.setS (g : Group) (r : Nat) (x : W64) : Group :=
  { g with sregs := if h : r < 32 then g.sregs.set r x h else g.sregs }

/-- Two writes to one register. -/
def Write.same : Write → Write → Bool
  | .v l r _, .v l' r' _ => l == l' && r == r'
  | .s r _, .s r' _ => r == r'
  | .q l n _, .q l' n' _ => l == l' && n == n'
  | _, _ => false

/-- Registers that are written whole hold no uncorrectable error any more (R424). -/
def Group.mend (g : Group) (ws : List Write) : Group := if g.bad.isEmpty then g else { g with bad := g.bad.filter fun b => !(ws.any (Write.same b)) }

/-- One write of a result reaches its register. The slot that push n reserved now stands at
pushes - 1 - n, and is lost beyond q15 (R60). -/
def Group.land (g : Group) : Write → Group
  | .v l r x => { g with lanes := setLane g.lanes l fun y => y.setV r x }
  | .s r x => g.setS r x
  | .q l n x =>
    if n < g.pushes then { g with lanes := setLane g.lanes l fun y => y.setQ (g.pushes - 1 - n) x } else g

def Group.landAll (g : Group) (ws : List Write) : Group := ws.foldl Group.land g

/-- Earlier results lose the writes that a later result has made, so the later value is final (R68). -/
def Res.without (ws : List Write) (r : Res) : Res :=
  { r with writes := r.writes.filter fun w => !(ws.any (Write.same w)) }

/-- The flags that a result raises in FSTAT: those of all its lanes (R95). -/
def Res.raised (r : Res) : W32 := BitVec.ofNat 32 (r.flags.foldl (fun x p => x ||| p.2) 0)

/-- The k-th outstanding result arrives (R67): its registers are written, its flags are ORed into
FSTAT (R95), and it is outstanding no longer. -/
def Group.arrive (g : Group) (k : Nat) : Group :=
  match g.results[k]? with
  | none => g
  | some r =>
    let g := (g.landAll r.writes).mend r.writes
    { g with fstat := g.fstat ||| r.raised
             results := (g.results.take k).map (Res.without r.writes) ++ g.results.drop (k + 1) }

/-- All outstanding results arrive, in order (R39, R71), but for late ones, which lose what later results write (R68). -/
def Group.drainResults (g : Group) : Group :=
  let x := g.results.foldl (fun (x : Group × List Res) r =>
    if r.late then (x.1, x.2 ++ [r])
    else ({ (x.1.landAll r.writes).mend r.writes with fstat := x.1.fstat ||| r.raised }, x.2.map (Res.without r.writes))) (g, [])
  { x.1 with results := x.2 }

/-- An s register written at once: interlocked results (R67). Earlier results bound for it are
overtaken (R68). -/
def Group.putS (g : Group) (r : Nat) (x : W64) : Group :=
  { (g.setS r x).mend [.s r x] with results := g.results.map (Res.without [.s r x]) }

/-- A queue shift of every lane by n slots of zeros (R60). -/
def Lane.push0 (l : Lane) : Lane := { l with q := Vector.ofFn fun i => if i.val = 0 then 0 else l.q.getD (i.val - 1) 0 }

def Group.pushZeros (g : Group) : Nat → Group
  | 0 => g
  | n + 1 => Group.pushZeros { g with lanes := g.lanes.map Lane.push0, pushes := g.pushes + 1 } n

/-! ### Path counters (R148) -/

/-- The value of a path counter: the operations still counted. -/
def Group.counter (g : Group) (p : Nat) : Nat := (g.ops.filter fun o => o.path == p).length

/-- The counters of the LS class are zero. -/
def Group.lsZero (g : Group) : Bool := g.ops.all fun o => o.path > 4

def Group.allZero (g : Group) : Bool := g.ops.isEmpty

/-- All eight counters, counter k in bits 6k + 5 to 6k (R218). -/
def Group.counters (g : Group) : Nat :=
  (List.range 8).foldl (fun x k => x + min (g.counter k) 63 * 2 ^ (6 * k)) 0

/-- A counter is lowered in issue order: the operations of a path that are done and have no
unfinished operation of the path before them leave the list. -/
def prune : List PathOp → List Nat → List PathOp
  | [], _ => []
  | o :: r, busy =>
    if o.done && !(busy.contains o.path) then prune r busy
    else o :: prune r (if o.done then busy else o.path :: busy)

/-- An operation completes (R148): of an engine path, it is remembered for what the group comes to observe (R150). MSTAT.OOB of
an access that was in flight is ORed in (R159). -/
def Group.complete (g : Group) (op : Nat) : Group :=
  let ops := g.ops.map fun o => if o.op == op then { o with done := true } else o
  let left := prune ops []
  let oob := g.ops.any fun o => o.op == op && !o.done && o.oob != 0
  { g with ops := left, mstat := if oob then g.mstat ||| 1 else g.mstat, past := g.past ++ ops.filter fun o => decide (5 ≤ o.path) && !left.any fun p => p.op == o.op }

/-- The group observes the completion of what has left its counters of some paths (R150). -/
def Group.observe (g : Group) (paths : Nat → Bool) : Group :=
  { g with seen := g.seen ++ (g.past.filter fun o => paths o.path && !g.seen.contains o.op).map (·.op) }

/-- An agent observes the completion of operations (R150). -/
def Group.observeOps (g : Group) (ops : List Nat) : Group := { g with seen := g.seen ++ ops.filter fun o => !g.seen.contains o }

/-- An access of an LS operation has no place yet. -/
def State.opLate (s : State) (op : Nat) : Bool := s.late.any fun w => w.cls == 0 && w.op == op

/-- An operation completes in every group and phase record that counts it (R149). -/
def State.completeOp (s : State) (op : Nat) : State :=
  { s with groups := s.groups.map (Group.complete · op)
           teams := s.teams.map fun t => { t with phases := t.phases.map fun p => { p with grp := p.grp.complete op } } }

/-- An operation issued on a path (R148), with the lanes that are out of bounds. -/
def Group.raise (g : Group) (p op : Nat) (lanes : W64) (oob : W64 := 0) : Group :=
  { g with ops := g.ops ++ [{ path := p, op := op, lanes := lanes, oob := oob }] }

/-! ### Trace records (R383-R393) -/

/-- The value of an event's 16 payload bytes in form G (R386). -/
def formG (ctx gnum root width : Nat) (pc : Nat) (x d : Nat) : List Byte :=
  toLE 2 ctx ++ toLE 1 gnum ++ toLE 1 (root % 32 + width % 8 * 32) ++ toLE 8 (pc % 2 ^ 57 + x % 128 * 2 ^ 57) ++ toLE 4 d

/-- SRC (R384): a class, a ridge 0-47, a core of the ridge and a quadrant. -/
def srcOf (cls ridge core quad : Nat) : Nat :=
  cls * 4096 + ridge / 12 * 1024 + ridge % 12 * 64 + core % 16 * 4 + quad % 4

def State.tenantNum (s : State) (ctx : Nat) : Nat :=
  ((s.trc.ctxten.find? fun p => p.1 == ctx).map fun p => p.2.toNat % 256).getD 0

def State.tenant? (s : State) (n : Nat) : Option Tenant := s.trc.tenants.find? fun t => t.num == n

def State.setTenant (s : State) (t : Tenant) : State :=
  { s with trc := { s.trc with tenants := s.trc.tenants.map fun x => if x.num == t.num then t else x } }

/-- R390: whether a tenant admits a record. -/
def Tenant.admits (t : Tenant) (cls kind tag : Nat) : Bool :=
  t.mode != 0 && t.classes.testBit cls && t.kinds.testBit kind && (tag &&& t.tagm) == t.tagv

/-- A source's buffer for the tenant is full (R392). -/
def Tenant.full (t : Tenant) (src : Nat) : Bool := decide (Config.traceBuffer ≤ (t.buf.filter fun r => r.src == src).length)

/-- A source has no room for a record of the tenant, or holds one (R393). -/
def Tenant.shut (t : Tenant) (src : Nat) : Bool := t.full src || t.pend.any fun r => r.src == src

/-- R393: classes whose sources are never held. -/
def neverHeld (cls : Nat) : Bool := cls == 5 || cls == 8 || cls == 9 || cls == 11

def Losses.add (l : Option Losses) (src seq time : Nat) : Option Losses :=
  match l with
  | none => some { count := 1, src := src, seq := seq, time := time }
  | some l => some { l with count := l.count + 1 }

/-- The next sequence number of a source (R385). -/
def State.nextSeq (s : State) (src : Nat) : BitVec 16 × State :=
  let x := (s.trc.srcs.find? fun y => y.src == src).getD { src := src }
  (x.seq, { s with trc := { s.trc with srcs := { x with seq := x.seq + 1 } :: s.trc.srcs.filter fun y => y.src != src } })

/-- The stall of a source for a tenant, which its next record shows (R383). -/
def State.takeStall (s : State) (src ten : Nat) : Nat × State :=
  match s.trc.srcs.find? fun y => y.src == src with
  | none => (0, s)
  | some x =>
    (((x.stalls.find? fun p => p.1 == ten).map Prod.snd).getD 0,
     { s with trc := { s.trc with srcs := { x with stalls := x.stalls.filter fun p => p.1 != ten } :: s.trc.srcs.filter fun y => y.src != src } })

/-- A record is stamped and enters its source's buffer (R383). -/
def State.enterRec (s : State) (t : Tenant) (r : TracePend) : State :=
  let (stall, s) := s.takeStall r.src t.num
  let flags := bit s.mod.locked * 32768 + (if stall > 4095 then 16384 else 0) + (if t.mode == 2 then 8192 else 0) + min stall 4095
  let b := toLE 8 s.time ++ toLE 2 r.src ++ toLE 2 r.seq ++ toLE 1 r.kind ++ toLE 1 t.num ++ toLE 2 flags ++ r.pay
  s.setTenant { t with buf := t.buf ++ [{ src := r.src, bytes := b, core := r.core, gid := r.gid, num := t.made }], made := t.made + 1 }

/-- A record of a source for a tenant (R383-R393). Where there is no room, a lossy tenant's is dropped, a lossless one's waits at
its source; but sampled records (R399), a col's and those of the classes that are never held are lost. -/
def State.emitTo (s : State) (ten src kind tag : Nat) (pay : List Byte) (core : Nat) (gid : Option Nat) : State :=
  match s.tenant? ten with
  | none => s
  | some t =>
    let cls := src / 4096
    if !t.admits cls kind tag then s
    else
      let (seq, s) := s.nextSeq src
      let r : TracePend := { src := src, seq := seq.toNat, kind := kind, pay := pay, core := core, gid := gid }
      if !t.shut src then s.enterRec t r
      else if t.mode == 1 then s.setTenant { t with drop := Losses.add t.drop src seq.toNat s.time }
      else if neverHeld cls || kind == 0x18 || kind == 0x19 || (decide (cls ≤ 1) && gid.isNone) then
        s.setTenant { t with loss := Losses.add t.loss src seq.toNat s.time }
      else s.setTenant { t with pend := t.pend ++ [r] }

/-- The source of a class that concerns a group (R384). -/
def Group.src (g : Group) (cls : Nat) : Nat := srcOf cls g.ridge (g.core % 12) (if cls == 0 || cls == 2 then g.quad else 0)

/-- A record that concerns a group, by a source of its place (R386); a col's, by the source of the kind's class at its ridge
(R387, R395, assumption 35). -/
def State.traceG (s : State) (a : Agent) (g : Group) (cls kind tag : Nat) (pc : Nat) (x d : Nat) : State :=
  match a with
  | .group id =>
    s.emitTo (s.tenantNum g.ctx) (g.src cls) kind tag
      (formG g.ctx g.gnum g.root (widthCode g.width) pc x d) g.core (some id)
  | .col n =>
    s.emitTo (s.tenantNum (s.ctxOf a)) (srcOf cls n 0 0) kind tag
      (formG (s.ctxOf a) 0 0 0 pc x d) (12 * n) none

/-- A record by the issue unit of a group under its trace tag (R390). -/
def State.traceI (s : State) (a : Agent) (g : Group) (kind x d : Nat) : State :=
  s.traceG a g 0 kind g.trTag.toNat g.pc.toNat x d

/-- A record with a payload of its own, of the col of a ridge (R388). -/
def State.traceCol (s : State) (ctx ridge kind : Nat) (pay : List Byte) : State :=
  s.emitTo (s.tenantNum ctx) (srcOf 5 ridge 0 0) kind 0 pay (12 * ridge) none

/-- R393: a record of a source, kind and tag that a lossless tenant admits and has no room for. -/
def State.blocked (s : State) (ctx src kind tag : Nat) : Bool :=
  match s.tenant? (s.tenantNum ctx) with
  | some t => t.mode == 2 && t.shut src && t.admits (src / 4096) kind tag
  | none => false

/-- A source holds an event of a context (R393). -/
def State.recWaits (s : State) (ctx src : Nat) (mine : TracePend → Bool) : Bool :=
  match s.tenant? (s.tenantNum ctx) with
  | some t => t.pend.any fun r => r.src == src && mine r
  | none => false

/-- A record of a group waits at the source of a class (R393). -/
def State.groupWaits (s : State) (g : Group) (cls : Nat) : Bool := s.recWaits g.ctx (g.src cls) fun r => r.gid == some g.id

/-- A record of an operation waits at its engine (R393): form G has its group and sequence number. -/
def State.opWaits (s : State) (src : Nat) (r : EvRec) : Bool :=
  s.recWaits r.ctx src fun p => leBytes (p.pay.take 3) == r.ctx + 65536 * r.gnum && leBytes ((p.pay.drop 12).take 2) == r.seq % 65536

/-! ### What the host sees (R427) -/

/-- A bit of HEVT is set, and MSI-X vector 0 signals it. -/
def State.hostEvent (s : State) (b : Nat) : State :=
  { s with mod := { s.mod with hevt := s.mod.hevt ||| BitVec.ofNat 64 (2 ^ b), replies := s.mod.replies ++ [(6, [])] } }

/-- One more unit is published as absent in HSTAT. -/
def State.publishAbsent (s : State) : State :=
  let n := min 255 (s.mod.absent + 1)
  ({ s with mod := { s.mod with absent := n, hstat := (s.mod.hstat &&& ~~~(0xFF0000 : W64)) ||| BitVec.ofNat 64 (n * 0x10000) } } : State).hostEvent 2

/-! ### Parking (R316) -/

/-- The park state code (R316). -/
def Park.code : Park → Nat
  | .ready | .room _ | .lossless _ | .mrecv | .idle => 0
  | .fence _ true => 12
  | .marker | .drain _ | .fence _ false | .trflush _ _ | .audsync | .faulting _ => 1
  | .waitc _ _ => 2
  | .sleep _ _ => 3
  | .transl _ => 4
  | .retry _ => 5
  | .trapc _ => 6
  | .fuse _ _ _ _ => 7
  | .barwait _ _ _ => 8
  | .barpay _ _ _ => 9
  | .teambar => 10
  | .fwait _ _ _ => 11
  | .semwait _ | .nwaitn _ => 12
  | .held _ => 13
  | .phase _ _ _ _ _ => 15
  | .exiting => 16

/-- An agent parks (R387 PARK). -/
def State.park (s : State) (a : Agent) (g : Group) (p : Park) : State :=
  let g := { g with park := p, pnext := s.cur.next }
  if p.code = 0 then s.setAg a g else (s.setAg a g).traceI a g 0x12 p.code (g.mask.toNat % 2 ^ 32)

/-- An agent leaves its park state (R387 WAKE). The cycles that it was parked for are free (assumption 10). -/
def State.wake (s : State) (a : Agent) (g : Group) : State :=
  let g' := { g with park := .ready, waited := 0 }
  if g.park.code = 0 then s.setAg a g' else (s.setAg a g').traceI a g' 0x13 g.park.code (Config.choose s.tick 7 % 2 ^ 32)

end Sys2Proof.Machine
end

