-- ==== Sys2Proof/Machine/Space.lean ====
section
/-! DEFINITION. Translation (R119, R123-R129), the storage behind each address space (R113-R117),
poisoned lines (R219, R425), streaming pages (R152), and the reading of code lines (R42-R48). -/

namespace Sys2Proof.Machine

/-! ### Physical addresses -/

/-- The tier of a physical address (R119): 0, 1 or 2; none where nothing answers. -/
def tierOf (pa : Nat) : Option Nat :=
  if pa ≤ 0xBFFFFFFFFF then some 0
  else if 0x10000000000 ≤ pa ∧ pa ≤ 0x2FFFFFFFFFF then some 1
  else if 0x8000000000000 ≤ pa ∧ pa ≤ 0xFFFFFFFFFFFFF then some 2
  else none

/-- Key of byte a of a core's scratchpad, of a die's chip scratchpad, of a col's private memory
(assumption 1). -/
def spadKey (core a : Nat) : Nat := Config.spadBase + core * Config.coreSpad + a
def chipKey (die a : Nat) : Nat := Config.chipBase + die * Config.chipSpad + a
def colKey (n a : Nat) : Nat := Config.colBase + n * Config.colMem + a
def romKey (a : Nat) : Nat := Config.romBase + a

/-! ### Page-table entries (R125) -/

def pteV (e : W64) : Bool := e.getLsbD 0
def pteLeaf (e : W64) : Bool := e.getLsbD 1
def pteR (e : W64) : Bool := e.getLsbD 4
def pteW (e : W64) : Bool := e.getLsbD 5
def pteX (e : W64) : Bool := e.getLsbD 6
def pteU (e : W64) : Bool := e.getLsbD 7
def ptePS (e : W64) : Nat := bitsOf e.toNat 11 10
def ptePfn (e : W64) : Nat := bitsOf e.toNat 51 12 * 4096
def pteA (e : W64) : Bool := e.getLsbD 52
def pteD (e : W64) : Bool := e.getLsbD 53
def pteTier (e : W64) : Nat := bitsOf e.toNat 55 54
def pteCoh (e : W64) : Bool := e.getLsbD 56
def ptePctx (e : W64) : Bool := e.getLsbD 57
def pteGeom (e : W64) : Nat := bitsOf e.toNat 59 58
def pteFmt (e : W64) : Nat := bitsOf e.toNat 63 60

/-- The FMT codes that are not reserved (R125). -/
def fmtOk (f : Nat) : Bool := f == 0 || f == 8 || f == 10 || f == 11 || f == 12 || f == 13 || f == 14

/-- The entry without A and D. -/
def pteAttrs (e : W64) : W64 := e &&& ~~~(0x30000000000000 : W64)

/-- R126: a leaf of a page of the given size that is malformed on its own. -/
def leafBad (e : W64) (size : Nat) : Bool :=
  bitsOf e.toNat 9 8 != 0 || bitsOf e.toNat 3 2 != 0 || pteGeom e == 3 || !fmtOk (pteFmt e) ||
  (pteGeom e != 0 && pteFmt e == 0) || pteTier e == 3 || ptePfn e % size != 0 ||
  (match tierOf (ptePfn e) with
   | some t => t != pteTier e
   | none => false)

/-- What a translation yields: a key and the leaf that was used; a cause of R127; or the privilege
fault of the monitor region (R307). -/
inductive Trans where
  | ok (key : Nat) (pte : W64)
  | fail (cause : Nat)
  | priv
  deriving DecidableEq, Repr

/-- A leaf that a walk found: its page, its entry and where the entry lies. -/
inductive Walk where
  | leaf (size : Nat) (pte : W64) (at_ : Nat)
  | fail (cause : Nat)
  deriving DecidableEq, Repr

/-- From here on, the causes that the model has for an uncorrectable entry that a walk meets (R424): they name its line. -/
def mediaCause : Nat := 16

/-- One level of the walk (R124, R126): level 3 to 0, the table's address; what is uncorrectable among the lines. -/
def walkFrom (m : Memory) (bad : List Nat) (va : Nat) : Nat → Nat → Walk
  | lvl, table =>
    let idx := if lvl = 3 then bitsOf va 56 39 else va / 2 ^ (12 + 9 * lvl) % 512
    let ea := table + 8 * idx
    if tierOf ea = none then .fail 8
    else if bad.contains (ea / 128 * 128) then .fail (mediaCause + ea / 128 * 128)
    else
      let e := BitVec.ofNat 64 (readLE m ea 8)
      if !pteV e then .fail 0
      else if pteLeaf e then
        let size := 2 ^ (12 + 9 * lvl)
        if lvl = 3 then .fail 7
        else if lvl ≠ 0 then (if leafBad e size || ptePS e != 0 then .fail 7 else .leaf size e ea)
        else if ptePS e = 0 then (if leafBad e size then .fail 7 else .leaf size e ea)
        else if ptePS e = 1 then
          let first := table + 8 * (idx / 16 * 16)
          let same := (List.range 16).all fun k => pteAttrs (BitVec.ofNat 64 (readLE m (first + 8 * k) 8)) == pteAttrs e
          if leafBad e 65536 || !same then .fail 7 else .leaf 65536 e ea
        else .fail 7
      else
        match lvl with
        | 0 => .fail 7
        | l + 1 =>
          -- a table lies in the first tier, as its TIER says
          if e.toNat &&& 0xFFF0000000000FFE ≠ 0 || (tierOf (ptePfn e)).any (· != 0) then .fail 7 else walkFrom m bad va l (ptePfn e)

/-- The leaf of an address in a context by a walk from its root (R124, R314). -/
def State.walk (s : State) (ctx va : Nat) : Walk :=
  match s.ctx? ctx with
  | none => .fail 0
  | some c => if ptePfn c.croot % 2 ^ 21 ≠ 0 then .fail 7 else walkFrom s.mem s.poison va 3 (ptePfn c.croot)

/-- What an access does (R127). -/
inductive Acc where
  | read | write | fetch | atomic | prefetch
  deriving DecidableEq, Repr

/-- The checks of a leaf (R127) after R119; none when the access may proceed. -/
def leafCheck (prot user : Bool) (acc : Acc) (e : W64) (pa : Nat) : Option Nat :=
  match tierOf pa with
  | none => some 8
  | some t =>
    if user && !pteU e then some 5
    else if ptePctx e && !prot then some 6
    else if acc ≠ .write && acc ≠ .fetch && !pteR e then some 2
    else if (acc = .write || acc = .atomic) && !pteW e then some 3
    else if acc = .fetch && !pteX e then some 4
    else if acc = .atomic && t == 2 && !pteCoh e then some 9
    else none

/-- A or D set in a leaf (R128). -/
def markLeaf (acc : Acc) (e : W64) : W64 :=
  e ||| (if acc = .write || acc = .atomic then 0x30000000000000 else 0x10000000000000)

/-- The cached translations of an address (R129): of cores and ridges, which may differ until a TLBINV. -/
def State.cached (s : State) (ctx va : Nat) : List TlbEnt :=
  s.tlb.filter fun t => t.ctx == ctx && decide (t.va ≤ va) && decide (va < t.va + t.size)

/-- A translation through the page table of a context (R123-R129). Where cached translations exist,
one of them or a fresh walk serves the access, freely (assumption 15). -/
def State.translate (s : State) (ctx : Nat) (user : Bool) (acc : Acc) (va : Nat) : Trans × State :=
  if va ≥ 2 ^ 57 then (.fail 1, s)
  else
    let fresh := s.walk ctx va
    let w :=
      match s.cached ctx va with
      | [] => fresh
      | t :: r =>
        match (t :: r)[Config.choose s.tick va % (r.length + 2)]? with
        | some t => .leaf t.size t.pte t.at_
        | none => fresh
    match w with
    | .fail c => (.fail c, s)
    | .leaf size e ea =>
      let pa := ptePfn e / size * size + va % size
      match leafCheck (s.protected? ctx) user acc e pa with
      | some c => (.fail c, s)
      | none =>
        let now := BitVec.ofNat 64 (readLE s.mem ea 8)
        let e' := markLeaf acc e
        let s :=
          if acc = .prefetch then s
          else if e' = e then s
          else { s with mem := writeBytes s.mem ea (toLE 8 (markLeaf acc now).toNat) }
        let ent := { ctx := ctx, va := va / size * size, size := size, pte := if acc = .prefetch then e else e', at_ := ea }
        (.ok pa e, { s with tlb := ent :: s.tlb.filter fun t => !(t.ctx == ctx && t.va == ent.va && t.size == size && pteAttrs t.pte == pteAttrs e) })

/-- A leaf for storage that is not paged: coherent, all rights. -/
def plainLeaf : W64 := 0x0100000000000070

/-- A col's access (R307, assumption 7): its private memory lies at the lowest addresses, the boot
col's mask ROM above it; every other address is translated in the context it serves. -/
def State.colTranslate (s : State) (n : Nat) (acc : Acc) (va : Nat) : Trans × State :=
  if va < Config.colMem then
    (if va < Config.monitorRegion && (s.col n).priv != .monitor then .priv else .ok (colKey n va) plainLeaf, s)
  else if n = 0 ∧ Config.romVa ≤ va ∧ va < Config.romVa + Config.romSize then
    (if acc = .fetch ∨ acc = .read then .ok (romKey (va - Config.romVa)) plainLeaf else .fail 3, s)
  else s.translate ((s.col n).cctx.toNat % 2 ^ 16) false acc va

/-- An agent's access to a virtual address. -/
def State.trans (s : State) (a : Agent) (acc : Acc) (va : Nat) : Trans × State :=
  match a with
  | .group _ => s.translate (s.ctxOf a) true acc va
  | .col n => s.colTranslate n acc va

/-! ### Uncorrectable data -/

/-- The poisoned line that a run of keys touches, if any. -/
def State.poisoned (s : State) (key n : Nat) : Option Nat :=
  s.poison.find? fun l => decide (l < key + n) && decide (key < l + 128)

/-- The structure code of a key (R219, R424). -/
def structOf (key : Nat) : Nat :=
  if key < Config.physTop then (match tierOf key with
    | some 1 => 7
    | some _ => 6
    | none => 3) else 2

/-- The structure code of an uncorrectable line: of a cache, while the line was not written back, else of where it lies. -/
def State.structAt (s : State) (l : Nat) : Nat := if s.cacheErr.contains l then 3 else structOf l

/-! ### Streaming pages (R152) -/

/-- The names under which engines, hosts and the network write: no agent's. -/
def engineAgent : Agent := .col 4095
def hostAgent : Agent := .col 4094

/-- The name under which a network operation writes. -/
def netAgent (op : Nat) : Agent := .col (4096 + op)

def isNet : Agent → Bool
  | .col n => decide (4096 ≤ n)
  | .group _ => false

/-- A scope relative to a party contains another (R144): a group's cluster is the cores of its cluster with the
ridge's col, a col's is its ridge; hosts are parties of .sys alone. -/
def Party.within (scope : Nat) (p q : Party) : Bool :=
  if p.who = q.who then true
  else if p.who = hostAgent || q.who = hostAgent then scope == 6
  else if scope ≥ 4 then true
  else if scope ≤ 1 then false
  else
    match p.who, q.who with
    | .group _, .group _ =>
      p.ctx == q.ctx && (if scope = 2 then p.tlin == q.tlin else p.launch == q.launch && p.clu == q.clu && p.ridge == q.ridge)
    | _, _ => scope == 3 && p.ridge == q.ridge

/-- The engine of a class at a core is a party of a scope relative to a party (R144): a core's copy and matrix engines, a
ridge's audit engine, the module's network engine. -/
def Party.hasEngine (scope : Nat) (p : Party) (cls core : Nat) : Bool :=
  if scope ≥ 4 then true
  else if cls = 3 || scope ≤ 1 then false
  else if scope = 3 then (if cls = 4 || isCol p.who then core / 12 == p.ridge else core == p.core || p.cores.contains core)
  else cls != 4 && !isCol p.who && core == p.core

def assocD {β : Type} (l : List (Agent × β)) (a : Agent) (d : β) : β :=
  ((l.find? fun p => p.1 == a).map Prod.snd).getD d

def assocSet {β : Type} (l : List (Agent × β)) (a : Agent) (x : β) : List (Agent × β) :=
  (a, x) :: l.filter fun p => p.1 != a

/-- The oldest version of a streaming byte that an agent may read (R152): its own core's last store, and those that
its fences have made it know. -/
def State.oldestOf (s : State) (a : Agent) (key : Nat) : Nat :=
  let known := assocD s.streams.known a []
  let core := s.coreOf a
  s.streams.hist.foldl (fun (m : Nat) v =>
    if v.addr = key && (v.core == core || decide (v.ver ≤ assocD known v.by_ 0)) then max m v.ver else m) 0

/-- The stores to the aligned 16 bytes of a key that a load finds: those that no byte of theirs may be older than,
and others, freely (assumption 16). A store is found in all of its bytes or in none (R140). -/
def State.found (s : State) (a : Agent) (unit : Nat) : List SVal :=
  let h := s.streams.hist.filter fun v => v.addr / 16 == unit
  let must := fun (n : Nat) => h.any fun v => v.ver == n && s.oldestOf a v.addr == n
  h.filter fun v => must v.ver || Config.choose s.tick (unit * 4096 + v.ver) % 2 == 1

/-- A byte as an agent's load finds it: in the aligned 16 bytes, the last store of those it finds. -/
def State.loadByte (s : State) (a : Agent) (coh : Bool) (key : Nat) : Byte :=
  if coh then readByte s.mem key
  else
    match (s.found a (key / 16)).filter fun v => v.addr == key with
    | [] => readByte s.mem key
    | v :: r => (r.foldl (fun (m : SVal) x => if m.ver ≤ x.ver then x else m) v).val

/-- n bytes as an agent's load finds them. -/
def State.loadBytes (s : State) (a : Agent) (coh : Bool) (key : Nat) : Nat → List Byte
  | 0 => []
  | n + 1 => s.loadByte a coh key :: State.loadBytes s a coh (key + 1) n

/-- What an agent knows of a writer rises. -/
def Streams.know (st : Streams) (a w : Agent) (ver : Nat) : Streams :=
  let kn := assocD st.known a []
  { st with known := assocSet st.known a (assocSet kn w (max ver (assocD kn w 0))) }

/-- The party that the hosts are. -/
def hostParty : Party := { who := hostAgent, core := 0, ridge := 0 }

/-- What an agent learns from the publications that the bytes it reads carry. What a notification of the network
carries it knows without a fence (R377). -/
def State.learn (s : State) (a : Agent) (key n : Nat) : State :=
  let new := (s.streams.tags.filter fun t => decide (key ≤ t.1) && decide (t.1 < key + n)).flatMap Prod.snd
  if new.isEmpty then s
  else
    let st := { s.streams with seen := assocSet s.streams.seen a (new ++ (assocD s.streams.seen a []).filter fun p => !new.contains p) }
    { s with streams := (new.filter fun p => isNet p.writer).foldl (fun st p => st.know a p.writer p.ver) st }

/-- What an agent learns from bytes that it reads; on a streaming page, which of the hosts' stores it has seen (R152). -/
def State.learnAt (s : State) (a : Agent) (coh : Bool) (key n : Nat) : State :=
  if coh then s.learn a key n
  else
    let v := ((List.range n).flatMap fun i => (s.found a ((key + i) / 16)).filter fun v => v.addr == key + i && v.by_ == hostAgent).foldl (fun m v => max m v.ver) 0
    if v = 0 then s
    else { s with streams := { s.streams with seen := assocSet s.streams.seen a ({ party := hostParty, writer := hostAgent, ver := v, scope := 6 } :: assocD s.streams.seen a []) } }

/-- Publications that bytes carry from now on, with what they carried (R152: a later value will do). -/
def Streams.tag (st : Streams) (key n : Nat) (ps : List Pub) : Streams :=
  if ps.isEmpty then st
  else
    let old := fun (k : Nat) => (st.tags.filter fun t => t.1 == k).flatMap Prod.snd
    { st with tags := (List.range n).map (fun i => (key + i, ps ++ (old (key + i)).filter fun p => !ps.contains p)) ++
                st.tags.filter fun t => !(decide (key ≤ t.1) && decide (t.1 < key + n)) }

/-- What R152 notes of bytes stored by an agent. -/
def State.noteStore (s : State) (a : Agent) (coh : Bool) (cs : List (Nat × Byte)) : Streams :=
  let st := s.streams
  if coh then
    let ps := assocD st.pub a []
    if ps.isEmpty then st else cs.foldl (fun st c => st.tag c.1 1 ps) st
  else
    { st with ver := st.ver + 1
              hist := st.hist ++ (cs.map fun c => { addr := c.1, ver := st.ver + 1, by_ := a, core := s.coreOf a, val := c.2 }) ++
                cs.filterMap (fun c =>
                  if st.hist.any fun v => v.addr == c.1 then none
                  else some { addr := c.1, ver := 0, by_ := a, core := s.coreOf a, val := readByte s.mem c.1 }) }

/-- Bytes stored by an agent: memory, and what R152 needs. -/
def State.put (s : State) (a : Agent) (coh : Bool) (key : Nat) (bs : List Byte) : State :=
  { s with mem := writeBytes s.mem key bs, streams := s.noteStore a coh (bs.mapIdx fun i b => (key + i, b)) }

/-- Bytes of one aligned unit stored in one access. -/
def State.putCells (s : State) (a : Agent) (coh : Bool) (cs : List (Nat × Byte)) : State :=
  { s with mem := cs.foldl (fun m c => writeByte m c.1 c.2) s.mem, streams := s.noteStore a coh cs }

/-! ### Accesses without a place (R138, R147, R151) -/

/-- How many bytes an access concerns, from its key. -/
def LateAccess.size (w : LateAccess) : Nat :=
  match w.deed with
  | .write bs => bs.length
  | .cells _ => 16
  | .read n => n
  | .atom n _ _ _ _ => n

def LateAccess.meets (w : LateAccess) (key n : Nat) : Bool := decide (w.key < key + n) && decide (key < w.key + w.size)

/-- An LS access of an agent that has no place yet. -/
def LateAccess.lsOf (w : LateAccess) (a : Agent) : Bool := w.cls == 0 && w.who == a

def State.lateLs (s : State) (a : Agent) : Bool := s.late.any (·.lsOf a)

/-- A fence puts the write before the accesses of a class of a party (R151). -/
def LateAccess.before (w : LateAccess) (p : Party) (cls : Nat) : Bool := w.fences.any fun x => x.2.2 == cls && Party.within x.2.1 x.1 p

/-- The values that the bytes of an access give its register slots (R200, R204). -/
def LateAccess.values (w : LateAccess) (bs : List Byte) : List Write :=
  match w.into with
  | [.s n _] => [.s n (uniWord w.ty bs)]
  | ws => (ws.zip (wordsOfBytes w.ty (bs.length / w.ty.size) bs)).map fun p => match p.1 with
    | .v l n _ => .v l n p.2
    | .q l k _ => .q l k p.2
    | x => x

/-- Values for the result of an operation; when no access of it is left without a place, it may arrive. -/
def Group.landWords (g : Group) (op : Nat) (ws : List Write) (more : Bool) : Group :=
  { g with results := g.results.map fun r =>
      if r.op == some op then { r with late := r.late && more, writes := r.writes.map fun x => (ws.find? (Write.same x)).getD x } else r }

/-- The bytes that an LS access has found reach the result of its instruction. -/
def State.landLate (s : State) (w : LateAccess) (bs : List Byte) : State :=
  match s.ag? w.who with
  | some g => if w.cls = 0 then s.setAg w.who (g.landWords w.op (w.values bs) (s.late.any fun x => x.cls == 0 && x.op == w.op)) else s
  | none => s

/-- An access is made. -/
def State.perform (s : State) (w : LateAccess) : State :=
  match w.deed with
  | .write bs => s.put w.who w.coh w.key bs
  | .cells cs => s.putCells w.who w.coh cs
  | .read n =>
    let bs := s.loadBytes w.who w.coh w.key n
    (s.learnAt w.who w.coh w.key n).landLate w bs
  | .atom n op ty v cmp =>
    let old := readBytes s.mem w.key n
    let s := if w.coh && w.cls == 0 then s.learn w.who w.key n else s
    (s.put w.who w.coh w.key (toLE n (atomNew op ty (leBytes old) v cmp))).landLate w old

/-- An access takes its place: after the engines' writes to its bytes that fences order before it. -/
def State.placeOne (s : State) (w : LateAccess) : State :=
  if w.cls != 0 || s.late.isEmpty then s.perform w
  else
    let p := s.party w.who
    let prior := fun (x : LateAccess) => x.cls != 0 && x.meets w.key w.size && x.before p 0
    ((s.late.filter prior).foldl State.perform { s with late := s.late.filter fun x => !prior x }).perform w

/-- The late accesses that a condition picks take their places, in order. -/
def State.placeIf (s : State) (p : LateAccess → Bool) : State :=
  if s.late.isEmpty then s
  else (s.late.filter p).foldl State.placeOne { s with late := s.late.filter fun w => !p w }

/-- Every late access takes its place. -/
def State.placeAll (s : State) : State := s.placeIf fun _ => true

/-- The agent's LS accesses take their places. -/
def State.placeOwn (s : State) (a : Agent) : State := s.placeIf (·.lsOf a)

/-- Bytes stored by an agent, after the late writes to them that a fence orders before its accesses, or that are its
own. -/
def State.storeBytes (s : State) (a : Agent) (coh : Bool) (key : Nat) (bs : List Byte) : State :=
  if s.late.isEmpty then s.put a coh key bs
  else
    let p := s.party a
    (s.placeIf fun w => w.meets key bs.length && (w.lsOf a || w.before p 0)).put a coh key bs

/-- What an agent's next accesses come after: those of a class, after the writes that fences order before them (R151), where
it reads or an engine is to. -/
def State.obey (s : State) (a : Agent) (cls : Option Nat) : State :=
  if s.late.isEmpty then s
  else
    let p := s.party a
    s.placeIf fun w => cls.any (w.before p)

/-- The agent's LS accesses take their places, and its results find what they read (R139). -/
def State.settleOwn (s : State) (a : Agent) (g : Group) : Group × State :=
  if s.lateLs a then
    let s := s.placeOwn a
    ({ g with results := ((s.ag? a).map (·.results)).getD g.results }, s)
  else (g, s)

/-- An access of an engine operation: at once, or later, its places being unordered (R147). Of one operation, a later access
to the same bytes is final. -/
def State.engineAct (s : State) (w : LateAccess) : State :=
  let s := s.placeIf fun x => x.cls == w.cls && x.op == w.op && x.meets w.key w.size
  if s.lag && s.poison.isEmpty then { s with late := s.late ++ [w] } else s.placeOne w

/-- What an operation writes within aligned units of 16 bytes: one access for each (R147). -/
def unitCells (l : List (Nat × Bool × Byte)) : List (Nat × Bool × List (Nat × Byte)) :=
  ((l.map fun x => x.1 / 16).eraseDups).map fun u =>
    let m := l.filter fun x => x.1 / 16 == u
    (16 * u, m.any (·.2.1), m.map fun x => (x.1, x.2.2))

/-- Writes of an engine operation, unit by unit; the network's name the message. -/
def State.engineWrite (s : State) (cls op core : Nat) (l : List (Nat × Bool × Byte)) (msg : Option (Nat × Nat) := none) : State :=
  (unitCells l).foldl (fun s u =>
    s.engineAct { cls := cls, op := op, who := if cls = 3 then netAgent op else engineAgent, core := core, msg := msg
                  coh := u.2.1, key := u.1, deed := .cells u.2.2 }) s

/-- The aligned 16 bytes that hold a key, as an engine operation reads them: once (R147). -/
def State.unitRead (s : State) (us : List (Nat × List Byte)) (key : Nat) : List (Nat × List Byte) :=
  if us.any fun u => u.1 == key / 16 then us else (key / 16, readBytes s.mem (key / 16 * 16) 16) :: us

/-- A byte of the units read. -/
def unitByte (us : List (Nat × List Byte)) (key : Nat) : Byte :=
  ((us.find? fun u => u.1 == key / 16).bind fun u => u.2[key % 16]?).getD 0

/-- An element of n bytes that an engine operation reads, and the units read by then. -/
def State.elemRead (s : State) (us : List (Nat × List Byte)) (key n : Nat) : Nat × List (Nat × List Byte) :=
  let us := s.unitRead (s.unitRead us key) (key + n - 1)
  (leBytes ((List.range n).map fun i => unitByte us (key + i)), us)

/-- The fence of a first class that is an engine's (R151): what the agent has observed to be complete comes before its
later accesses of the second class, for the parties of the scope, when the engine is one of them. -/
def State.fenceEngine (s : State) (a : Agent) (cls second scope : Nat) : State :=
  if s.late.isEmpty then s
  else
    let seen := ((s.ag? a).map (·.seen)).getD []
    let p := s.party a
    { s with late := s.late.map fun w =>
        if w.cls == cls && seen.contains w.op && p.hasEngine scope w.cls w.core then { w with fences := w.fences ++ [(p, scope, second)] } else w }

/-- What a group remembers of engine operations (R150) is dropped with the last late write of the operation. -/
def State.prunePast (s : State) : State :=
  if s.groups.any fun g => !g.past.isEmpty || !g.seen.isEmpty then
    let live := fun (op : Nat) => s.late.any fun w => w.op == op
    { s with groups := s.groups.map fun g => { g with past := g.past.filter fun o => live o.op, seen := g.seen.filter live } }
  else s

/-- Late accesses that take their places at a point, freely; those of one agent in their order. -/
def State.placeFree (s : State) (at_ : Nat) : State :=
  if s.late.isEmpty then s
  else
    let stays := fun (i : Nat) (w : LateAccess) =>
      if w.cls = 0 then (List.range (i + 1)).any fun j => (s.late[j]?.any fun x => x.cls == 0 && x.who == w.who) && Config.choose s.tick (at_ + j) % 2 == 0
      else Config.choose s.tick (at_ + i) % 2 == 0
    let marks := s.late.mapIdx fun i w => (w, stays i w)
    ((marks.filter fun x => !x.2).map Prod.fst).foldl State.placeOne { s with late := (marks.filter (·.2)).map Prod.fst }

/-- Late accesses that take their places in a step. -/
def State.placeSome (s : State) : State := (s.placeFree 5000).prunePast

/-- Late accesses that take their places before an access of a lane, whose number in the lane is k (R138). -/
def State.placeAmid (s : State) (lane k : Nat) : State := s.placeFree (10000 + 1000 * (64 * lane + k))

/-- Bytes stored by an engine in one place, which R152 publishes to nobody. -/
def State.engineStore (s : State) (coh : Bool) (key : Nat) (bs : List Byte) : State := s.put engineAgent coh key bs

/-- Bytes stored by a host requester: a coherent byte carries what the host wrote before it (R152). -/
def State.hostStore (s : State) (coh : Bool) (key : Nat) (bs : List Byte) : State :=
  let s := s.put hostAgent coh key bs
  if coh && !s.streams.hist.isEmpty then
    { s with streams := s.streams.tag key bs.length [{ party := hostParty, writer := hostAgent, ver := s.streams.ver, scope := 6 }] }
  else s

/-- FENCE HOST to LS at .sys (R152): what the host wrote before a value that the agent has read. -/
def State.fenceHost (s : State) (a : Agent) : State :=
  let v := (assocD s.streams.seen a []).foldl (fun m p => if p.writer = hostAgent then max m p.ver else m) 0
  if v = 0 then s else { s with streams := s.streams.know a hostAgent v }

/-- FENCE LS to LS at a scope (R152): the agent's streaming stores are published, with those of the groups it
continues, and what others have published and it has read becomes the oldest it may read. -/
def State.fenceStreams (s : State) (a : Agent) (scope : Nat) : State :=
  if s.streams.hist.isEmpty then s
  else
    let st := s.streams
    let me := s.party a
    let kn := (assocD st.seen a []).filter fun p => p.writer != hostAgent && Party.within scope me p.party && Party.within p.scope p.party me
    let st := kn.foldl (fun st p => st.know a p.writer p.ver) st
    let mine := (a :: assocD st.kin a []).map fun w => ({ party := me, writer := w, ver := st.ver, scope := scope } : Pub)
    let old := (assocD st.pub a []).filter fun p => p.scope != scope || !(mine.any fun m => m.writer == p.writer)
    { s with streams := { st with pub := assocSet st.pub a (mine ++ old) } }

/-- A group of a split or a fuse continues others (R152): what they have published, read and know. -/
def State.inheritStreams (s : State) (id : Nat) (olds : List Nat) : State :=
  if s.streams.hist.isEmpty then s
  else
    let st := s.streams
    let a := Agent.group id
    let os := olds.map Agent.group
    let merge := fun (l : List (Agent × List Pub)) => assocSet l a (os.flatMap fun o => assocD l o []).eraseDups
    let st := { st with pub := merge st.pub, seen := merge st.seen
                        kin := assocSet st.kin a ((os ++ os.flatMap fun o => assocD st.kin o []).eraseDups.filter (· != a)) }
    { s with streams := os.foldl (fun st o => (assocD st.known o []).foldl (fun st p => st.know a p.1 p.2) st) st }

/-- A group that stands on the part again after a save knows the streaming stores made before, and continues the groups that
left (assumption 16). -/
def State.returnStreams (s : State) (id : Nat) : State :=
  if s.streams.hist.isEmpty then s
  else
    let st := s.streams
    let ws := (st.hist.map (·.by_)).eraseDups
    let gone := fun (w : Agent) => match w with
      | .group i => (s.group? i).isNone
      | .col _ => false
    let st := { st with kin := assocSet st.kin (.group id) (ws.filter gone) }
    { s with streams := ws.foldl (fun st w => st.know (.group id) w st.ver) st }

/-! ### Poison and whole lines (R425) -/

/-- A write by one instruction or operation covering all bytes of lines clears their poison. -/
def State.cleanLines (s : State) (keys : List Nat) : State :=
  if s.poison.isEmpty then s
  else
    let stays := fun (l : Nat) => !((List.range 128).all fun i => keys.contains (l + i))
    { s with poison := s.poison.filter stays, cacheErr := s.cacheErr.filter stays }

/-! ### Code lines (R42-R48) -/

/-- A line of code as its 32 words. -/
def readLine (m : Memory) (key : Nat) : List W32 :=
  (List.range 32).map fun i => BitVec.ofNat 32 (readLE m (key + 4 * i) 4)

def lineWord (ws : List W32) (i : Nat) : W32 := ws.getD i 0

/-- Words of an instruction in the walk of R43. -/
def walkLen (w : W32) : Nat := (lenOf w).getD 1

/-- The walk of R43 from word p: the fuel bounds its steps. -/
def lineWalk (ws : List W32) : Nat → Nat → Bool
  | 0, _ => false
  | n + 1, p =>
    let start := lineWord ws 0
    if p ≤ 31 ∧ start.getLsbD p = true then
      let len := walkLen (lineWord ws p)
      if p + len - 1 > 31 then false
      else if (List.range (len - 1)).any fun k => start.getLsbD (p + 1 + k) then false
      else lineWalk ws n (p + len)
    else (List.range (32 - p)).all fun k => !start.getLsbD (p + k) && lineWord ws (p + k) == 0

/-- R43: the line is well formed. -/
def lineOk (ws : List W32) : Bool :=
  let start := lineWord ws 0
  let target := lineWord ws 1
  start.getLsbD 0 && start.getLsbD 1 && !target.getLsbD 1 && start.getLsbD 2 && lineWalk ws 32 2 &&
  (List.range 30).all fun k => !target.getLsbD (k + 2) || start.getLsbD (k + 2)

/-- R45: the address after an instruction of len words at pc in its line. -/
def nextPc (ws : List W32) (pc : Nat) (len : Nat) : Nat :=
  let p := pc / 4 % 32 + len
  if p ≤ 31 ∧ (lineWord ws 0).getLsbD p = true then pc + 4 * len else pc / 128 * 128 + 136

/-- The owner of an instruction cache: a core, or a col (R48). -/
def State.icOwner (s : State) (a : Agent) : Nat := s.coreOf a

/-- What fetching a line gives. -/
inductive Line where
  | ok (ws : List W32)
  | fail (cause : Nat)
  | priv
  | media (key : Nat)
  deriving DecidableEq, Repr

/-- A line as an agent comes to it (R48): of the instruction cache, or memory's present contents, freely (assumption 14), which
must be free of uncorrectable data (R425). -/
def State.newLine (s : State) (a : Agent) (ctx va key : Nat) : Line × State :=
  let o := s.icOwner a
  let here := fun (l : ILine) => l.owner == o && l.ctx == ctx && l.va == va
  let read := fun (_ : Unit) =>
    match s.poisoned key 128 with
    | some l => (Line.media l, s)
    | none =>
      let ws := readLine s.mem key
      (.ok ws, { s with icache := { owner := o, ctx := ctx, va := va, words := ws } :: s.icache.filter fun l => !here l })
  match s.icache.find? here with
  | some l => if Config.choose s.tick va % 2 = 0 then (.ok l.words, s) else read ()
  | none => read ()

/-- The line that holds an address, fetched for an agent: while it stays in the line, the copy that it has (R48). -/
def State.fetchLine (s : State) (a : Agent) (pc : Nat) : Line × State :=
  let va := pc / 128 * 128
  match s.trans a .fetch va with
  | (.fail c, s) => (.fail c, s)
  | (.priv, s) => (.priv, s)
  | (.ok key _, s) =>
    let ctx := s.ctxOf a
    match (s.ag? a).bind (·.line) with
    | some (c, v, ws) => if c = ctx ∧ v = va then (.ok ws, s) else s.newLine a ctx va key
    | none => s.newLine a ctx va key

end Sys2Proof.Machine
end

