-- ==== Sys2Proof/Machine/Ops.lean ====
section
/-! DEFINITION. The shared operations: event records (R329-R331), taking an exception and returning
from one (R309-R312), translation faults and the merge table (R131-R134), halts (R322, R397), and the
end of an instruction (R45, R67). -/

namespace Sys2Proof.Machine

/-! ### The executing agent -/

/-- A meaning runs for the agent of State.cur. -/
def State.withAg (s : State) (k : Agent → Group → Out State) : Out State :=
  match s.ag? s.cur.agent with
  | none => .fault .noAgent
  | some g => k s.cur.agent g

/-! ### Event records -/

/-- The 64 bytes of a record with its phase bit (R330). -/
def EvRec.bytes (r : EvRec) (ph : Bool) : List Byte :=
  toLE 1 (bit ph) ++ toLE 1 r.code ++ toLE 1 r.cause ++ toLE 1 r.flags ++ toLE 2 r.ctx ++ toLE 1 r.gnum ++ toLE 1 r.root ++
  toLE 1 r.place ++ toLE 2 r.seq ++ toLE 1 r.cls ++ toLE 4 r.merge ++ toLE 8 r.pc.toNat ++ toLE 8 r.lanes.toNat ++
  toLE 8 r.d32.toNat ++ toLE 8 r.d40.toNat ++ toLE 8 r.d48.toNat ++ toLE 8 r.d56.toNat

/-- Where a col's hardware finds a byte of its own address space. -/
def State.colPlace (s : State) (n va : Nat) : Option Nat :=
  if va < Config.colMem then some (colKey n va)
  else
    match (s.translate ((s.col n).cctx.toNat % 2 ^ 16) false .write va).1 with
    | .ok k _ => some k
    | _ => none

/-- The place of a record's code among the 25 counters of a lifetime record of kind 3 (R423). -/
def faultIndex (code : Nat) : Nat := if code < 0x20 then code - 1 else code - 0x20 + 20

/-- A counter of 32 bits that saturates (R423). -/
def satInc (x : W32) : W32 := if x = BitVec.allOnes 32 then x else x + 1

def State.setDie (s : State) (d : Nat) (f : DieCounts → DieCounts) : State :=
  if h : d < 5 then { s with mod := { s.mod with dies := s.mod.dies.set d (f s.mod.dies[d]) h } } else s

def State.countFault (s : State) (die code : Nat) : State :=
  s.setDie die fun c =>
    let i := faultIndex code
    { c with faults := if h : i < 25 then c.faults.set i (satInc c.faults[i]) h else c.faults }

/-- The ring has a slot that CEVR has passed (R329). -/
def Col.ringRoom (c : Col) : Bool := decide (c.evw < c.cevr.toNat + 4096)

/-- A record that the service kernel delivers to its context later (R41, R331). -/
def State.holdEv (s : State) (r : EvRec) : State :=
  match s.ctx? r.ctx with
  | some c => s.setCtx { c with heldEv := c.heldEv ++ [r] }
  | none => s

/-- The records of faults, halts and engines: the service kernel resolves one, or delivers it, freely (R331). -/
def EvRec.offered (r : EvRec) : Bool := decide (r.code ≤ 0x0A) || r.code == 0x0C || (decide (0x11 ≤ r.code) && decide (r.code ≤ 0x14)) || r.code == 0x20

/-- Whether the kernel delivers a record to the context: a misaligned access that it does not emulate (R136) and a threshold
event (R413) always. -/
def EvRec.delivered (r : EvRec) (s : State) : Bool :=
  r.code == 0x21 || (r.offered && !r.mine && (r.code == 0x09 || Config.choose s.tick (61 + s.nextNum) % 2 == 0))

/-- Hardware writes a record into a col's ring (R329), where the service kernel finds it. -/
def State.writeRec (s : State) (n : Nat) (r : EvRec) : Option State :=
  let c := s.col n
  if !c.ringRoom then none
  else
    match s.colPlace n (c.cevb.toNat + c.evw % 4096 * 64) with
    | none => none
    | some k =>
      let s := { s with mem := writeBytes s.mem k (r.bytes (c.evw.testBit 12)) }
      let s := (s.setCol n { c with evw := c.evw + 1 }).countFault (n / 12) r.code
      some (if r.delivered s then s.holdEv r else s)

/-- A record goes to a col (R19): written, or held behind those already held (R329). -/
def State.sendRec (s : State) (n : Nat) (r : EvRec) : State :=
  let c := s.col n
  let hold := s.setCol n { c with held := c.held ++ [r] }
  if c.held.isEmpty then (s.writeRec n r).getD hold else hold

/-- The fields of a record that name a group (R330). -/
def Group.record (g : Group) (code : Nat) : EvRec :=
  { code := code, flags := widthCode g.width + (if g.halted.isSome then 8 else 0), ctx := g.ctx, gnum := g.gnum, root := g.root
    place := g.core % 12 + 16 * g.quad, pc := g.pc.setWidth 64 }

/-- The engine-fault record of an operation of a group (R330). -/
def engineRec (g : Group) (cls seq cause : Nat) (pc d32 d40 : W64) (time : Nat) : EvRec :=
  { g.record 0x20 with cause := cause, seq := seq, cls := cls, pc := pc, d32 := d32, d40 := d40, d56 := BitVec.ofNat 64 time }

/-- What a precise fault reports beside its code (R330, R331). -/
structure FaultInfo where
  code : Nat
  cause : Nat := 0
  lanes : W64 := 0
  d32 : W64 := 0
  d40 : W64 := 0
  d48 : W64 := 0
  pc : Option W64 := none
  /-- the lanes that are unfinished (R131); none for a fault of the whole instruction -/
  unf : Option W64 := none
  /-- the service kernel resolves it by emulation (R136) -/
  mine : Bool := false

/-- A record of an engine of a core is held for a full ring, so that the engine waits (R329): by the path class of its
operations, 0 for the memory engine, whose page faults are their groups'. -/
def State.engineHeld (s : State) (core cls : Nat) : Bool :=
  (s.col (core / 12)).held.any fun r => (r.code == 0x20 || (r.code == 0x0B && cls != 0)) && r.cls == cls && r.place % 16 == core % 12

/-- The record of a parked group is held for a full ring, so that the group stays parked (R329). -/
def State.untold (s : State) (g : Group) : Bool :=
  (s.col g.ridge).held.any fun r => r.code != 0x20 && r.cls == 0 && r.ctx == g.ctx && r.gnum == g.gnum && r.place % 16 == g.core % 12 && !r.flags.testBit 5

def State.recHeld (s : State) (g : Group) (cls : Nat) : Bool := s.engineHeld g.core cls

/-! ### A context's event ring (R331, R332 EVRING) -/

/-- A record written into the ring of a context (R297 with LOGS 6), when it has room there. -/
def State.putEv (s : State) (ctx ring : Nat) (r : EvRec) : Option State :=
  let key := fun (va : Nat) => match (s.translate ctx false .write va).1 with
    | .ok k _ => some k
    | _ => none
  match key ring with
  | none => none
  | some h =>
    let res := readLE s.mem h 4
    let con := readLE s.mem (h + 4) 4
    let logn := readLE s.mem (h + 8) 4
    if logn > 16 || (res + 2 ^ 32 - con) % 2 ^ 32 ≥ 2 ^ logn then none
    else
      match key (ring + 128 + res % 2 ^ logn * 64) with
      | none => none
      | some k =>
        let m := writeBytes s.mem k (r.bytes (res.testBit logn))
        some { s with mem := writeBytes m h (toLE 4 (res + 1)) }

/-- The service kernel delivers a record to the ring of a context, or holds it: behind those held
already, for a hard-saved context (R41), or until the ring can take it. -/
def State.deliver (s : State) (ctx : Nat) (r : EvRec) : State :=
  match s.ctx? ctx with
  | none => s
  | some c =>
    let held := s.setCtx { c with heldEv := c.heldEv ++ [r] }
    if c.evring = 0 || !c.heldEv.isEmpty || c.stop == .stopped then held else (s.putEv ctx c.evring.toNat r).getD held

/-- The oldest held record of a context is delivered, when it can be. -/
def State.deliverHeld (s : State) (c : Context) : State :=
  match c.heldEv with
  | [] => s
  | r :: rs =>
    if c.evring = 0 || c.stop == .stopped then s
    else
      match s.putEv c.ctx c.evring.toNat r with
      | some s => s.setCtx { c with heldEv := rs }
      | none => s

/-! ### Entries of a col (R309-R312) -/

def Col.setPrv (c : Col) (p : Nat) : Col := { c with cstat := (c.cstat &&& ~~~0x300) ||| BitVec.ofNat 32 (p % 4 * 256) }

/-- CSTAT as it reads (R308): EV and MB are views of the event ring and the mailbox. -/
def Col.ev (c : Col) : Bool := decide (c.cevr.toNat < c.evw)
def Col.status (c : Col) : W32 := c.cstat ||| (if c.mailbox.isEmpty then 0 else 0x80) ||| (if c.ev then 0x40 else 0)

def Col.ie (c : Col) : Bool := c.cstat.getLsbD 0

def Col.setPc (c : Col) (pc : Pc) : Col := { c with g := { c.g with pc := pc, park := .ready, mask := 0, redo := none } }

/-- The line at an address, when the address is a branch target of it (R46). -/
def State.target? (s : State) (n : Nat) (pc : Nat) (service : Bool) : Bool × State :=
  match s.fetchLine (.col n) pc with
  | (.ok ws, s) =>
    (lineOk ws && pc % 4 == 0 && (lineWord ws 1).getLsbD (pc / 4 % 32) && (!service || (lineWord ws 1).getLsbD 0) && decide (2 ≤ pc / 4 % 32), s)
  | (_, s) => (false, s)

/-- Entry of the monitor (R312): the saved pc and the code. -/
def State.enterMonitor (s : State) (n : Nat) (mepc : W64) (mcode : Nat) : State :=
  let s := s.placeOwn (.col n)
  let c := s.col n
  let c := { c with g := c.g.drainResults, mepc := mepc, mcode := BitVec.ofNat 64 mcode, msave := c.status.setWidth 64
                    cstat := c.cstat &&& ~~~1 }
  let s := s.setCol n (c.setPrv 2)
  let mv := c.monvec.toNat
  let (ok, s) := if mv < Config.monitorRegion then s.target? n mv false else (false, s)
  let c := s.col n
  if ok then s.setCol n (c.setPc (BitVec.ofNat 57 mv))
  else
    let s := s.setCol n { c with run := .stopped }
    ({ s with mod := { s.mod with hstat := s.mod.hstat ||| 0x1000000 } } : State).publishAbsent

/-- Entry of the handler (R309). -/
def State.enterHandler (s : State) (n : Nat) (pc : W64) (code : Nat) : State :=
  let s := s.placeOwn (.col n)
  let c := s.col n
  let s := s.setCol n { c with g := c.g.drainResults, cepc := pc, cecode := BitVec.ofNat 64 code }
  let cv := c.cvec.toNat
  let (ok, s) := if cv < 2 ^ 57 then s.target? n cv true else (false, s)
  if !ok then s.enterMonitor n pc 0x0F
  else
    let c := s.col n
    let st := (c.cstat &&& ~~~0x31D) ||| (if c.ie then 0x10 else 0) ||| (BitVec.ofNat 32 (bitsOf c.cstat.toNat 9 8 * 4)) ||| 0x100
    s.setCol n ({ c with cstat := st }.setPc (BitVec.ofNat 57 cv))

/-- A precise fault of a col's own instruction (R309, R312). -/
def State.raiseCol (s : State) (n : Nat) (pc : W64) (code : Nat) : State :=
  let c := s.col n
  if c.priv = .monitor then s.enterMonitor n pc code
  else if c.ie then s.enterHandler n pc code
  else s.enterMonitor n c.cepc 0x0F

/-! ### Precise faults -/

/-- R186: results of a group reach their registers; each v register written for fewer lanes than the group has may have been held in
a compressed form, which is not visible, and counts then in the expansion counter of the group's quadrant (assumption 24). -/
def State.expand (s : State) (g : Group) (rs : List Res) : State :=
  let m := (rs.map fun r =>
    let regs := (r.writes.filterMap fun w => match w with
      | .v _ n _ => some n
      | _ => none).eraseDups
    (regs.filter fun n => decide ((r.writes.countP fun w => match w with
      | .v _ k _ => k == n
      | _ => false) < g.width)).length).sum
  if m = 0 then s
  else
    let c := s.col g.ridge
    let i := g.core % 12 * 4 + g.quad
    if h : i < 48 then s.setCol g.ridge { c with regx := c.regx.set i (c.regx[i] + BitVec.ofNat 64 (Config.choose s.tick 300 % (m + 1))) h } else s

/-- The same for the results that arrive when the group stops. -/
def State.expandAll (s : State) (g : Group) : State := s.expand g (g.results.filter fun r => !r.late)

/-- A result of an engine operation that has not completed is outstanding. -/
def Group.late (g : Group) : Bool := g.results.any (·.late)

/-- The group holds until its late results have arrived, and the instruction is then issued again for
the lanes that have not completed (R71: a fault is received only once earlier results are drained). -/
def State.holdLate (s : State) (g : Group) (lanes : Option W64) : State :=
  s.park (.group g.id) { g with redo := lanes } (.drain .results)

/-- The lanes that a fault of a whole group names. -/
def Group.allLanes (g : Group) : W64 := g.redo.getD g.live

/-- A group's own record is written (R329), or there is no slot for it behind those held. -/
def State.tryRec (s : State) (n : Nat) (r : EvRec) : Option State :=
  if (s.col n).held.isEmpty then s.writeRec n r else none

/-- A group on a precise fault (R71, R331): its earlier results arrive, then its record is written to the col of its
ridge, and it enters state 13. -/
def State.faultNow (s : State) (g : Group) (r : EvRec) : State :=
  let s := s.expandAll g
  let g := g.drainResults
  let s := s.setGroup g
  if g.late then s
  else
    match s.tryRec g.ridge r with
    | none => s
    | some s =>
      let a := Agent.group g.id
      let g := { g with park := .held r }
      ((s.setGroup g).traceI a g 0x15 0 (r.code + 256 * r.cause)).traceI a g 0x12 13 (g.mask.toNat % 2 ^ 32)

/-- A group parks on a precise fault, with the lanes that are unfinished (R131). -/
def State.raiseGroup (s : State) (g : Group) (f : FaultInfo) : State :=
  let r : EvRec := { g.record f.code with cause := f.cause, lanes := f.lanes, d32 := f.d32, d40 := f.d40, d48 := f.d48
                                          pc := f.pc.getD (g.pc.setWidth 64), d56 := BitVec.ofNat 64 s.time, mine := f.mine }
  s.faultNow { g with park := .faulting r, mask := f.unf.getD g.allLanes, redo := none, pnext := s.cur.next, entry := false } r

/-- A precise fault of the agent's instruction. -/
def State.raise (s : State) (a : Agent) (g : Group) (f : FaultInfo) : State :=
  match a with
  | .group _ => s.raiseGroup g f
  | .col n =>
    let pc := f.pc.getD (g.pc.setWidth 64)
    if g.late then s.setAg a { g with park := .faulting { code := f.code, pc := pc } } else (s.setAg a g).raiseCol n pc f.code

/-- The faults that wait for late results, or for a slot of the ring. -/
def State.retryFaults (s : State) : State :=
  s.groups.foldl (fun s g => match g.park with
    | .faulting r => s.faultNow g r
    | _ => s) s

/-- The same for a col. -/
def State.retryCol (s : State) (n : Nat) : State :=
  match (s.col n).g.park with
  | .faulting r => if (s.col n).g.late then s else s.raiseCol n r.pc r.code
  | _ => s

/-- The illegal-instruction fault (R82). -/
def State.illegal (s : State) (a : Agent) (g : Group) : State := s.raise a g { code := 0x01, lanes := g.allLanes }

/-- The privilege fault (R47, R80, R318). -/
def State.privilege (s : State) (a : Agent) (g : Group) (reg : W64 := 0) : State :=
  s.raise a g { code := 0x02, lanes := g.allLanes, d32 := reg }

/-- The bounds fault (R118): the failing lanes, the operand, and the unfinished lanes where they are not all. -/
def State.bounds (s : State) (a : Agent) (g : Group) (lanes d32 : W64) (unf : Option W64 := none) : State :=
  s.raise a g { code := 0x08, lanes := lanes, d32 := d32, unf := unf }

/-- The misalignment fault (R136): the failing lanes and the lowest failing address; whether the kernel emulates. -/
def State.misaligned (s : State) (a : Agent) (g : Group) (lanes d32 : W64) (unf : Option W64 := none) (mine : Bool := false) : State :=
  s.raise a g { code := 0x09, lanes := lanes, d32 := d32, unf := unf, mine := mine }

/-- The system-register fault (R318). -/
def State.sysFault (s : State) (a : Agent) (g : Group) (d32 : W64) : State :=
  s.raise a g { code := 0x0E, lanes := g.allLanes, d32 := d32 }

/-! ### Translation faults (R131, R132) -/

/-- The merge table after a fault on a page: the entry's number, none when the die's table is full,
and what the record of R330 is marked with when one is due: joining or not. -/
def State.joinMerge (s : State) (die ctx va cause ridge : Nat) (gid : Option Nat) : Option Nat × Option Bool × State :=
  let page := va / 4096
  match s.merges.find? fun m => m.ctx == ctx && m.page == page with
  | some m =>
    let told := m.ridges.contains ridge
    let m' := { m with ridges := if told then m.ridges else ridge :: m.ridges
                       groups := m.groups ++ gid.toList.filter fun i => !m.groups.contains i }
    (some m.num, if told then none else some true, { s with merges := s.merges.map fun x => if x.num == m.num then m' else x })
  | none =>
    match (List.range 1024).find? fun i => !(s.merges.any fun m => m.num == die * 1024 + i) with
    | none => (none, none, s)
    | some i =>
      let m : Merge := { num := die * 1024 + i, ctx := ctx, page := page, cause := cause, ridges := [ridge], groups := gid.toList }
      (some m.num, some false, { s with merges := s.merges ++ [m] })

/-- A group parks on translation faults with its unfinished lanes: state 4, or 5 when a page finds no
entry (R131, R132). Each fault is a virtual address and a cause. -/
def State.parkTrans (s : State) (g : Group) (lanes : W64) (faults : List (Nat × Nat)) (tag : Nat) : State :=
  if g.late then s.holdLate g (some lanes) else
  let s := s.expandAll g
  let g := g.drainResults
  let a := Agent.group g.id
  let (es, full, s) := faults.foldl (fun (x : List Nat × Bool × State) f =>
    let (n, recd, s) := x.2.2.joinMerge (g.core / 144) g.ctx f.1 f.2 g.ridge (some g.id)
    match n with
    | none => (x.1, true, s)
    | some n =>
      let s := match recd with
        | none => s
        | some joins =>
          s.sendRec g.ridge { g.record 0x0B with
            cause := f.2, flags := widthCode g.width + (if joins then 16 else 0), merge := n, lanes := lanes
            d32 := BitVec.ofNat 64 f.1, d56 := BitVec.ofNat 64 s.time }
      (if x.1.contains n then x.1 else x.1 ++ [n], x.2.1, s.traceG a g 1 0x20 tag g.pc.toNat f.2 (n % 4096 + f.1 / 4096 % 2 ^ 20 * 4096)))
    ([], false, s)
  let p := if full then Park.retry false else .transl es
  let g := { g with park := p, mask := lanes, redo := none, pnext := s.cur.next, accTag := some tag, faultVa := (faults.headD (0, 0)).1 }
  (s.setGroup g).traceI a g 0x12 p.code (lanes.toNat % 2 ^ 32)

/-- Translation faults of an agent's instruction: a col's enter its handler (R309). An uncorrectable entry is a machine check (R424). -/
def State.transFault (s : State) (a : Agent) (g : Group) (lanes : W64) (faults : List (Nat × Nat)) (tag : Option Nat := none) : State :=
  match faults.find? fun f => decide (mediaCause ≤ f.2), a with
  | some f, _ =>
    let l := f.2 - mediaCause
    s.raise a g { code := 0x0C, lanes := lanes, d32 := BitVec.ofNat 64 l, d40 := BitVec.ofNat 64 (s.structAt l), unf := some lanes }
  | none, .group _ => s.parkTrans g lanes faults (tag.getD g.trTag.toNat)
  | none, .col n => (s.setAg a g).raiseCol n (g.pc.setWidth 64) 0x0B

/-- What a group does at the end of a merge entry that it waits for: it replays, or waits in state 13. A group in
translation retry replays at the end of any entry. -/
def State.leaveMerge (s : State) (m : Merge) (lost : Bool) (g : Group) : State :=
  let a := Agent.group g.id
  let r : EvRec := { g.record 0x0B with cause := m.cause, lanes := g.mask, merge := m.num, d32 := BitVec.ofNat 64 (m.page * 4096) }
  let held := fun (_ : Unit) =>
    let g := { g with park := .held r }
    ((s.setGroup g).traceI a g 0x15 0 (r.code + 256 * r.cause)).traceI a g 0x12 13 (g.mask.toNat % 2 ^ 32)
  match g.park with
  | .transl es => if !es.contains m.num then s else if lost then held () else s.setGroup { g with park := .transl (es.filter (· != m.num)) }
  | .retry _ => if lost && m.groups.contains g.id then held () else s.setGroup { g with park := .retry true }
  | _ => s

/-- The end of a merge entry (R132, R314). -/
def State.endMerge (s : State) (num : Nat) (lost : Bool) : State :=
  match s.merges.find? fun m => m.num == num with
  | none => s
  | some m => s.groups.foldl (fun s g => s.leaveMerge m lost g) { s with merges := s.merges.filter fun m => m.num != num }

/-! ### The end of an instruction -/

/-- The instruction carries the switch marker and results are outstanding (R67). -/
def Group.marked (g : Group) (sw : Bool) : Bool := sw && !g.results.isEmpty

/-- A group after its instruction: at the next one (R45), parked where the switch marker says so (R67). -/
def Group.ended (g : Group) (sw : Bool) (pc : Pc) : Group :=
  { g with pc := pc, park := if g.marked sw then .marker else .ready, redo := none, mask := 0, parkOp := none
           reserved := 0, srHeld := none, stage := 0, emul := false, accTag := none }

/-- The instruction is complete, with its PARK record where it parks (R387). A fault whose instruction was issued
again for some of its lanes goes on for the others (R321), with the SR counter's value of the first issue (R100). -/
def State.finishAt (s : State) (a : Agent) (g : Group) (sw : Bool) (pc : Pc) : State :=
  match g.rest with
  | some (m, r, n) => s.setAg a { g with park := .held r, mask := m, redo := none, rest := none, stage := 0, reserved := g.pushes - n }
  | none =>
    let t := s.setAg a (g.ended sw pc)
    if g.marked sw then t.traceI a g 0x12 1 0 else t

def State.finish (s : State) (a : Agent) (g : Group) (sw : Bool) : State := s.finishAt a g sw s.cur.next

/-- A parked instruction completes: its agent continues at the address after it. -/
def State.finishParked (s : State) (a : Agent) (g : Group) : State :=
  let s' := s.wake a g
  s'.finishAt a { g with park := .ready, waited := 0 } g.psw g.pnext

/-- A group halts after its instruction (R322, R398, R401), with its record. -/
def State.halt (s : State) (g : Group) (h : Halt) (x d : Nat) (r : EvRec) : State :=
  let s := s.expandAll g
  let dg := g.drainResults
  let a := Agent.group g.id
  let s := s.setGroup dg
  -- a wait for results at a switch marker is over
  let (dg, s) := if g.park == .marker && dg.results.isEmpty then ({ dg with park := .ready }, s.wake a dg) else (dg, s)
  let g := { dg with halted := some h, park := if dg.park == .marker then .marker else .ready }
  let s := (s.setGroup g).traceI a g 0x1A x d
  s.sendRec g.ridge { r with flags := r.flags ||| 8, d56 := BitVec.ofNat 64 s.time }

/-- A result outstanding (R67): its writes, the flags it raises and the operation it completes with. -/
def Group.post (g : Group) (ws : List Write) (flags : List (Nat × Nat) := []) (op : Option Nat := none) : Group :=
  { g with results := g.results ++ [{ writes := ws, flags := flags, op := op }] }

/-- A late result of an operation (R67): its registers; no read finds it before the operation has produced it. -/
def Group.postLate (g : Group) (ws : List Write) (op : Nat) : Group :=
  { g with results := g.results ++ [{ writes := ws, op := some op, late := true }] }

/-- An s-register result that is outstanding (R67, R192); 0x70 discards it. -/
def Group.postS (g : Group) (d : Spec) (x : W64) (op : Option Nat := none) : Group :=
  match d with
  | .s n => g.post [.s n.val x] [] op
  | _ => g

/-- An s-register result that is interlocked (R67). -/
def Group.putD (g : Group) (d : Spec) (x : W64) : Group :=
  match d with
  | .s n => g.putS n.val x
  | _ => g

/-- A fresh number. -/
def State.fresh (s : State) : Nat × State := (s.nextNum, { s with nextNum := s.nextNum + 1 })

/-- The agent parks until a path counter has room (R148). -/
def State.parkRoom (s : State) (a : Agent) (g : Group) (p : Nat) : State := s.park a g (.room p)

/-- An operation that an instruction issued has produced its results: the values of its late result, which arrives
as any other from now on. -/
def Group.produce (g : Group) (op : Nat) (val : Write → Write) (flags : List (Nat × Nat) := []) : Group :=
  { g with results := g.results.map fun r =>
      if r.op == some op && r.late then { r with writes := r.writes.map val, flags := flags, late := false } else r }

/-- The wakes that follow from counters and results: the switch marker (R67), WAITC (R217) and the
room of a counter (R148). -/
def State.settle (s : State) (a : Agent) : State :=
  match s.ag? a with
  | none => s
  | some g =>
    match g.park with
    | .marker => if g.results.isEmpty then s.wake a g else s
    | .room p => if g.counter p ≤ 62 then s.wake a { g with noBreak := true } else s
    | .waitc p t => if g.counter p ≤ t then s.finishParked a (g.observe (· == p)) else s
    | _ => s

/-- An operation completes everywhere, and the groups that waited for it are released. -/
def State.completeAll (s : State) (op : Nat) : State :=
  let s := s.completeOp op
  s.groups.foldl (fun s g => s.settle (.group g.id)) s

end Sys2Proof.Machine
end

