-- ==== Sys2Proof/Machine/Operands.lean ====
section
/-! DEFINITION. Operands (R53-R61), unchecked reads (R67-R70), the fields of GMODE (R65), and results. -/

namespace Sys2Proof.Machine

/-! ### GMODE (R65) -/

def gmTy (m : W32) : Ty := Ty.ofCode (bitsOf m.toNat 3 0)
def gmRndBits (m : W32) : Nat := bitsOf m.toNat 6 4
def gmGuard (m : W32) : Fin 32 := Fin.ofNat 32 (bitsOf m.toNat 11 7)
def gmInv (m : W32) : Bool := m.getLsbD 12
def gmStrict (m : W32) : Bool := m.getLsbD 13
def gmFtz (m : W32) : Bool := m.getLsbD 14
def gmSat (m : W32) : Bool := m.getLsbD 15
def gmFexc (m : W32) : Bool := m.getLsbD 16

def gmRnd (m : W32) : Rnd := (Rnd.ofBits (BitVec.ofNat 3 (gmRndBits m))).getD .rne

/-- The rounding mode of an instruction (R63). -/
def modeOf (f : LF) (g : Group) : Rnd := if f.rnd = .md then gmRnd g.gmode else f.rnd

/-- R53: the long form that a short form stands for, for an instruction that takes a type or not, and
rounds or not. -/
def longOf (f : SF) (g : Group) (typed rounds : Bool) : LF :=
  { sw := f.sw, lit := none, dst := f.dst, sa := f.sa, ext := 0, sb := f.sb, sc := .v 0
    guard := if f.g then { inv := gmInv g.gmode, idx := gmGuard g.gmode } else { inv := false, idx := 0 }
    ty := if typed then gmTy g.gmode else .i32, rnd := if rounds then .md else .rne, mod := 0 }

/-! ### Unchecked reads (R68) -/

/-- A v register of a lane as a read finds it: the outstanding results chosen by the bits of m have
reached it, but for late ones, whose values do not exist yet. -/
def overlayV : List Res → Nat → Nat → Nat → W32 → W32
  | [], _, _, _, x => x
  | r :: rs, m, l, n, x =>
    overlayV rs (m / 2) l n <|
      if r.late then x else (r.writes.foldl (fun x w => match w with
        | .v l' n' y => if l' = l ∧ n' = n ∧ m % 2 = 1 then y else x
        | _ => x) x)

def overlayS : List Res → Nat → Nat → W64 → W64
  | [], _, _, x => x
  | r :: rs, m, n, x =>
    overlayS rs (m / 2) n <|
      if r.late then x else (r.writes.foldl (fun x w => match w with
        | .s n' y => if n' = n ∧ m % 2 = 1 then y else x
        | _ => x) x)

/-- The entry of push p of a lane's queue (R69). -/
def overlayQ : List Res → Nat → Nat → Nat → W32 → W32
  | [], _, _, _, x => x
  | r :: rs, m, l, p, x =>
    overlayQ rs (m / 2) l p <|
      if r.late then x else (r.writes.foldl (fun x w => match w with
        | .q l' p' y => if l' = l ∧ p' = p ∧ m % 2 = 1 then y else x
        | _ => x) x)

/-- A reader: the group, the step's tick and the team index of its team, 0 for a col (R55). -/
structure Rd where
  g : Group
  tick : Nat
  team : Nat

def State.rd (s : State) (g : Group) : Rd :=
  { g := g, tick := s.tick, team := if isCol s.cur.agent then 0 else ((s.teamOf g).map (·.idx)).getD 0 }

/-- Which outstanding results a read at a position finds (R68): free, and 0 when there are none. -/
def Rd.pick (r : Rd) (pos : Nat) : Nat := if r.g.results.isEmpty then 0 else Config.choose r.tick pos

def Group.laneAt (g : Group) (i : Nat) : Lane := g.lanes.getD i Lane.zero

/-- Register vn of a lane; pos names the operand. -/
def Rd.vreg (r : Rd) (pos lane n : Nat) : W32 :=
  overlayV r.g.results (r.pick (pos * 64 + lane)) lane n ((r.g.laneAt lane).getV n)

/-- Entry k of a lane's queue: the result of the push k pushes before, where the group has made it. -/
def Rd.qreg (r : Rd) (pos lane k : Nat) : W32 :=
  let x := (r.g.laneAt lane).q.getD k 0
  if k < r.g.pushes then overlayQ r.g.results (r.pick (pos * 64 + lane)) lane (r.g.pushes - 1 - k) x else x

/-- An s register, the same for all lanes (R68). -/
def Rd.sreg (r : Rd) (pos n : Nat) : W64 := overlayS r.g.results (r.pick (pos * 64)) n (r.g.getS n)

/-! ### Constants and literals (R59) -/

def constNat : Spec → Int
  | .one => 1 | .two => 2 | .four => 4 | .eight => 8 | .neg1 => -1 | _ => 0

def constFV : Spec → FV
  | .half => FV.ofInt 1 (-1)
  | .oneF => FV.ofInt 1 0
  | x => FV.ofInt (constNat x) 0

/-- A constant specifier in a type, as a register slot (R59). -/
def constSlot (t : Ty) (x : Spec) : Nat :=
  if t.isInt then slotOf t (constNat x)
  else if t = .x32 then wrapTo 32 (constNat x)
  else (roundTo .rne 0 t false false (constFV x)).1

/-- A binary32 literal widened to f64 (R59). -/
def widen64 (l : Nat) : Nat :=
  match fvOf .f32 l with
  | .nan _ => l / 2 ^ 31 * 2 ^ 63 + 0x7FF * 2 ^ 52 + l % 2 ^ 23 * 2 ^ 29
  | v => (roundTo .rne 0 .f64 false false v).1

/-- The literal in a type, as a register slot (R59). -/
def litSlot (t : Ty) (l : W32) : Nat :=
  if t.isInt then slotOf t (if t.signed then signed 32 l.toNat else (l.toNat : Int))
  else if t = .f64 then widen64 l.toNat
  else l.toNat

/-! ### Sources -/

/-- A uniform specifier's 64-bit value (R57, R168): constants and LIT as i64. -/
def Rd.uni (r : Rd) (pos : Nat) (lit : Option W32) : Spec → W64
  | .s n => r.sreg pos n.val
  | .width => BitVec.ofNat 64 r.g.width
  | .live => r.g.live
  | .root => BitVec.ofNat 64 r.g.root
  | .team => BitVec.ofNat 64 r.team
  | .lit => (lit.getD 0).signExtend 64
  | .zero => 0
  | x => BitVec.ofInt 64 (constNat x)

/-- A source of a lane in a type: the register slot (R57-R59), 32 bits, or 64 for a wide type. -/
def Rd.src (r : Rd) (pos : Nat) (lit : Option W32) (t : Ty) (x : Spec) (lane : Nat) : Nat :=
  let cut := fun (v : Nat) => if t.wide then v else v % 2 ^ 32
  match x with
  | .v n =>
    if t.wide then (r.vreg pos lane n.val).toNat + (r.vreg (pos + 16) lane (n.val + 1)).toNat * 2 ^ 32
    else (r.vreg pos lane n.val).toNat
  | .q k =>
    if t.wide then (r.qreg (pos + 16) lane (k.val + 1)).toNat + (r.qreg pos lane k.val).toNat * 2 ^ 32
    else (r.qreg pos lane k.val).toNat
  | .lane => lane
  | .home => r.g.home + lane
  | .slice => lane / 4
  | .lit => litSlot t (lit.getD 0)
  | .s _ | .zero | .width | .live | .root | .team => cut (r.uni pos lit x).toNat
  | x => constSlot t x

/-- k consecutive registers of a lane. -/
def Rd.run (r : Rd) (pos lane n k : Nat) : List W32 := (List.range k).map fun j => r.vreg (pos + 16 * (j + 1)) lane (n + j)

/-! ### Hazards (R70) and the active set (R61) -/

/-- A write that a read of k slots of a specifier by the given lanes would meet. -/
def Write.hits (g : Group) (lanes : W64) (k : Nat) (x : Spec) : Write → Bool
  | .v l n _ => match x with
    | .v m => lanes.getLsbD l && decide (m.val ≤ n) && decide (n < m.val + k)
    | _ => false
  | .s n _ => x == .s (Fin.ofNat 32 n)
  | .q l p _ => match x with
    | .q m => lanes.getLsbD l && decide (g.pushes ≤ p + 1 + m.val + (k - 1)) && decide (p + 1 + m.val ≤ g.pushes)
    | _ => false

/-- An unchecked read of one of the sources, each with its number of slots. -/
def Group.unchecked (g : Group) (lanes : W64) (srcs : List (Spec × Nat)) : Bool :=
  g.results.any fun r => r.writes.any fun w => srcs.any fun x => Write.hits g lanes x.2 x.1 w

/-- The guard's s register as a source. -/
def guardSrc (f : LF) : List (Spec × Nat) := if f.guard.idx.val = 0 then [] else [(.s f.guard.idx, 1)]

/-- R70: the instruction reads an outstanding result under STRICT. -/
def hazardOf (f : LF) (g : Group) (lanes : W64) (srcs : List (Spec × Nat)) : Bool :=
  gmStrict g.gmode && g.unchecked lanes (guardSrc f ++ srcs)

/-- The lanes that the guard selects (R61). -/
def guarded (f : LF) (r : Rd) : W64 :=
  if f.guard.idx.val = 0 then r.g.live
  else
    let m := r.sreg 7 f.guard.idx.val
    (if f.guard.inv then ~~~m else m) &&& r.g.live

/-- The active set: the guarded lanes, or those of them for which the instruction is issued again. -/
def activeOf (f : LF) (r : Rd) : W64 :=
  match r.g.redo with
  | none => guarded f r
  | some m => guarded f r &&& m

/-- The active lanes in ascending order. -/
def lanesOf (w : Nat) (m : W64) : List Nat := (List.range w).filter fun i => m.getLsbD i

def maskOf (ls : List Nat) : W64 := ls.foldl (fun m i => m ||| (1 <<< i : W64)) 0

/-- The instruction reads a register that holds an uncorrectable error (R424). -/
def spoiledOf (f : LF) (g : Group) (lanes : W64) (srcs : List (Spec × Nat)) : Bool :=
  g.bad.any fun w => (guardSrc f ++ srcs).any fun x => Write.hits g lanes x.2 x.1 w

/-- The machine check of an instruction that reads an uncorrectable register (R219, R424). -/
def State.regFault (s : State) (a : Agent) (g : Group) : State := s.raise a g { code := 0x0C, lanes := g.allLanes, d40 := 1 }

/-- The hazard fault (R70). -/
def State.hazardFault (s : State) (a : Agent) (g : Group) : State := s.raise a g { code := 0x05, lanes := g.allLanes }

/-! ### Results -/

/-- The writes of a vector result: per lane, its words, to a run of registers, to the slots of a
push whose first has the given number, or nowhere (R56, R60). -/
def vWrites (d : Spec) (push : Nat) (vals : List (Nat × List W32)) : List Write :=
  vals.flatMap fun p =>
    match d with
    | .v n => p.2.mapIdx fun j x => .v p.1 (n.val + j) x
    | .q _ => p.2.mapIdx fun j x => .q p.1 (push + j) x
    | _ => []

def isPush : Spec → Bool
  | .q _ => true
  | _ => false

/-- A vector result becomes outstanding (R67); a push shifts the queue of every lane by k slots at
once (R60), unless its slots were reserved by an earlier issue of the instruction. -/
def Group.postV (g : Group) (d : Spec) (k : Nat) (vals : List (Nat × List W32)) (flags : List (Nat × Nat) := []) (op : Option Nat := none) : Group :=
  let again := decide (0 < g.reserved)
  let push := if again then g.pushes - k else g.pushes
  let g := if isPush d && !again then g.pushZeros k else g
  g.post (vWrites d push vals) flags op

/-- R95 and R96: the kinds of an enabled float exception. -/
def fexcKinds (flags : Nat) : Nat := flags % 8

end Sys2Proof.Machine
end

