-- ==== Sys2Proof/Machine/Fetch.lean ====
section
/-! DEFINITION. What happens before an instruction executes (R42-R49, R82, R397, R431): breakpoints, the
line's fetch and its faults, and the decoding of the instruction; and how an instruction is placed
where an agent fetches its next one. -/

namespace Sys2Proof.Machine

/-- What fetching for an agent gives: an instruction to execute, or a state in which the agent has
taken a fault, halted or is held. -/
inductive Fetched where
  | stop (s : State)
  | run (i : Instr) (s : State)

def State.debug? (s : State) (core : Nat) : Option Debug := ((s.trc.debug).find? fun p => p.1 == core).map Prod.snd

/-- The enabled PC breakpoint at a group's instruction (R397). -/
def State.breakAt (s : State) (g : Group) : Option Nat :=
  match s.debug? g.core with
  | none => none
  | some d =>
    if g.noBreak || d.dctl.toNat % 2 ^ 16 != g.ctx then none
    else (List.range 4).find? fun i =>
      let b := (d.pcbrk.getD i 0).toNat
      b % 2 == 1 && bitsOf b 56 2 == g.pc.toNat / 4

/-- Whether an instruction comes after the agent's own LS accesses that wait for places, and the class of what it reads, or of
the operation that it starts (R139, R146, R151). Loads, stores and atomics wait behind them (R138); a split or a fuse comes
after them, which its new groups continue. -/
def accessOf : Instr → Bool × Option Nat
  | .ld _ | .lds _ | .ldc _ | .ldk _ | .ldp _ | .atom _ | .atoms _ | .atomc _ => (false, some 0)
  | .fwait _ | .ffill _ | .fclr _ | .semsig _ | .semwait _ | .rngres _ | .rngpub _ | .nwaitn _ | .audrd _ | .saveg _ | .loadg _ => (true, some 0)
  | .split _ | .splitm _ | .fuse _ | .phase _ | .trapc _ | .brk _ | .audclr _ => (true, none)
  | .cpy _ | .cpyg _ | .cpys _ => (false, some 1)
  | .ldf _ | .mconv _ | .mdrains _ => (false, some 2)
  | .nput _ | .nget _ | .nputi _ | .nputa _ | .natom _ | .nwopen _ | .nwrev _ => (false, some 3)
  | _ => (false, none)

/-- The context's groups may issue: no hard stop is in progress (R317). -/
def State.runs (s : State) (ctx : Nat) : Bool :=
  match s.ctx? ctx with
  | none => false
  | some c => c.stop != .hard && c.stop != .stopped

/-- The instruction at a group's PC as it stands in memory: GRP and FN (or the short opcode), and its fields. -/
structure Peek where
  short : Bool
  grp : Nat
  fn : Nat
  f : LF
  i : Instr

def State.peek (s : State) (g : Group) : Option Peek :=
  match (s.fetchLine (.group g.id) g.pc.toNat).1 with
  | .ok ws =>
    let p := g.pc.toNat / 4 % 32
    let w := lineWord ws p
    match decodeWords (ws.drop p) with
    | .error _ => none
    | .ok i =>
      if lenOf w = some 1 then
        some { short := true, grp := opc7Of w, fn := 0, f := longOf (SF.ofWord w) g true false, i := i }
      else
        (LF.ofWords w (lineWord ws (p + 1)) (if lenOf w = some 3 then some (lineWord ws (p + 2)) else none)).map fun f =>
          { short := false, grp := grpOf w, fn := fnOf w, f := f, i := i }
  | _ => none

/-- The next instruction is one of the matrix unit: of group 6, or LDF. -/
def Peek.matrix (p : Peek) : Bool := !p.short && (p.grp == 6 || (p.grp == 5 && p.fn == 2))

/-- The operations that a quadrant's matrix unit has accepted (R252). -/
def State.quadQueue (s : State) (core quad : Nat) : List MtxOp := s.mtx.filter fun m => m.core == core && m.quad == quad

/-- The tile that an MDRAIN names. -/
def Peek.drains (p : Peek) : Option Nat := if !p.short && p.grp == 6 && p.fn == 4 then some p.f.tile else none

/-- An MDRAIN of a tile waits to issue: an error stands in the tile, and operations before it are under way, so that its fault
cannot be precise yet (R271). -/
def State.drainWaits (s : State) (g : Group) (t : Nat) : Bool :=
  (s.mtx.any fun m => m.ctx == g.ctx && m.tlin == g.tlin && m.core == g.core && m.quad == g.quad && m.tile == some t) &&
  ((s.teamOf g).any fun x => x.tiles.any fun y => y.quad == g.quad && y.num == t && (y.err || y.bad))

/-- An agent can issue its next instruction (R35): resident or running, not parked, not halted, and not at a matrix
instruction while the matrix unit is full (R252), or an MDRAIN that has to wait. -/
def State.canIssue (s : State) (a : Agent) (g : Group) : Bool :=
  match a with
  | .group _ =>
    g.park == .ready && g.halted.isNone && s.runs g.ctx && !s.groupWaits g 0 &&
    !(decide (16 ≤ (s.quadQueue g.core g.quad).length) && (s.peek g).any Peek.matrix) &&
    !((s.peek g).any fun p => p.drains.any (s.drainWaits g))
  | .col n => (s.col n).run == .running && g.park == .ready

/-- What an issue gives, unless its issue unit has no room for a record of a lossless tenant that it creates: then the
instruction has not issued, and its group is held (R393). -/
def State.orHold (s : State) (a : Agent) (g : Group) (o : Out State) : Out State :=
  match a, o with
  | .group _, .next t => if t.groupWaits g 0 then .next (s.setAg a { g with park := .lossless s.time }) else .next t
  | _, o => o

/-- Fetching and decoding for an agent that is to issue. Where several of the checks of R44, R46, R431 and R47 fail, the
first in that order gives the fault (assumption 41). What fences order before an instruction that reads memory takes
its place before it (R151). -/
def State.fetchFor (s : State) (a : Agent) (g : Group) : Fetched :=
  let bp := match a with
    | .group _ => s.breakAt g
    | .col _ => none
  match bp with
  | some i => .stop (s.halt g .pcBreak 2 i (g.record 0x12))
  | none =>
    let pc := g.pc.toNat
    let s := { s with cur := { agent := a, next := g.pc + 4 } }
    match s.fetchLine a pc with
    | (.fail c, s) => .stop (s.transFault a g g.allLanes [(pc, c)])
    | (.priv, s) => .stop (s.privilege a g)
    | (.media k, s) =>
      .stop (s.raise a g { code := 0x0C, lanes := g.allLanes, d32 := BitVec.ofNat 64 k, d40 := BitVec.ofNat 64 (s.structAt k) })
    | (.ok ws, s) =>
      let p := pc / 4 % 32
      if !lineOk ws then .stop (s.raise a g { code := 0x03, lanes := g.allLanes })
      else if g.entry && (decide (p < 2) || !(lineWord ws 1).getLsbD p) then
        .stop (s.raise a g { code := 0x04, lanes := g.allLanes, d32 := g.pc.setWidth 64 })
      else if p < 2 || !(lineWord ws 0).getLsbD p then .stop (s.illegal a g)
      else
        let s := { s with cur := { agent := a, next := BitVec.ofNat 57 (nextPc ws pc (walkLen (lineWord ws p))) } }
        if (lineWord ws 1).getLsbD 0 && s.priv a == .user then .stop (s.privilege a g)
        else
          match decodeWords (ws.drop p) with
          | .error _ => .stop (s.illegal a g)
          | .ok i =>
              let (g, s) := if (accessOf i).1 then s.settleOwn a g else (g, s)
              .run i ((s.obey a (accessOf i).2).setAg a { g with
                noBreak := false, entry := false, age := 0, waited := 0, yielded := false, line := some (s.ctxOf a, pc / 128 * 128, ws) })

/-- A line that holds one instruction at word 2, a branch target, and nothing else (R42, R43). -/
def lineWith (ws : List W32) : List W32 :=
  let len := walkLen (ws.headD 0)
  [0x7, 0x4] ++ (ws ++ [0, 0, 0]).take len ++ List.replicate (30 - len) 0

/-- The words of a line in memory. -/
def writeLine (m : Memory) (key : Nat) (ws : List W32) : Memory := writeBytes m key (ws.flatMap wordBytes)

/-- The agent that the next step runs (assumption 11): the first one chosen to issue, else the boot col. -/
def State.nextAgent (s : State) : Agent := s.issuing.headD (.col 0)

/-- The state with an instruction stored where the next step fetches: in the line of the agent's
program counter, which then names word 2 of it. -/
def State.placeWords (s : State) (ws : List W32) : State :=
  let a := s.nextAgent
  match s.ag? a with
  | none => s
  | some g =>
    let va := g.pc.toNat / 128 * 128
    let s := { s with inputs := [], issuing := [a] }
    match s.trans a .fetch va with
    | (.ok key _, s) =>
      let s := { s with mem := writeLine s.mem key (lineWith ws), icache := s.icache.filter fun l => l.va != va }
      s.setAg a { g with pc := BitVec.ofNat 57 (va + 8), park := .ready, halted := none, line := none }
    | (_, s) => s

end Sys2Proof.Machine
end

