-- ==== Sys2Proof/Machine/Seq.lean ====
section
/-! DEFINITION. The sequencer instructions, group 0x0 (R155-R193). -/

namespace Sys2Proof.Machine

/-- The start of every instruction: its encoding is checked (R82), then the unchecked reads of its
sources under STRICT (R70), and uncorrectable registers among them (R424). -/
def startOp (s : State) (wf : Bool) (f : LF) (srcs : List (Spec × Nat)) (k : Agent → Group → Rd → Out State) : Out State :=
  s.withAg fun a g =>
    if !wf then .next (s.illegal a g)
    else if hazardOf f g g.allLanes srcs then .next (s.hazardFault a g)
    else if spoiledOf f g g.allLanes srcs then .next (s.regFault a g)
    else k a g (s.rd g)

/-- An instruction that a col may not execute (R182, R191). -/
def groupOnly (s : State) (a : Agent) (g : Group) (k : Out State) : Out State :=
  if isCol a then .next (s.illegal a g) else k

/-! ### NOP and the mode words -/

def nopOp (wf : Bool) (f : LF) (s : State) : Out State := startOp s wf f [] fun a g _ => .next (s.finish a g f.sw)

def execNop (f : LF) (s : State) : Out State := nopOp (Wf.nop f) f s

def execNopShort (f : SF) (s : State) : Out State :=
  s.withAg fun a g =>
    let l := longOf f g false false
    if (Instr.nopShort f).wf then .next (s.finish a g l.sw) else .next (s.illegal a g)

/-- The bits of the mode words that can be written (R65, R95, R122, R157). -/
def modeBits (sel : Nat) : W32 :=
  match sel with
  | 0 => 0x1FFFF | 1 => 0x3F | 2 => 0x1 | _ => 0xFFFFF

def Group.modeWord (g : Group) (sel : Nat) : W32 :=
  match sel with
  | 0 => g.gmode | 1 => g.fstat | 2 => g.mstat | _ => g.fctl

def Group.setMode (g : Group) (sel : Nat) (x : W32) : Group :=
  match sel with
  | 0 => { g with gmode := x } | 1 => { g with fstat := x } | 2 => { g with mstat := x } | _ => { g with fctl := x }

/-- A word written under a mask; reserved bits ignore the write (R6, R158). -/
def maskedWord (old val mask writable : W32) : W32 := (old &&& ~~~(mask &&& writable)) ||| (val &&& mask &&& writable)

def execSetmode (f : LF) (s : State) : Out State :=
  startOp s (Wf.setmode f) f [(f.sa, 1), (f.sb, 1)] fun a g r =>
    let sel := f.ext.toNat
    let w := maskedWord (g.modeWord sel) ((r.uni 0 f.lit f.sa).setWidth 32) ((r.uni 1 f.lit f.sb).setWidth 32) (modeBits sel)
    if sel = 0 && gmRndBits w ≥ 6 then .next (s.illegal a g)
    else .next (s.finish a (g.setMode sel w) f.sw)

/-- The context level of an agent's groups (R32); a col has none. -/
def State.levelOf (s : State) (a : Agent) : Nat :=
  match a with
  | .group _ => ((s.ctx? (s.ctxOf a)).map fun c => c.clevel.toNat % 32).getD 0
  | .col _ => 0

def execGetmode (f : LF) (s : State) : Out State :=
  startOp s (Wf.getmode f) f [] fun a g _ =>
    let sel := f.ext.toNat
    let x : W64 := if sel = 4 then BitVec.ofNat 64 (g.pri.toNat + 256 * s.levelOf a) else (g.modeWord sel).setWidth 64
    .next (s.finish a (g.putD f.dst x) f.sw)

/-! ### Branches (R162-R166) -/

/-- The check of a branch target (R163): the branch may take effect, or has stopped. -/
inductive Check where
  | ok (s : State)
  | stop (s : State)

/-- The check of R163. An uncorrectable error in the target's line does not stop the branch: the machine check follows at the target
(assumption 41). -/
def State.checkTarget (s : State) (a : Agent) (g : Group) (t : W64) : Check :=
  if t.toNat ≥ 2 ^ 57 then .stop (s.transFault a g g.allLanes [(t.toNat, 1)])
  else
    let bad := fun (s : State) => Check.stop (s.raise a g { code := 0x04, lanes := g.allLanes, d32 := t })
    if t.toNat % 4 ≠ 0 ∨ t.toNat / 4 % 32 < 2 then bad s
    else
      match s.fetchLine a t.toNat with
      | (.fail c, s) => .stop (s.transFault a g g.allLanes [(t.toNat, c)])
      | (.priv, s) => .ok s
      | (.media _, s) => .ok s
      | (.ok ws, s) => if lineOk ws && !(lineWord ws 1).getLsbD (t.toNat / 4 % 32) then bad s else .ok s

/-- A branch that transfers control to t, with what it writes. -/
def branchTo (s : State) (a : Agent) (g : Group) (f : LF) (t : W64) (upd : Group → Group) : Out State :=
  match s.checkTarget a g t with
  | .stop s => .next s
  | .ok s => .next (s.finishAt a (upd g) f.sw (t.setWidth 57))

/-- PC + LIT (R162). -/
def relTarget (g : Group) (f : LF) : W64 := g.pc.setWidth 64 + (f.lit.getD 0).signExtend 64

/-- The link (R162). -/
def State.link (s : State) : W64 := s.cur.next.setWidth 64

def execBra (f : LF) (s : State) : Out State :=
  startOp s (Wf.bra f) f [] fun a g _ => branchTo s a g f (relTarget g f) id

def execBral (f : LF) (s : State) : Out State :=
  startOp s (Wf.bral f) f [] fun a g _ => branchTo s a g f (relTarget g f) (·.putD f.dst s.link)

def execJmp (f : LF) (s : State) : Out State :=
  startOp s (Wf.jmp f) f [(f.sa, 1)] fun a g r => branchTo s a g f (r.uni 0 f.lit f.sa) id

def execJmpl (f : LF) (s : State) : Out State :=
  startOp s (Wf.jmpl f) f [(f.sa, 1)] fun a g r => branchTo s a g f (r.uni 0 f.lit f.sa) (·.putD f.dst s.link)

def execRet (f : LF) (s : State) : Out State :=
  startOp s (Wf.ret f) f [(f.sa, 1)] fun a g r => branchTo s a g f (r.uni 0 f.lit f.sa) id

/-- A branch on the live bits of a mask (R165). -/
def maskBranch (wf : Bool) (f : LF) (s : State) (taken : W64 → W64 → Bool) : Out State :=
  startOp s wf f [(f.sa, 1)] fun a g r =>
    if taken (r.uni 0 f.lit f.sa &&& g.live) g.live then branchTo s a g f (relTarget g f) id
    else .next (s.finish a g f.sw)

def execBrzm (f : LF) (s : State) : Out State := maskBranch (Wf.brzm f) f s fun m _ => m == 0
def execBrnzm (f : LF) (s : State) : Out State := maskBranch (Wf.brnzm f) f s fun m _ => m != 0
def execBrallm (f : LF) (s : State) : Out State := maskBranch (Wf.brallm f) f s fun m live => m == live

def execLoop (f : LF) (s : State) : Out State :=
  startOp s (Wf.loop f) f [(f.dst, 1)] fun a g r =>
    let c := r.uni 0 f.lit f.dst
    if c = 0 then .next (s.finish a g f.sw)
    else if c = 1 then .next (s.finish a (g.putD f.dst 0) f.sw)
    else branchTo s a g f (relTarget g f) (·.putD f.dst (c - 1))

/-! ### Width changes (R173-R181) -/

/-- The width of a width code (R161). -/
def widthOf (code : Nat) : Nat := 4 * 2 ^ code

/-- A result as a new group of a split receives it: the writes and the flags of its lanes, renumbered (R155, R95). -/
def Res.part (first n : Nat) (r : Res) : Res :=
  { r with writes := r.writes.filterMap (fun w =>
             match w with
             | .v l x y => if first ≤ l ∧ l < first + n then some (.v (l - first) x y) else none
             | .q l x y => if first ≤ l ∧ l < first + n then some (.q (l - first) x y) else none
             | .s x y => some (.s x y))
           flags := (r.flags.filter fun p => decide (first ≤ p.1) && decide (p.1 < first + n)).map fun p => (p.1 - first, p.2) }

/-- The operations that a new group goes on counting (R149). -/
def PathOp.part (first n : Nat) (o : PathOp) : Option PathOp :=
  let m := (o.lanes >>> first) &&& liveMask n
  if o.path ≤ 4 && m == 0 then none else some { o with lanes := m, oob := (o.oob >>> first) &&& liveMask n }

/-- The new group of n lanes from lane first of its parent (R155, R174, R176), with the results bound for its lanes and
for its s registers, and no others (R173). -/
def Group.part (g : Group) (id first n : Nat) (d : Spec) (val : Nat) : Group :=
  ({ g with id := id, slice0 := g.slice0 + first / 4, home := g.home + first, lanes := (g.lanes.drop first).take n
            results := g.results.filterMap fun (r : Res) =>
              let x := r.part first n
              if x.writes.isEmpty && x.flags.isEmpty && !(r.late && r.writes.isEmpty) then none else some x
            ops := prune (g.ops.filterMap (PathOp.part first n)) [], age := 0, waited := 0, lost := [], redo := none }).putD d (BitVec.ofNat 64 val)

/-- R400: the team's race epoch advances. -/
def State.bumpEpoch (s : State) (g : Group) : State :=
  match s.teamOf g with
  | none => s
  | some t => s.setTeam { t with epoch := (t.epoch + 1) % 2 ^ 16 }

/-- The PLACE record of a group (R387). -/
def State.tracePlace (s : State) (g : Group) (x : Nat) : State :=
  s.traceI (.group g.id) g 0x10 x (g.home % 1024 + g.launch % 2 ^ 16 * 2 ^ 16)

/-- A group divided into parts, each a first lane, a width and a DST value (R174, R175). -/
def State.splitInto (s : State) (g : Group) (f : LF) (parts : List (Nat × Nat × Nat)) : State :=
  let s := (s.dropGroup g.id).bumpEpoch g
  parts.foldl (fun s p =>
    let (id, s) := ({ s with nextGroup := s.nextGroup + 1 } : State) |> fun s' => (s.nextGroup, s')
    let h := g.part id p.1 p.2.1 f.dst p.2.2
    ((({ s with groups := s.groups ++ [h] }).inheritStreams id [g.id]).tracePlace h 3).finish (.group id) h f.sw) s

def execSplit (f : LF) (s : State) : Out State :=
  startOp s (Wf.split f) f [] fun a g _ => groupOnly s a g <|
    let w := widthOf f.ext.toNat
    if w ≥ g.width then .next (s.finish a (g.putD f.dst 0) f.sw)
    else .next (s.splitInto g f ((List.range (g.width / w)).map fun k => (k * w, w, k * w)))

/-- The largest aligned run of slices of a set at slice i (R175). -/
def runAt (n : Nat) (set : Nat → Bool) (i : Nat) : Nat :=
  ([16, 8, 4, 2, 1].find? fun p => decide (p ≤ n) && i % p == 0 && (List.range p).all fun k => decide (i + k < n) && set (i + k)).getD 1

/-- The aligned runs of a set of slices (R175): first slice and length. -/
def runsOf (n : Nat) (set : Nat → Bool) : Nat → Nat → List (Nat × Nat)
  | 0, _ => []
  | fuel + 1, i =>
    if i ≥ n then []
    else if !set i then runsOf n set fuel (i + 1)
    else (i, runAt n set i) :: runsOf n set fuel (i + runAt n set i)

def execSplitm (f : LF) (s : State) : Out State :=
  startOp s (Wf.splitm f) f [(f.sa, 1)] fun a g r => groupOnly s a g <|
    let n := g.slices
    let m := r.uni 0 f.lit f.sa
    let named := fun i => decide (i < n) && m.getLsbD i
    if (List.range n).all named then .next (s.finish a (g.putD f.dst 256) f.sw)
    else if (List.range n).all fun i => !named i then .next (s.finish a (g.putD f.dst 0) f.sw)
    else
      let part := fun (add : Nat) (p : Nat × Nat) => (4 * p.1, 4 * p.2, 4 * p.1 + add)
      let ps := (runsOf n named n 0).map (part 256) ++ (runsOf n (fun i => !named i) n 0).map (part 0)
      .next (s.splitInto g f (sortBy (fun x y => decide (x.1 ≤ y.1)) ps))

/-! ### FUSE -/

/-- The groups that hold slice contexts of a block, in slice order. -/
def State.holders (s : State) (core quad first len : Nat) : List Group :=
  sortBy (fun x y => decide (x.slice0 ≤ y.slice0))
    (s.groups.filter fun g => g.core == core && g.quad == quad && decide (g.slice0 < first + len) && decide (first < g.slice0 + g.slices))

/-- A slice context of a block that was released by EXIT of a group of the team (R178). -/
def exitedIn (t : Option Team) (quad first len : Nat) : Bool :=
  match t with
  | none => false
  | some t => t.exited.any fun p => p.1 == quad && decide (first ≤ p.2) && decide (p.2 < first + len)

/-- R178 step 1: a slice context of the block is free (but not left by EXIT of the team), or another
team's, or the home lanes would not run consecutively. -/
def blockBroken (t : Option Team) (hs : List Group) (g : Group) (first len : Nat) : Bool :=
  (List.range len).any (fun i =>
    !(hs.any fun h => decide (h.slice0 ≤ first + i) && decide (first + i < h.slice0 + h.slices)) && !exitedIn t g.quad (first + i) 1) ||
  hs.any (fun h => h.ctx != g.ctx || h.tlin != g.tlin || h.home + 4 * g.slice0 != g.home + 4 * h.slice0)

def State.traceFuse (s : State) (g : Group) (code : Nat) (tag : W64) : State :=
  s.traceI (.group g.id) g 0x14 code (tag.toNat % 2 ^ 32)

/-- Every arrived participant receives a code and continues unfused (R179). -/
def State.endFuse (s : State) (x : Fuse) (code : Nat) : State :=
  let s := { s with fuses := s.fuses.filter fun y => y.num != x.num }
  x.arrived.foldl (fun s p =>
    match s.group? p.1 with
    | none => s
    | some g =>
      match g.park with
      | .fuse _ _ _ d => (s.finishParked (.group g.id) (g.putD d (BitVec.ofNat 64 code))).traceFuse g code x.tag
      | _ => s) s

def Fuse.all (x : Fuse) (hs : List Group) : Bool := hs.all fun h => x.arrived.any fun p => p.1 == h.id

/-- A number of core cycles as module time (R4, R419): the effective clock of the core's island. -/
def State.cycles (s : State) (core n : Nat) : Nat :=
  let isl := if h : core < 640 then s.mod.islands[core] else Island.reset core
  n * 16000 / max 1 (min isl.setClk (min isl.fmax s.mod.ceiling))

/-- The cycle in which the window runs out has passed: what arrives now comes too late (R179). -/
def State.fuseOver (s : State) (x : Fuse) : Bool := decide (s.time ≥ x.since + s.cycles x.core (x.fwin + 1))

/-- The code that ends an open attempt now, but for its success (R179, R180). -/
def State.fuseCode (s : State) (x : Fuse) : Option Nat :=
  let hs := s.holders x.core x.quad x.first x.len
  match x.arrived.head?.bind fun p => s.group? p.1 with
  | none => none
  | some g =>
    let t := s.teamOf g
    let absent := hs.filter fun h => !(x.arrived.any fun p => p.1 == h.id)
    -- the attempt of a context that a stop holds goes on after it (R182, R37)
    if !s.runs g.ctx then none
    else if exitedIn t x.quad x.first x.len || absent.any (fun h => h.park == .exiting) then some 2
    else if blockBroken t hs g x.first x.len then some 4
    else if hs.any (fun h => h.halted.isSome) then some 5
    else if absent.any (fun h => match h.park with
      | .transl _ | .retry _ | .trapc _ | .held _ => true
      | _ => false) then some 6
    else if x.strict && x.all hs && hs.any (fun h => h.gmode != g.gmode) then some 7
    else if x.strict && x.all hs && x.arrived.any (fun p => p.2 != (x.arrived.head?.map Prod.snd).getD p.2) then some 3
    else if !x.all hs && s.fuseOver x then some 1
    else none

/-- Open attempts end in the step in which a condition of R179 comes to hold. -/
def State.endFuses (s : State) : State :=
  s.fuses.foldl (fun s x => match s.fuseCode x with
    | some c => s.endFuse x c
    | none => s) s

/-- The window has run out, and its last cycle has passed, in which an arrival counts (R179, R180). -/
def State.fuseExpired (s : State) (x : Fuse) : Bool :=
  (match x.arrived.head?.bind fun p => s.group? p.1 with
   | none => false
   | some g => s.runs g.ctx) && !x.all (s.holders x.core x.quad x.first x.len) && s.fuseOver x

/-- An attempt whose window has run ends with code 1 (R179). -/
def execFuseWindowExpiry (s : State) : Out State :=
  match s.ev with
  | .nat k =>
    match s.fuses.find? fun x => x.num == k with
    | some x => if s.fuseExpired x then .next (s.endFuse x 1) else .next s
    | none => .next s
  | _ => .next s

def execFuse (f : LF) (s : State) : Out State :=
  startOp s (Wf.fuse f) f [(f.sa, 1)] fun a g r => groupOnly s a g <|
    let w := widthOf f.ext.toNat
    let tag := r.uni 0 f.lit f.sa
    let strict := f.mod.toNat == 1
    let len := w / 4
    let first := g.slice0 / len * len
    let t := s.teamOf g
    let hs := s.holders g.core g.quad first len
    if w ≤ g.width || blockBroken t hs g first len then .next ((s.finish a (g.putD f.dst 4) f.sw).traceFuse g 4 tag)
    else if exitedIn t g.quad first len then .next ((s.finish a (g.putD f.dst 2) f.sw).traceFuse g 2 tag)
    else
      -- an attempt whose window has passed is open no longer
      let s := if s.fuses.any s.fuseOver then s.endFuses else s
      let g := { g with psw := f.sw }
      let same := fun (x : Fuse) => x.core == g.core && x.quad == g.quad && x.first == first && x.len == len && x.tag == tag && x.strict == strict
      let s := s.park a g (.fuse f.ext.toNat tag strict f.dst)
      match s.fuses.find? same with
      | some _ => .next { s with fuses := s.fuses.map fun x => if same x then { x with arrived := x.arrived ++ [(g.id, g.sregs)] } else x }
      | none =>
        let (n, s) := s.fresh
        .next { s with fuses := s.fuses ++ [{ num := n, core := g.core, quad := g.quad, first := first, len := len, code := f.ext.toNat
                                              tag := tag, strict := strict, since := s.time, fwin := bitsOf g.fctl.toNat 19 0
                                              arrived := [(g.id, g.sregs)] }] }

/-- All partners have arrived with nothing outstanding (R179 code 0). -/
def State.fuseReady (s : State) (x : Fuse) : Bool :=
  let hs := s.holders x.core x.quad x.first x.len
  !hs.isEmpty && x.all hs && (s.fuseCode x).isNone && hs.all fun h => s.runs h.ctx && h.results.isEmpty && h.ops.isEmpty

/-- The participants become one group (R155, R181). -/
def State.fuseNow (s : State) (x : Fuse) : State :=
  let hs := s.holders x.core x.quad x.first x.len
  match hs with
  | [] => s
  | l :: _ =>
    let d := match l.park with
      | .fuse _ _ _ d => d
      | _ => .zero
    let g : Group := ({ l with slice0 := x.first, age := 0, lanes := hs.flatMap fun (h : Group) => h.lanes
                               fstat := hs.foldl (fun w (h : Group) => w ||| h.fstat) 0, mstat := hs.foldl (fun w (h : Group) => w ||| h.mstat) 0
                               past := hs.flatMap fun (h : Group) => h.past, seen := hs.flatMap fun (h : Group) => h.seen }).putD d 0
    let s := { s with fuses := s.fuses.filter (fun y => y.num != x.num)
                      groups := s.groups.filter fun h => h.id == l.id || !(hs.any fun y => y.id == h.id) }
    let s := (s.bumpEpoch g).inheritStreams l.id (hs.map (·.id))
    let s := (s.finishParked (.group g.id) g).traceFuse g 0 x.tag
    s.tracePlace g 4

def execFuseSuccess (s : State) : Out State :=
  match s.ev with
  | .nat k =>
    match s.fuses.find? fun x => x.num == k with
    | some x => if s.fuseReady x then .next (s.fuseNow x) else .next s
    | none => .next s
  | _ => .next s

/-! ### Priority, sleep, identity, exit (R187-R191) -/

def execSetpri (f : LF) (s : State) : Out State :=
  startOp s (Wf.setpri f) f [(f.sa, 1)] fun a g r =>
    let p := BitVec.ofNat 3 (min 7 (r.uni 0 f.lit f.sa).toNat)
    .next (s.finish a (if isCol a then g else { g with pri := p }) f.sw)

def execYield (f : LF) (s : State) : Out State :=
  startOp s (Wf.yield f) f [] fun a g _ => .next (s.finish a (if isCol a then g else { g with yielded := true }) f.sw)

def execSleep (f : LF) (s : State) : Out State :=
  startOp s (Wf.sleep f) f [(f.sa, 1)] fun a g r =>
    let n := min (r.uni 0 f.lit f.sa).toNat (2 ^ 32 - 1)
    if n = 0 then .next (s.finish a g f.sw)
    else .next (s.park a { g with psw := f.sw } (.sleep n (s.time + 16 * n)))

/-- A sleeping agent whose time has passed becomes ready (R189). -/
def execSleepExpiry (s : State) : Out State :=
  match s.ev with
  | .agent a =>
    match s.ag? a with
    | some g =>
      match g.park with
      | .sleep _ due => if s.time ≥ due then .next (s.finishParked a g) else .next s
      | _ => .next s
    | none => .next s
  | _ => .next s

/-- The values of GETID (R190). -/
def State.getid (s : State) (a : Agent) (g : Group) (sel : Nat) : Nat :=
  let c := s.ctx? (s.ctxOf a)
  match sel, a with
  | 0, .group _ => g.gnum
  | 1, .group _ => g.root
  | 2, .group _ => ((s.teamOf g).map (·.idx)).getD 0
  | 3, .group _ =>
    match s.teamOf g with
    | some t => t.cx + 16 * t.cy + 256 * (t.idx % max 1 t.cx) + 4096 * (t.idx / max 1 t.cx)
    | none => 0x0011
  | 3, .col _ => 0x0011
  | 4, .group _ => ((s.teamOf g).map (·.clu)).getD 0
  | 5, .group _ => g.core % 12
  | 5, .col _ => 12
  | 6, _ => s.ridge a
  | 7, .group _ => g.quad
  | 8, _ => (c.map fun x => x.rank).getD 0
  | 9, _ => (c.map fun x => max 1 x.members.length).getD 1
  | 10, _ => s.ctxOf a
  | 11, .group _ => g.pktIdx % 2 ^ 32 + g.pktQueue % 2 ^ 16 * 2 ^ 32
  | 12, _ => s.time
  | _, _ => 0

def execGetid (f : LF) (s : State) : Out State :=
  startOp s (Wf.getid f) f [] fun a g _ =>
    .next (s.finish a (g.putD f.dst (BitVec.ofNat 64 (s.getid a g f.ext.toNat))) f.sw)

def execExit (f : LF) (s : State) : Out State :=
  startOp s (Wf.exit f) f [] fun a g _ => groupOnly s a g <| .next (s.park a g .exiting)

end Sys2Proof.Machine
end

