-- ==== Sys2Proof/Machine/Scalar.lean ====
section
/-! DEFINITION. The scalar unit, group 0x1 (R168-R172). -/

namespace Sys2Proof.Machine

/-- The option `.u` (R169). -/
def unsignedOf (f : LF) : Bool := f.mod.toNat % 2 == 1

def mulhU (a b : W64) : W64 := BitVec.ofNat 64 (a.toNat * b.toNat / 2 ^ 64)
def mulhS (a b : W64) : W64 := BitVec.ofInt 64 (a.toInt * b.toInt / 2 ^ 64)

/-- SDIV (R170): all ones for a zero divisor. -/
def sdivOf (u : Bool) (a b : W64) : W64 := if b = 0 then BitVec.allOnes 64 else if u then a / b else a.sdiv b

def lessOf (u : Bool) (a b : W64) : Bool := if u then a.ult b else a.slt b

/-- A condition code (R172). -/
def condOf (cc : Nat) (u : Bool) (a b : W64) : Bool :=
  match cc with
  | 0 => a == b | 1 => a != b | 2 => lessOf u a b | 3 => !lessOf u b a | 4 => lessOf u b a | _ => !lessOf u a b

/-- The number of 1 bits of a w-bit number. -/
def popc (w x : Nat) : Nat := ((List.range w).filter fun i => x.testBit i).length

/-- Leading and trailing zero bits of a w-bit number; w for 0. -/
def clz (w x : Nat) : Nat := if x = 0 then w else w - 1 - Nat.log2 x
def ctz (w x : Nat) : Nat := ((List.range w).find? fun i => x.testBit i).getD w

/-- The position of the 1 bit with n 1 bits below it; w when there is none (R169 SFFS). -/
def nthOne (w x n : Nat) : Nat := ((List.range w).filter fun i => x.testBit i).getD n w

/-- A bit field extracted from w bits (R169): len := min (c, w - pos). -/
def bfx (w : Nat) (sgn : Bool) (a pos c : Nat) : Nat :=
  let len := min c (w - pos)
  let x := a / 2 ^ pos % 2 ^ len
  if sgn && len > 0 && x.testBit (len - 1) then x + (2 ^ w - 2 ^ len) else x

/-- A bit field of d replaced by the low bits of a (R169). -/
def bfi (w d a pos c : Nat) : Nat :=
  let len := min c (w - pos)
  let fm := (2 ^ len - 1) * 2 ^ pos
  (d &&& (2 ^ w - 1 - fm)) ||| (a % 2 ^ len * 2 ^ pos)

/-- The s registers that a scalar instruction reads; old: its old DST too. -/
def scalarSrcs (f : LF) (old : Bool) : List (Spec × Nat) :=
  ((if old then [f.sa, f.sb, f.sc, f.dst] else [f.sa, f.sb, f.sc]).filter Spec.isS).map fun x => (x, 1)

/-- A scalar instruction: its result from a, b, c and the old d (R168, R169). -/
def scalarOp (wf : Bool) (f : LF) (s : State) (fn : W64 → W64 → W64 → W64 → W64) (old : Bool := false) : Out State :=
  startOp s wf f (scalarSrcs f old) fun a g r =>
    let x := fn (r.uni 0 f.lit f.sa) (r.uni 1 f.lit f.sb) (r.uni 2 f.lit f.sc) (r.uni 3 f.lit f.dst)
    .next (s.finish a (g.putD f.dst x) f.sw)

/-- A short scalar instruction as its long form (R53). -/
def shortScalar (i : Instr) (f : SF) (s : State) (fn : W64 → W64 → W64 → W64 → W64) : Out State :=
  s.withAg fun _ g => scalarOp i.wf (longOf f g false false) s fn

def execSadd (f : LF) (s : State) : Out State := scalarOp (Wf.sadd f) f s fun a b _ _ => a + b
def execSsub (f : LF) (s : State) : Out State := scalarOp (Wf.ssub f) f s fun a b _ _ => a - b
def execSmul (f : LF) (s : State) : Out State := scalarOp (Wf.smul f) f s fun a b _ _ => a * b
def execSmulh (f : LF) (s : State) : Out State := scalarOp (Wf.smulh f) f s fun a b _ _ => if unsignedOf f then mulhU a b else mulhS a b
def execSdiv (f : LF) (s : State) : Out State := scalarOp (Wf.sdiv f) f s fun a b _ _ => sdivOf (unsignedOf f) a b
def execSrem (f : LF) (s : State) : Out State := scalarOp (Wf.srem f) f s fun a b _ _ => a - b * sdivOf (unsignedOf f) a b
def execSmin (f : LF) (s : State) : Out State := scalarOp (Wf.smin f) f s fun a b _ _ => if lessOf (unsignedOf f) a b then a else b
def execSmax (f : LF) (s : State) : Out State := scalarOp (Wf.smax f) f s fun a b _ _ => if lessOf (unsignedOf f) a b then b else a
def execSand (f : LF) (s : State) : Out State := scalarOp (Wf.sand f) f s fun a b _ _ => a &&& b
def execSor (f : LF) (s : State) : Out State := scalarOp (Wf.sor f) f s fun a b _ _ => a ||| b
def execSxor (f : LF) (s : State) : Out State := scalarOp (Wf.sxor f) f s fun a b _ _ => a ^^^ b
def execSandn (f : LF) (s : State) : Out State := scalarOp (Wf.sandn f) f s fun a b _ _ => a &&& ~~~b
def execSshl (f : LF) (s : State) : Out State := scalarOp (Wf.sshl f) f s fun a b _ _ => a <<< (b.toNat % 64)
def execSshr (f : LF) (s : State) : Out State := scalarOp (Wf.sshr f) f s fun a b _ _ => a >>> (b.toNat % 64)
def execSsar (f : LF) (s : State) : Out State := scalarOp (Wf.ssar f) f s fun a b _ _ => a.sshiftRight (b.toNat % 64)
def execSmov (f : LF) (s : State) : Out State := scalarOp (Wf.smov f) f s fun a _ _ _ => a
def execSli (f : LF) (s : State) : Out State := scalarOp (Wf.sli f) f s (fun a _ _ d => if f.ext.toNat = 1 then (d &&& 0xFFFFFFFF) ||| ((f.lit.getD 0).zeroExtend 64 <<< 32) else a) (f.ext.toNat == 1)
def execScmp (f : LF) (s : State) : Out State := scalarOp (Wf.scmp f) f s fun a b _ _ => if condOf f.ext.toNat (unsignedOf f) a b then 1 else 0
def execSsel (f : LF) (s : State) : Out State := scalarOp (Wf.ssel f) f s fun a b c _ => if c ≠ 0 then a else b
def execSpopc (f : LF) (s : State) : Out State := scalarOp (Wf.spopc f) f s fun a _ _ _ => BitVec.ofNat 64 (popc 64 a.toNat)
def execSclz (f : LF) (s : State) : Out State := scalarOp (Wf.sclz f) f s fun a _ _ _ => BitVec.ofNat 64 (clz 64 a.toNat)
def execSctz (f : LF) (s : State) : Out State := scalarOp (Wf.sctz f) f s fun a _ _ _ => BitVec.ofNat 64 (ctz 64 a.toNat)
def execSffs (f : LF) (s : State) : Out State := scalarOp (Wf.sffs f) f s fun a b _ _ => BitVec.ofNat 64 (nthOne 64 a.toNat b.toNat)
def execSbfx (f : LF) (s : State) : Out State := scalarOp (Wf.sbfx f) f s fun a b c _ => BitVec.ofNat 64 (bfx 64 (!unsignedOf f) a.toNat (b.toNat % 64) c.toNat)
def execSbfi (f : LF) (s : State) : Out State := scalarOp (Wf.sbfi f) f s (fun a b c d => BitVec.ofNat 64 (bfi 64 d.toNat a.toNat (b.toNat % 64) c.toNat)) true

def execSaddShort (f : SF) (s : State) : Out State := shortScalar (.saddShort f) f s fun a b _ _ => a + b
def execSsubShort (f : SF) (s : State) : Out State := shortScalar (.ssubShort f) f s fun a b _ _ => a - b
def execSandShort (f : SF) (s : State) : Out State := shortScalar (.sandShort f) f s fun a b _ _ => a &&& b
def execSorShort (f : SF) (s : State) : Out State := shortScalar (.sorShort f) f s fun a b _ _ => a ||| b
def execSxorShort (f : SF) (s : State) : Out State := shortScalar (.sxorShort f) f s fun a b _ _ => a ^^^ b
def execSandnShort (f : SF) (s : State) : Out State := shortScalar (.sandnShort f) f s fun a b _ _ => a &&& ~~~b
def execSshlShort (f : SF) (s : State) : Out State := shortScalar (.sshlShort f) f s fun a b _ _ => a <<< (b.toNat % 64)
def execSshrShort (f : SF) (s : State) : Out State := shortScalar (.sshrShort f) f s fun a b _ _ => a >>> (b.toNat % 64)
def execSsarShort (f : SF) (s : State) : Out State := shortScalar (.ssarShort f) f s fun a b _ _ => a.sshiftRight (b.toNat % 64)
def execSmovShort (f : SF) (s : State) : Out State := shortScalar (.smovShort f) f s fun a _ _ _ => a
def execSpopcShort (f : SF) (s : State) : Out State := shortScalar (.spopcShort f) f s fun a _ _ _ => BitVec.ofNat 64 (popc 64 a.toNat)

end Sys2Proof.Machine
end

