-- ==== Sys2Proof/Machine/Vector.lean ====
section
/-! DEFINITION. The integer instructions of the vector engine, group 0x2 (R222-R229), and what all vector
instructions share. -/

namespace Sys2Proof.Machine

/-! ### What the vector instructions share -/

/-- The sources of an instruction with the slots that each takes in a type (R58). -/
def srcSlots (t : Ty) (xs : List Spec) : List (Spec × Nat) := xs.map fun x => (x, if t.wide then 2 else 1)

/-- The sources that a cross-lane instruction reads in other lanes than its own (R239), and those lanes. -/
structure Far where
  srcs : List (Spec × Nat) := []
  lanes : Rd → List Nat → W64 := fun _ _ => 0

/-- An unchecked read under STRICT: by the lanes that read (R70), or in the source lanes of others (R239). -/
def vecHazard (f : LF) (g : Group) (r : Rd) (srcs : List (Spec × Nat)) (far : Far) : Bool :=
  hazardOf f g (activeOf f r) srcs || (gmStrict g.gmode && g.unchecked (far.lanes r (lanesOf g.width (activeOf f r))) far.srcs)

/-- The same of uncorrectable registers (R424). -/
def vecSpoiled (f : LF) (g : Group) (r : Rd) (srcs : List (Spec × Nat)) (far : Far) : Bool :=
  spoiledOf f g (activeOf f r) srcs || (!g.bad.isEmpty && spoiledOf f g (far.lanes r (lanesOf g.width (activeOf f r))) far.srcs)

/-- The start of a vector instruction: its encoding (R82), unchecked reads under STRICT, uncorrectable registers, and its active lanes in
ascending order (R61). -/
def startVec (s : State) (wf : Bool) (f : LF) (srcs : List (Spec × Nat)) (far : Far)
    (k : Agent → Group → Rd → List Nat → Out State) : Out State :=
  s.withAg fun a g =>
    let r := s.rd g
    if !wf then .next (s.illegal a g)
    else if vecHazard f g r srcs far then .next (s.hazardFault a g)
    else if vecSpoiled f g r srcs far then .next (s.regFault a g)
    else k a g r (lanesOf g.width (activeOf f r))

/-- What an element's computation takes beside its operands. -/
structure Env where
  ty : Ty
  mode : Rnd := .rne
  sr : Nat := 0
  sat : Bool := false
  ftz : Bool := false

/-- The instruction rounds stochastically (R100). -/
def isSr (f : LF) (g : Group) (rounds : Bool) : Bool := rounds && modeOf f g == .sr

/-- The environment of element e of a lane: the mode, the random bits (R98), `.sat` or GMODE.SAT (R83,
R92) and FTZ. -/
def envOf (f : LF) (g : Group) (t : Ty) (rounds : Bool) (lane e : Nat) : Env :=
  { ty := t, mode := if rounds then modeOf f g else .rne
    sr := if isSr f g rounds then srbits g.srSeed (g.srHeld.getD g.srCtr) (g.home + lane) e else 0
    sat := f.mod.getLsbD 0 || gmSat g.gmode, ftz := gmFtz g.gmode }

def orAll (l : List Nat) : Nat := l.foldl (· ||| ·) 0

/-- The end of a vector instruction: the float-exception fault, which leaves every active lane unfinished (R96), else
the SR counter (R100) and the results with their flags. A fault issued again in parts takes the counter's value of
its first issue. Each active lane has its flags. -/
def vecEnd (s : State) (a : Agent) (g : Group) (f : LF) (sr : Bool) (flags : List (Nat × Nat)) (post : Group → List (Nat × Nat) → Group) : Out State :=
  let bad := flags.filter fun p => fexcKinds p.2 != 0
  if gmFexc g.gmode && !bad.isEmpty then
    .next (s.raise a g { code := 0x06, cause := orAll (bad.map fun p => fexcKinds p.2), lanes := maskOf (bad.map Prod.fst)
                         unf := some (maskOf (flags.map Prod.fst)) })
  else
    let g := if sr && g.srHeld.isNone then { g with srCtr := g.srCtr + 1, srHeld := some g.srCtr } else g
    .next (s.finish a (post g (flags.filter fun p => p.2 != 0)) f.sw)

/-- A vector result of k slots in each lane. -/
def vecDone (s : State) (a : Agent) (g : Group) (f : LF) (sr : Bool) (k : Nat) (vals : List (Nat × List W32 × Nat)) : Out State :=
  vecEnd s a g f sr (vals.map fun p => (p.1, p.2.2)) fun g fl => g.postV f.dst k (vals.map fun p => (p.1, p.2.1)) fl

/-- A result in an s register with flags (R192); 0x70 discards it. -/
def Group.postSF (g : Group) (d : Spec) (x : W64) (fl : List (Nat × Nat)) : Group :=
  match d with
  | .s n => g.post [.s n.val x] fl
  | _ => g.post [] fl

/-! ### Packed elements (R224) -/

/-- A constant or literal specifier. -/
def isConst : Spec → Bool
  | .one | .two | .four | .eight | .neg1 | .half | .oneF | .lit => true
  | _ => false

/-- Element e of k in a slot. -/
def elemOf (k e : Nat) (x : Spec) (v : Nat) : Nat := if k = 1 || isConst x then v else v / 2 ^ (32 / k * e) % 2 ^ (32 / k)

/-- The words of a result of k elements. -/
def packWords (t : Ty) (k : Nat) (xs : List Nat) : List W32 :=
  if k = 1 then slotWords t (xs.headD 0)
  else [BitVec.ofNat 32 (xs.foldr (fun x n => x % 2 ^ (32 / k) + 2 ^ (32 / k) * n) 0)]

/-- The first n sources. -/
def srcsOf (f : LF) (n : Nat) : List Spec := [f.sa, f.sb, f.sc].take n

/-- A lane's result of an elementwise instruction: its words and its flags. -/
def elemwise (f : LF) (r : Rd) (rounds : Bool) (n : Nat) (fn : Env → List Nat → Nat × Nat) (lane : Nat) : List W32 × Nat :=
  let k := packOf f.mod.toNat
  let res := (List.range k).map fun e =>
    fn (envOf f r.g f.ty rounds lane e) ((srcsOf f n).mapIdx fun i x => elemOf k e x (r.src i f.lit f.ty x lane))
  (packWords f.ty k (res.map Prod.fst), orAll (res.map Prod.snd))

/-- The slot of a shift's count that is read: the low half of a pair, which a push leaves at the higher entry (R58, R227). -/
def countSlot (t : Ty) : Spec → Spec × Nat
  | .q k => (if t.wide then .q (k + 1) else .q k, 1)
  | x => (x, 1)

/-- An elementwise instruction of n sources in its type; of a shift's count only the low register is read (R227). -/
def vecOp (wf : Bool) (f : LF) (s : State) (n : Nat) (rounds : Bool) (fn : Env → List Nat → Nat × Nat) (shift : Bool := false) : Out State :=
  startVec s wf f (if shift then srcSlots f.ty [f.sa] ++ [countSlot f.ty f.sb] else srcSlots f.ty (srcsOf f n)) {} fun a g r lanes =>
    vecDone s a g f (isSr f g rounds) (if f.ty.wide then 2 else 1) (lanes.map fun l => (l, elemwise f r rounds n fn l))

/-- A short vector instruction as its long form (R53). -/
def shortVec (f : SF) (s : State) (typed rounds : Bool) (k : LF → Out State) : Out State :=
  s.withAg fun _ g => k (longOf f g typed rounds)

/-- The i-th operand. -/
def arg (xs : List Nat) (i : Nat) : Nat := xs.getD i 0

/-! ### Integer operations (R226, R227) -/

/-- An exact integer operation, wrapped or saturated. -/
def intOp (fn : List Int → Int) (e : Env) (xs : List Nat) : Nat × Nat := intResult e.ty e.sat (fn (xs.map (intOf e.ty)))

/-- An operation on bits that sets no flag: the element width and the operands. -/
def bitOp (fn : Nat → List Nat → Nat) (e : Env) (xs : List Nat) : Nat × Nat :=
  (slotOf e.ty (fn e.ty.bits xs : Nat), 0)

def iarg (xs : List Int) (i : Nat) : Int := xs.getD i 0

def vAdd : Env → List Nat → Nat × Nat := intOp fun x => iarg x 0 + iarg x 1
def vSub : Env → List Nat → Nat × Nat := intOp fun x => iarg x 0 - iarg x 1
def vMul : Env → List Nat → Nat × Nat := intOp fun x => iarg x 0 * iarg x 1
def vMad : Env → List Nat → Nat × Nat := intOp fun x => iarg x 0 * iarg x 1 + iarg x 2
def vMulh (e : Env) : List Nat → Nat × Nat := intOp (fun x => iarg x 0 * iarg x 1 / (2 ^ e.ty.bits : Nat)) { e with sat := false }
def vMin (e : Env) : List Nat → Nat × Nat := intOp (fun x => min (iarg x 0) (iarg x 1)) { e with sat := false }
def vMax (e : Env) : List Nat → Nat × Nat := intOp (fun x => max (iarg x 0) (iarg x 1)) { e with sat := false }
def vAbs : Env → List Nat → Nat × Nat := intOp fun x => ((iarg x 0).natAbs : Int)
def vAnd : Env → List Nat → Nat × Nat := bitOp fun _ x => arg x 0 &&& arg x 1
def vOr : Env → List Nat → Nat × Nat := bitOp fun _ x => arg x 0 ||| arg x 1
def vXor : Env → List Nat → Nat × Nat := bitOp fun _ x => arg x 0 ^^^ arg x 1
def vAndn : Env → List Nat → Nat × Nat := bitOp fun w x => arg x 0 &&& (2 ^ w - 1 - arg x 1 % 2 ^ w)
/-- The count of a shift (R227): b modulo w, from the low register of a pair. -/
def shCount (w : Nat) (x : List Nat) : Nat := arg x 1 % 2 ^ 32 % w
def vShl : Env → List Nat → Nat × Nat := bitOp fun w x => arg x 0 * 2 ^ shCount w x
def vShr : Env → List Nat → Nat × Nat := bitOp fun w x => arg x 0 % 2 ^ w / 2 ^ shCount w x
def vSar : Env → List Nat → Nat × Nat := bitOp fun w x => wrapTo w (signed w (arg x 0) / (2 ^ shCount w x : Nat))
def vRol : Env → List Nat → Nat × Nat := bitOp fun w x =>
  let y := arg x 0 % 2 ^ w
  y * 2 ^ shCount w x + y / 2 ^ (w - shCount w x)
def vPopc : Env → List Nat → Nat × Nat := bitOp fun w x => popc w (arg x 0)
def vClz : Env → List Nat → Nat × Nat := bitOp fun w x => clz w (arg x 0)
def vBrev : Env → List Nat → Nat × Nat := bitOp fun w x =>
  (List.range w).foldl (fun n i => 2 * n + (arg x 0 / 2 ^ i) % 2) 0

/-- VBFX and VBFI (R227): b and c read as n32. -/
def execVbfx (f : LF) (s : State) : Out State :=
  startVec s (Wf.vbfx f) f (srcSlots f.ty [f.sa] ++ srcSlots .n32 [f.sb, f.sc]) {} fun a g r lanes =>
    vecDone s a g f false (if f.ty.wide then 2 else 1) (lanes.map fun l =>
      let w := f.ty.bits
      let x := bfx w f.ty.signed (r.src 0 f.lit f.ty f.sa l) (r.src 1 f.lit .n32 f.sb l % w) (r.src 2 f.lit .n32 f.sc l)
      (l, slotWords f.ty x, 0))

def execVbfi (f : LF) (s : State) : Out State :=
  startVec s (Wf.vbfi f) f (srcSlots f.ty [f.sa, f.dst] ++ srcSlots .n32 [f.sb, f.sc]) {} fun a g r lanes =>
    vecDone s a g f false (if f.ty.wide then 2 else 1) (lanes.map fun l =>
      let w := f.ty.bits
      let x := bfi w (r.src 3 f.lit f.ty f.dst l) (r.src 0 f.lit f.ty f.sa l) (r.src 1 f.lit .n32 f.sb l % w) (r.src 2 f.lit .n32 f.sc l)
      (l, slotWords f.ty x, 0))

/-! ### Moves (R229) and compares (R228) -/

def execVsel (f : LF) (s : State) : Out State :=
  startVec s (Wf.vsel f) f (srcSlots f.ty [f.sa, f.sb] ++ [(f.sc, 1)]) {} fun a g r lanes =>
    let m := r.uni 2 f.lit f.sc
    vecDone s a g f false (if f.ty.wide then 2 else 1) (lanes.map fun l =>
      (l, slotWords f.ty (if m.getLsbD l then r.src 0 f.lit f.ty f.sa l else r.src 1 f.lit f.ty f.sb l), 0))

/-- VMOV copies bits. -/
def vMov : Env → List Nat → Nat × Nat := fun _ x => (arg x 0, 0)

/-- VLI: with `.hi` only the odd register of the pair is written. -/
def execVli (f : LF) (s : State) : Out State :=
  startVec s (Wf.vli f) f [] {} fun a g _ lanes =>
    let l := f.lit.getD 0
    let hi := f.ext.toNat == 1
    match f.dst, hi with
    | .v n, true => vecEnd s a g f false [] fun g _ => g.post (lanes.map fun i => .v i (n.val + 1) l)
    | _, _ => vecDone s a g f false (if f.ty.wide then 2 else 1)
        (lanes.map fun i => (i, if f.ty.wide then (if hi then [0, l] else [l, 0]) else [l], 0))

/-- The mask of the lanes for which something holds. -/
def maskWhere (lanes : List Nat) (p : Nat → Bool) : W64 := maskOf (lanes.filter p)

def cmpInt (cc : Nat) (a b : Int) : Bool :=
  match cc with
  | 0 => a == b | 1 => a != b | 2 => decide (a < b) | 3 => decide (a ≤ b) | 4 => decide (a > b) | _ => decide (a ≥ b)

def execVcmp (f : LF) (s : State) : Out State :=
  startVec s (Wf.vcmp f) f (srcSlots f.ty [f.sa, f.sb]) {} fun a g r lanes =>
    let m := maskWhere lanes fun l =>
      cmpInt f.ext.toNat (intOf f.ty (r.src 0 f.lit f.ty f.sa l)) (intOf f.ty (r.src 1 f.lit f.ty f.sb l))
    .next (s.finish a (g.postS f.dst m) f.sw)

def execVadd (f : LF) (s : State) : Out State := vecOp (Wf.vadd f) f s 2 false vAdd
def execVsub (f : LF) (s : State) : Out State := vecOp (Wf.vsub f) f s 2 false vSub
def execVmul (f : LF) (s : State) : Out State := vecOp (Wf.vmul f) f s 2 false vMul
def execVmulh (f : LF) (s : State) : Out State := vecOp (Wf.vmulh f) f s 2 false vMulh
def execVmad (f : LF) (s : State) : Out State := vecOp (Wf.vmad f) f s 3 false vMad
def execVmin (f : LF) (s : State) : Out State := vecOp (Wf.vmin f) f s 2 false vMin
def execVmax (f : LF) (s : State) : Out State := vecOp (Wf.vmax f) f s 2 false vMax
def execVabs (f : LF) (s : State) : Out State := vecOp (Wf.vabs f) f s 1 false vAbs
def execVand (f : LF) (s : State) : Out State := vecOp (Wf.vand f) f s 2 false vAnd
def execVor (f : LF) (s : State) : Out State := vecOp (Wf.vor f) f s 2 false vOr
def execVxor (f : LF) (s : State) : Out State := vecOp (Wf.vxor f) f s 2 false vXor
def execVandn (f : LF) (s : State) : Out State := vecOp (Wf.vandn f) f s 2 false vAndn
def execVshl (f : LF) (s : State) : Out State := vecOp (Wf.vshl f) f s 2 false vShl true
def execVshr (f : LF) (s : State) : Out State := vecOp (Wf.vshr f) f s 2 false vShr true
def execVsar (f : LF) (s : State) : Out State := vecOp (Wf.vsar f) f s 2 false vSar true
def execVrol (f : LF) (s : State) : Out State := vecOp (Wf.vrol f) f s 2 false vRol true
def execVpopc (f : LF) (s : State) : Out State := vecOp (Wf.vpopc f) f s 1 false vPopc
def execVclz (f : LF) (s : State) : Out State := vecOp (Wf.vclz f) f s 1 false vClz
def execVbrev (f : LF) (s : State) : Out State := vecOp (Wf.vbrev f) f s 1 false vBrev
def execVmov (f : LF) (s : State) : Out State := vecOp (Wf.vmov f) f s 1 false vMov

def execVaddShort (f : SF) (s : State) : Out State := shortVec f s true false fun l => vecOp (Wf.vadd l) l s 2 false vAdd
def execVsubShort (f : SF) (s : State) : Out State := shortVec f s true false fun l => vecOp (Wf.vsub l) l s 2 false vSub
def execVmulShort (f : SF) (s : State) : Out State := shortVec f s true false fun l => vecOp (Wf.vmul l) l s 2 false vMul
def execVmulhShort (f : SF) (s : State) : Out State := shortVec f s true false fun l => vecOp (Wf.vmulh l) l s 2 false vMulh
def execVminShort (f : SF) (s : State) : Out State := shortVec f s true false fun l => vecOp (Wf.vmin l) l s 2 false vMin
def execVmaxShort (f : SF) (s : State) : Out State := shortVec f s true false fun l => vecOp (Wf.vmax l) l s 2 false vMax
def execVabsShort (f : SF) (s : State) : Out State := shortVec f s true false fun l => vecOp (Wf.vabs l) l s 1 false vAbs
def execVandShort (f : SF) (s : State) : Out State := shortVec f s true false fun l => vecOp (Wf.vand l) l s 2 false vAnd
def execVorShort (f : SF) (s : State) : Out State := shortVec f s true false fun l => vecOp (Wf.vor l) l s 2 false vOr
def execVxorShort (f : SF) (s : State) : Out State := shortVec f s true false fun l => vecOp (Wf.vxor l) l s 2 false vXor
def execVandnShort (f : SF) (s : State) : Out State := shortVec f s true false fun l => vecOp (Wf.vandn l) l s 2 false vAndn
def execVshlShort (f : SF) (s : State) : Out State := shortVec f s true false fun l => vecOp (Wf.vshl l) l s 2 false vShl true
def execVshrShort (f : SF) (s : State) : Out State := shortVec f s true false fun l => vecOp (Wf.vshr l) l s 2 false vShr true
def execVsarShort (f : SF) (s : State) : Out State := shortVec f s true false fun l => vecOp (Wf.vsar l) l s 2 false vSar true
def execVrolShort (f : SF) (s : State) : Out State := shortVec f s true false fun l => vecOp (Wf.vrol l) l s 2 false vRol true
def execVpopcShort (f : SF) (s : State) : Out State := shortVec f s true false fun l => vecOp (Wf.vpopc l) l s 1 false vPopc
def execVclzShort (f : SF) (s : State) : Out State := shortVec f s true false fun l => vecOp (Wf.vclz l) l s 1 false vClz
def execVbrevShort (f : SF) (s : State) : Out State := shortVec f s true false fun l => vecOp (Wf.vbrev l) l s 1 false vBrev
def execVmovShort (f : SF) (s : State) : Out State := shortVec f s true false fun l => vecOp (Wf.vmov l) l s 1 false vMov

end Sys2Proof.Machine
end

