-- ==== Sys2Proof/Machine/Float.lean ====
section
/-! DEFINITION. The float instructions of the vector engine, group 0x3 (R109-R111, R230-R234). -/

namespace Sys2Proof.Machine

/-! ### Operands -/

/-- An operand after any flush under FTZ (R87) and negation (R223), as bits. -/
def fbits (e : Env) (neg : Bool) (x : Nat) : Nat :=
  let w := e.ty.bits
  let x := x % 2 ^ w
  let x := if e.ftz && ftzTy e.ty && isSubnormal e.ty x then x / 2 ^ (w - 1) * 2 ^ (w - 1) else x
  if neg then x ^^^ 2 ^ (w - 1) else x

def fval (e : Env) (neg : Bool) (x : Nat) : FV := fvOf e.ty (fbits e neg x)

/-- An exact result with its flags, rounded once (R91-R93); signalling inputs set NV (R86). -/
def fround (e : Env) (ins : List FV) (r : FV × Nat) : Nat × Nat :=
  let x := roundTo e.mode e.sr e.ty e.sat e.ftz r.1
  (x.1, x.2 ||| r.2 ||| orAll (ins.map snan))

def Env.down (e : Env) : Bool := e.mode == .rdn

/-! ### Arithmetic (R230); na and nc are the modifiers of R223 -/

def fAdd (na nc : Bool) (e : Env) (x : List Nat) : Nat × Nat :=
  let a := fval e na (arg x 0)
  let b := fval e nc (arg x 1)
  fround e [a, b] (FV.add e.down a b)

def fSub (na nc : Bool) (e : Env) (x : List Nat) : Nat × Nat :=
  let a := fval e na (arg x 0)
  let b := fval e nc (arg x 1)
  fround e [a, b] (FV.add e.down a b.negate)

def fMul (na nc : Bool) (e : Env) (x : List Nat) : Nat × Nat :=
  let a := fval e na (arg x 0)
  let b := fval e nc (arg x 1)
  fround e [a, b] (FV.mul a b)

def fMa (na nc : Bool) (e : Env) (x : List Nat) : Nat × Nat :=
  let a := fval e na (arg x 0)
  let b := fval e false (arg x 1)
  let c := fval e nc (arg x 2)
  let p := FV.mul a b
  let r := FV.add e.down p.1 c
  fround e [a, b, c] (r.1, p.2 ||| r.2)

def fDiv (na nc : Bool) (e : Env) (x : List Nat) : Nat × Nat :=
  let a := fval e na (arg x 0)
  let b := fval e nc (arg x 1)
  fround e [a, b] (FV.div a b)

def fSqrt (e : Env) (x : List Nat) : Nat × Nat :=
  let a := fval e false (arg x 0)
  fround e [a] (FV.sqrt a)

/-- R231: -0 is below +0. -/
def fLess (t : Ty) (a b : Nat) : Bool :=
  let c := FV.cmp (fvOf t a) (fvOf t b)
  decide (c < 0) || (decide (c = 0) && (fvOf t a).neg? && !(fvOf t b).neg?)

/-- FMIN and FMAX of two encodings (R231). -/
def fPick (t : Ty) (mx : Bool) (a b : Nat) : Nat :=
  if (fvOf t a).isNan then (if (fvOf t b).isNan then canonNan t else b)
  else if (fvOf t b).isNan then a
  else if mx then (if fLess t a b then b else a) else (if fLess t b a then b else a)

def fMinMax (mx na nc : Bool) (e : Env) (x : List Nat) : Nat × Nat :=
  let a := fbits e na (arg x 0)
  let b := fbits e nc (arg x 1)
  (fPick e.ty mx a b, snan (fvOf e.ty a) ||| snan (fvOf e.ty b))

/-! ### Compares (R232) -/

def cmpFloat (cc : Nat) (a b : FV) : Bool × Nat :=
  let un := a.isNan || b.isNan
  let c := FV.cmp a b
  let sn := snan a ||| snan b
  let q := if un then flNV else 0
  match cc with
  | 0 => (!un && c == 0, sn)
  | 1 => (un || c != 0, sn)
  | 2 => (!un && decide (c < 0), q)
  | 3 => (!un && decide (c ≤ 0), q)
  | 4 => (!un && decide (c > 0), q)
  | 5 => (!un && decide (c ≥ 0), q)
  | 6 => (un, sn)
  | _ => (!un, sn)

def execFcmp (f : LF) (s : State) : Out State :=
  startVec s (Wf.fcmp f) f (srcSlots f.ty [f.sa, f.sb]) {} fun a g r lanes =>
    let e := envOf f g f.ty false 0 0
    let res := lanes.map fun l =>
      (l, cmpFloat f.ext.toNat (fval e (f.mod.getLsbD 1) (r.src 0 f.lit f.ty f.sa l)) (fval e (f.mod.getLsbD 2) (r.src 1 f.lit f.ty f.sb l)))
    let m := maskOf ((res.filter fun p => p.2.1).map Prod.fst)
    vecEnd s a g f false (res.map fun p => (p.1, p.2.2)) fun g fl => g.postSF f.dst m fl

/-! ### Special functions (R110, R111) -/

/-- The cases of R110 that are exact, for a numeric input: 0 FRCP, 1 FRSQ, 2 FEXP2, 3 FLOG2, 4 FSIN,
5 FCOS, 6 FTANH. -/
def specialExact (fn : Nat) (x : FV) : Option (FV × Nat) :=
  match x with
  | .nan _ => some (.nan false, 0)
  | .inf n =>
    match fn with
    | 0 => some (.fin n 0 0 false, 0)
    | 1 => some (if n then (.nan false, flNV) else (.fin false 0 0 false, 0))
    | 2 => some (if n then .fin false 0 0 false else .inf false, 0)
    | 3 => some (if n then (.nan false, flNV) else (.inf false, 0))
    | 6 => some (FV.fin n 1 0 false, 0)
    | _ => some (.nan false, flNV)
  | .fin n m e _ =>
    match fn with
    | 0 => if m = 0 then some (.inf n, flDZ) else none
    | 1 => if m = 0 then some (.inf n, flDZ) else if n then some (.nan false, flNV) else none
    | 2 =>
      -- an integer input: the exact power of two
      let k := (-e).toNat
      if m = 0 then some (FV.ofInt 1 0, 0)
      else if m % 2 ^ k ≠ 0 then none
      else
        let v := min (if e ≥ 0 then (if Nat.log2 m + e.toNat > 12 then 5000 else m * 2 ^ e.toNat) else m / 2 ^ k) 5000
        some (FV.ofInt 1 (if n then -(v : Int) else (v : Int)), 0)
    | 3 => if m = 0 then some (.inf true, flDZ)
           else if n then some (.nan false, flNV)
           else if FV.cmp x (FV.ofInt 1 0) = 0 then some (.fin false 0 0 false, 0) else none
    | 4 => if m = 0 then some (.fin n 0 0 false, 0) else none
    | 6 =>
      if m = 0 then some (.fin n 0 0 false, 0)
      else if FV.cmp (.fin false (10 * m) e false) (FV.ofInt 91 0) ≥ 0 then some (FV.fin n 1 0 false, flNX)
      else none
    | _ => none

/-- The rational number of a finite value. -/
def FV.rat : FV → Rat
  | .fin n m e _ =>
    let x : Rat := if e ≥ 0 then ((m * 2 ^ e.toNat : Nat) : Rat) else (m : Rat) / ((2 ^ (-e).toNat : Nat) : Rat)
    if n then -x else x
  | _ => 0

/-- 2^k. -/
def pow2 (k : Int) : Rat := if k ≥ 0 then ((2 ^ k.toNat : Nat) : Rat) else 1 / ((2 ^ (-k).toNat : Nat) : Rat)

/-- The exponent of the unit in the last place of a type at a magnitude of 2^k (R110). -/
def ulpAt (t : Ty) (k : Int) : Rat :=
  let (fb, _, bias) := fmtOf t
  pow2 (max (k - fb) (1 - (bias : Int) - fb))

/-- The exponent of the leading bit of a finite non-zero value. -/
def FV.top : FV → Int
  | .fin _ m e _ => e + Nat.log2 m
  | _ => 0

/-! Fixed-point numbers with 400 bits after the point. The functions of R110 are evaluated in them with an error far
below 2^-200, and the bounds are measured from there (assumption 9). -/

def one400 : Int := 2 ^ 400

/-- A finite value in fixed point. -/
def FV.fix : FV → Int
  | .fin n m e _ =>
    let x : Int := if e + 400 ≥ 0 then (m * 2 ^ (e + 400).toNat : Nat) else (m / 2 ^ (-(e + 400)).toNat : Nat)
    if n then -x else x
  | _ => 0

def fixMul (x y : Int) : Int := x * y / one400
def fixDiv (x y : Int) : Int := x * one400 / y

/-- The value of a fixed-point number times 2^k. -/
def fixFV (x : Int) (k : Int) : FV := .fin (decide (x < 0)) x.natAbs (k - 400) true

/-- Terms t, t·y/(d(d+1)), … of a series whose denominators grow by factorials, d rising by 2. -/
def factSum : Nat → Int → Int → Nat → Int
  | 0, _, _, _ => 0
  | n + 1, t, y, d => t + factSum n (fixMul t y / ((d * (d + 1) : Nat) : Int)) y (d + 2)

/-- Terms t/d, t·y/(d+2), … of a series of odd denominators. -/
def oddSum : Nat → Int → Int → Nat → Int
  | 0, _, _, _ => 0
  | n + 1, t, y, d => t / (d : Int) + oddSum n (fixMul t y) y (d + 2)

/-- exp x = cosh x + sinh x, for |x| ≤ 1. -/
def fixExp (x : Int) : Int := factSum 45 one400 (fixMul x x) 1 + factSum 45 x (fixMul x x) 2

def fixAtanh (x : Int) : Int := oddSum 180 x (fixMul x x) 1
def fixLn2 : Int := 2 * fixAtanh (one400 / 3)
/-- Machin's formula. -/
def fixAtanInv (n : Nat) : Int := oddSum 90 (one400 / (n : Int)) (-(one400 / ((n * n : Nat) : Int))) 1
def fixPi : Int := 16 * fixAtanInv 5 - 4 * fixAtanInv 239

/-- An angle brought to between -pi and pi. -/
def fixReduce (x : Int) : Int := (x + fixPi) % (2 * fixPi) - fixPi

/-- tanh x for |x| < 16. -/
def fixTanh (x : Int) : Int :=
  let sq := fun (y : Int) => fixMul y y
  let e := sq (sq (sq (sq (sq (fixExp (x / 16))))))
  fixDiv (e - one400) (e + one400)

/-- The exact value of FEXP2, FLOG2, FSIN, FCOS or FTANH, as nearly as the fixed point holds it; a power of two is
taken no further than all types have over- or underflowed. -/
def specialValue (fn : Nat) (x : FV) : FV :=
  match x with
  | .fin n m e _ =>
    let y := x.fix
    match fn with
    | 2 =>
      let i := y / one400
      fixFV (fixExp (fixMul (y - i * one400) fixLn2)) (max (-5000) (min 5000 i))
    | 3 =>
      let f := (FV.fin n m (-(Nat.log2 m : Int)) false).fix
      fixFV ((e + Nat.log2 m) * one400 + fixDiv (2 * fixAtanh (fixDiv (f - one400) (f + one400))) fixLn2) 0
    | 4 => let a := fixReduce y; fixFV (factSum 80 a (-(fixMul a a)) 2) 0
    | 5 => let a := fixReduce y; fixFV (factSum 80 one400 (-(fixMul a a)) 1) 0
    | _ => fixFV (fixTanh y) 0
  | v => v

/-- The bound of R110 on the error of FEXP2, FLOG2, FSIN, FCOS and FTANH, for an input and the exact value. -/
def specialBound (fn : Nat) (t : Ty) (x v : FV) : Rat :=
  let ulp := ulpAt t v.top
  match fn with
  | 2 => if t = .f32 then (if -126 ≤ x.rat ∧ x.rat ≤ 128 then 2 * ulp else ulpAt t (-5000)) else ulp
  | 3 => if t = .f32 then (if 1 / 2 ≤ x.rat ∧ x.rat ≤ 2 then pow2 (-22) else 2 * ulp) else ulp
  | 6 => if t = .f32 then 2 * ulp else ulp
  | _ => pow2 (if t = .f32 then -21 else if t = .h16 then -10 else -7)

/-- Whether a result keeps R110's bound, for a finite input that is no exact case. -/
def withinBound (fn : Nat) (t : Ty) (x y : FV) : Bool :=
  match y with
  | .nan _ => false
  | .inf n => fn == 2 && !n && decide ((specialValue 2 x).rat + specialBound 2 t x (specialValue 2 x) ≥ pow2 ((fmtOf t).2.2 + 1))
  | .fin ny _ _ _ =>
    match fn with
    | 0 =>
      let k := (FV.div (FV.ofInt 1 0) x).1
      decide (|y.rat * x.rat - 1| ≤ ulpAt t k.top * |x.rat|)
    | 1 =>
      let k := (FV.sqrt (FV.div (FV.ofInt 1 0) x).1).1
      let u := ulpAt t k.top * (if t = .f32 then 2 else 1)
      let lo := y.rat - u
      let hi := y.rat + u
      !ny && (decide (lo ≤ 0) || decide (lo * lo * x.rat ≤ 1)) && decide (hi * hi * x.rat ≥ 1)
    | _ =>
      let v := specialValue fn x
      !(fn == 2 && ny) && decide (|y.rat - v.rat| ≤ specialBound fn t x v)

/-- The nearest value of a special function. -/
def specialNear (fn : Nat) (x : FV) : FV :=
  match fn with
  | 0 => (FV.div (FV.ofInt 1 0) x).1
  | 1 => (FV.sqrt (FV.div (FV.ofInt 1 0) x).1).1
  | _ => specialValue fn x

/-- A returned value of a special function is not the exact result (R110). -/
def specialInexact (fn : Nat) (x y : FV) : Bool :=
  match fn, x with
  | 0, _ => y.rat * x.rat != 1
  | 1, _ => y.rat * y.rat * x.rat != 1
  | 3, .fin _ m _ _ => m != 2 ^ Nat.log2 m || y.rat != x.top
  | 5, _ => !x.isZero || y.rat != 1
  | _, _ => true

/-- A special function (R110): the exact cases; else the implementation's value (assumption 9), which keeps its bound,
or the nearest one where it would not. NX, OF and UF follow from the value returned. -/
def fSpecial (fn : Nat) (e : Env) (x : List Nat) : Nat × Nat :=
  let b := fbits e false (arg x 0)
  let v := fvOf e.ty b
  let e' := { e with mode := .rne, sr := 0, sat := false }
  match specialExact fn v with
  | some r => fround e' [v] r
  | none =>
    let y := Config.special fn e.ty.code e.ftz b % 2 ^ e.ty.bits
    let yv := fvOf e.ty y
    if withinBound fn e.ty v yv then
      let r := fround e' [v] (yv, 0)
      let inf := y == infBits e.ty false || y == infBits e.ty true
      let inexact := inf || specialInexact fn v yv
      (r.1, r.2 ||| (if inf then flOF else 0) ||| (if inexact then flNX else 0) |||
        (if inexact && (isSubnormal e.ty y || yv.isZero) then flUF else 0))
    else fround e' [v] (specialNear fn v, 0)

/-! ### FCLASS, FSCALE, FRINT (R233, R234) -/

/-- The class word of an encoding (R233). -/
def classWord (t : Ty) (x : Nat) : Nat :=
  let x := x % 2 ^ t.bits
  let sgn := x / 2 ^ (t.bits - 1) * 8
  match fvOf t x with
  | .nan sig => sgn + (if sig then 5 else 4)
  | .inf _ => sgn + 3
  | .fin _ m e _ =>
    let kind := if m = 0 then 0 else if isSubnormal t x then 1 else 2
    let intv := m == 0 || e ≥ 0 || m % 2 ^ (-e).toNat == 0
    let pow := m != 0 && m == 2 ^ Nat.log2 m
    let logm := if m = 0 then 0 else wrapTo 12 (e + Nat.log2 m)
    kind + sgn + 16 + bit intv * 32 + bit pow * 64 + logm * 65536

def execFclass (f : LF) (s : State) : Out State :=
  startVec s (Wf.fclass f) f (srcSlots f.ty [f.sa]) {} fun a g r lanes =>
    vecDone s a g f false 1 (lanes.map fun l => (l, [BitVec.ofNat 32 (classWord f.ty (r.src 0 f.lit f.ty f.sa l))], 0))

/-- A value times 2^b; beyond 5000 every type has overflowed or underflowed. -/
def FV.scale (x : FV) (b : Int) : FV :=
  match x with
  | .fin n m e st => .fin n m (e + max (-5000) (min 5000 b)) st
  | v => v

def execFscale (f : LF) (s : State) : Out State :=
  startVec s (Wf.fscale f) f (srcSlots f.ty [f.sa] ++ srcSlots .i32 [f.sb]) {} fun a g r lanes =>
    vecDone s a g f (isSr f g true) (if f.ty.wide then 2 else 1) (lanes.map fun l =>
      let e := envOf f g f.ty true l 0
      let x := fval e false (r.src 0 f.lit f.ty f.sa l)
      let y := fround e [x] (x.scale (signed 32 (r.src 1 f.lit .i32 f.sb l)), 0)
      (l, slotWords f.ty y.1, y.2))

def fRint (e : Env) (x : List Nat) : Nat × Nat :=
  match fval e false (arg x 0) with
  | .fin n m ex st =>
    let (k, inexact) := roundInt e.mode e.sr n m ex st
    ((roundTo .rz 0 e.ty false false (.fin n k.natAbs 0 false)).1, if inexact then flNX else 0)
  | v => fround { e with sat := false } [v] (v, 0)

def execFadd (f : LF) (s : State) : Out State := vecOp (Wf.fadd f) f s 2 true (fAdd (f.mod.getLsbD 1) (f.mod.getLsbD 2))
def execFsub (f : LF) (s : State) : Out State := vecOp (Wf.fsub f) f s 2 true (fSub (f.mod.getLsbD 1) (f.mod.getLsbD 2))
def execFmul (f : LF) (s : State) : Out State := vecOp (Wf.fmul f) f s 2 true (fMul (f.mod.getLsbD 1) (f.mod.getLsbD 2))
def execFma (f : LF) (s : State) : Out State := vecOp (Wf.fma f) f s 3 true (fMa (f.mod.getLsbD 1) (f.mod.getLsbD 2))
def execFmin (f : LF) (s : State) : Out State := vecOp (Wf.fmin f) f s 2 false (fMinMax false (f.mod.getLsbD 1) (f.mod.getLsbD 2))
def execFmax (f : LF) (s : State) : Out State := vecOp (Wf.fmax f) f s 2 false (fMinMax true (f.mod.getLsbD 1) (f.mod.getLsbD 2))
def execFrcp (f : LF) (s : State) : Out State := vecOp (Wf.frcp f) f s 1 false (fSpecial 0)
def execFrsq (f : LF) (s : State) : Out State := vecOp (Wf.frsq f) f s 1 false (fSpecial 1)
def execFsqrt (f : LF) (s : State) : Out State := vecOp (Wf.fsqrt f) f s 1 true fSqrt
def execFdiv (f : LF) (s : State) : Out State := vecOp (Wf.fdiv f) f s 2 true (fDiv (f.mod.getLsbD 1) (f.mod.getLsbD 2))
def execFexp2 (f : LF) (s : State) : Out State := vecOp (Wf.fexp2 f) f s 1 false (fSpecial 2)
def execFlog2 (f : LF) (s : State) : Out State := vecOp (Wf.flog2 f) f s 1 false (fSpecial 3)
def execFsin (f : LF) (s : State) : Out State := vecOp (Wf.fsin f) f s 1 false (fSpecial 4)
def execFcos (f : LF) (s : State) : Out State := vecOp (Wf.fcos f) f s 1 false (fSpecial 5)
def execFtanh (f : LF) (s : State) : Out State := vecOp (Wf.ftanh f) f s 1 false (fSpecial 6)
def execFrint (f : LF) (s : State) : Out State := vecOp (Wf.frint f) f s 1 true fRint

def execFaddShort (f : SF) (s : State) : Out State := shortVec f s true true fun l => vecOp (Wf.fadd l) l s 2 true (fAdd false false)
def execFsubShort (f : SF) (s : State) : Out State := shortVec f s true true fun l => vecOp (Wf.fsub l) l s 2 true (fSub false false)
def execFmulShort (f : SF) (s : State) : Out State := shortVec f s true true fun l => vecOp (Wf.fmul l) l s 2 true (fMul false false)
def execFminShort (f : SF) (s : State) : Out State := shortVec f s true false fun l => vecOp (Wf.fmin l) l s 2 false (fMinMax false false false)
def execFmaxShort (f : SF) (s : State) : Out State := shortVec f s true false fun l => vecOp (Wf.fmax l) l s 2 false (fMinMax true false false)
def execFrcpShort (f : SF) (s : State) : Out State := shortVec f s true false fun l => vecOp (Wf.frcp l) l s 1 false (fSpecial 0)
def execFrsqShort (f : SF) (s : State) : Out State := shortVec f s true false fun l => vecOp (Wf.frsq l) l s 1 false (fSpecial 1)
def execFsqrtShort (f : SF) (s : State) : Out State := shortVec f s true true fun l => vecOp (Wf.fsqrt l) l s 1 true fSqrt
def execFexp2Short (f : SF) (s : State) : Out State := shortVec f s true false fun l => vecOp (Wf.fexp2 l) l s 1 false (fSpecial 2)
def execFlog2Short (f : SF) (s : State) : Out State := shortVec f s true false fun l => vecOp (Wf.flog2 l) l s 1 false (fSpecial 3)
def execFsinShort (f : SF) (s : State) : Out State := shortVec f s true false fun l => vecOp (Wf.fsin l) l s 1 false (fSpecial 4)
def execFcosShort (f : SF) (s : State) : Out State := shortVec f s true false fun l => vecOp (Wf.fcos l) l s 1 false (fSpecial 5)
def execFtanhShort (f : SF) (s : State) : Out State := shortVec f s true false fun l => vecOp (Wf.ftanh l) l s 1 false (fSpecial 6)
def execFrintShort (f : SF) (s : State) : Out State := shortVec f s true true fun l => vecOp (Wf.frint l) l s 1 true fRint

end Sys2Proof.Machine
end

