-- ==== Sys2Proof/Machine/Cross.lean ====
section
/-! DEFINITION. Conversions, packing and the cross-lane instructions, group 0x4 (R101, R102, R235-R247). -/

namespace Sys2Proof.Machine

/-! ### Conversions (R94, R235-R237) -/

/-- One conversion from a type into the environment's: the slot and the flags. -/
def convert (e : Env) (st : Ty) (x : Nat) : Nat × Nat :=
  if st.isInt then
    let v := intOf st x
    if e.ty.isInt then intResult e.ty e.sat v else fround e [] (FV.ofInt v 0, 0)
  else
    let v := fval { e with ty := st } false x
    if e.ty.isInt then
      let r := floatToInt e.mode e.sr e.ty v
      (r.1, r.2 ||| snan v)
    else fround e [v] (v, 0)

def execCvt (f : LF) (s : State) : Out State :=
  startVec s (Wf.cvt f) f (srcSlots f.sty [f.sa]) {} fun a g r lanes =>
    vecDone s a g f (isSr f g true) (if f.ty.wide then 2 else 1) (lanes.map fun l =>
      let y := convert (envOf f g f.ty true l 0) f.sty (r.src 0 f.lit f.sty f.sa l)
      (l, slotWords f.ty y.1, y.2))

/-- The value of a run of registers, one for each element. -/
def runSlot (ws : List W32) (wide : Bool) (e : Nat) : Nat :=
  if wide then (ws.getD (2 * e) 0).toNat + (ws.getD (2 * e + 1) 0).toNat * 2 ^ 32 else (ws.getD e 0).toNat

def vnum : Spec → Nat
  | .v n => n.val
  | _ => 0

def execPack (f : LF) (s : State) : Out State :=
  let k := packCount f.ty
  let len := runLen k f.sty
  startVec s (Wf.pack f) f [(f.sa, len)] {} fun a g r lanes =>
    vecDone s a g f (isSr f g true) 1 (lanes.map fun l =>
      let ws := r.run 0 l (vnum f.sa) len
      let ys := (List.range k).map fun e => convert (envOf f g f.ty true l e) f.sty (runSlot ws f.sty.wide e)
      (l, packWords f.ty k (ys.map Prod.fst), orAll (ys.map Prod.snd)))

def execUnpk (f : LF) (s : State) : Out State :=
  let k := packCount f.sty
  startVec s (Wf.unpk f) f [(f.sa, 1)] {} fun a g r lanes =>
    vecDone s a g f (isSr f g true) (runLen k f.ty) (lanes.map fun l =>
      let x := r.src 0 f.lit .x32 f.sa l
      let ys := (List.range k).map fun e => convert (envOf f g f.ty true l e) f.sty (elemOf k e f.sa x)
      (l, ys.flatMap fun y => slotWords f.ty y.1, orAll (ys.map Prod.snd)))

/-! ### SRSEED and SRGET (R101, R102) -/

def execSrseed (f : LF) (s : State) : Out State :=
  startOp s (Wf.srseed f) f [(f.sa, 1), (f.sb, 1)] fun a g r =>
    .next (s.finish a { g with srSeed := r.uni 0 f.lit f.sa, srCtr := r.uni 1 f.lit f.sb } f.sw)

def execSrget (f : LF) (s : State) : Out State :=
  startOp s (Wf.srget f) f [] fun a g _ =>
    .next (s.finish a (g.postS f.dst (if f.ext = 0 then g.srSeed else g.srCtr)) f.sw)

/-! ### Shuffles (R240-R243) -/

/-- The index operand of a lane (R240). -/
def Rd.index (r : Rd) (f : LF) (lane : Nat) : Nat := r.src 1 f.lit .n32 f.sb lane

/-- The segment size of a code (R241). -/
def segOf (w code : Nat) : Nat := if code = 0 then w else min w (2 * 2 ^ code)

/-- The source lane of a shuffle (R241): 0 SHFL, 1 SHFLX, 2 SHFLUP, 3 SHFLDN. -/
def shflSource (kind w code lane k : Nat) : Nat :=
  let sz := segOf w code
  let p := lane % sz
  let base := lane - p
  match kind with
  | 0 => base + k % sz
  | 1 => base + (p ^^^ (k % sz))
  | 2 => if p ≥ k then lane - k else lane
  | _ => if p + k < sz then lane + k else lane

def shuffle (wf : Bool) (f : LF) (s : State) (kind : Nat) : Out State :=
  let from_ := fun (r : Rd) (l : Nat) => shflSource kind r.g.width f.mod.toNat l (r.index f l)
  startVec s wf f (srcSlots .n32 [f.sb]) { srcs := srcSlots f.ty [f.sa], lanes := fun r ls => maskOf (ls.map (from_ r)) } fun a g r lanes =>
    vecDone s a g f false (if f.ty.wide then 2 else 1) (lanes.map fun l =>
      (l, slotWords f.ty (r.src 0 f.lit f.ty f.sa (from_ r l)), 0))

def execShfl (f : LF) (s : State) : Out State := shuffle (Wf.shfl f) f s 0
def execShflx (f : LF) (s : State) : Out State := shuffle (Wf.shflx f) f s 1
def execShflup (f : LF) (s : State) : Out State := shuffle (Wf.shflup f) f s 2
def execShfldn (f : LF) (s : State) : Out State := shuffle (Wf.shfldn f) f s 3
def execShflShort (f : SF) (s : State) : Out State := shortVec f s true false fun l => shuffle (Wf.shfl l) l s 0

/-- PUT (R242): a later sender's value is final. -/
def execPut (f : LF) (s : State) : Out State :=
  startVec s (Wf.put f) f (srcSlots f.ty [f.sa] ++ srcSlots .n32 [f.sb]) {} fun a g r lanes =>
    let sent := lanes.map fun l => (r.index f l % g.width, slotWords f.ty (r.src 0 f.lit f.ty f.sa l))
    vecDone s a g f false (if f.ty.wide then 2 else 1) (sent.map fun p => (p.1, p.2, 0))

def broadcast (wf : Bool) (f : LF) (s : State) : Out State :=
  let from_ := fun (r : Rd) => r.index f 0 % r.g.width
  startVec s wf f [(f.sb, 1)] { srcs := srcSlots f.ty [f.sa], lanes := fun r ls => if ls.isEmpty then 0 else maskOf [from_ r] } fun a g r lanes =>
    vecDone s a g f false (if f.ty.wide then 2 else 1) (lanes.map fun l =>
      (l, slotWords f.ty (r.src 0 f.lit f.ty f.sa (from_ r)), 0))

def execBcast (f : LF) (s : State) : Out State := broadcast (Wf.bcast f) f s
def execBcastShort (f : SF) (s : State) : Out State := shortVec f s true false fun l => broadcast (Wf.bcast l) l s

/-! ### Votes and MATCH (R244, R245) -/

/-- The bits of a lane's element. -/
def Rd.elem (r : Rd) (f : LF) (lane : Nat) : Nat := r.src 0 f.lit f.ty f.sa lane % 2 ^ f.ty.bits

def vote (wf : Bool) (f : LF) (s : State) (fn : List Nat → (Nat → Bool) → W64) : Out State :=
  startVec s wf f (srcSlots f.ty [f.sa]) {} fun a g r lanes =>
    .next (s.finish a (g.postS f.dst (fn lanes fun l => r.elem f l != 0)) f.sw)

def anyOf (lanes : List Nat) (p : Nat → Bool) : W64 := if lanes.any p then 1 else 0
def allOf (lanes : List Nat) (p : Nat → Bool) : W64 := if lanes.all p then 1 else 0

def execVany (f : LF) (s : State) : Out State := vote (Wf.vany f) f s anyOf
def execVall (f : LF) (s : State) : Out State := vote (Wf.vall f) f s allOf
def execBallot (f : LF) (s : State) : Out State := vote (Wf.ballot f) f s maskWhere
def execVanyShort (f : SF) (s : State) : Out State := shortVec f s true false fun l => vote (Wf.vany l) l s anyOf
def execVallShort (f : SF) (s : State) : Out State := shortVec f s true false fun l => vote (Wf.vall l) l s allOf
def execBallotShort (f : SF) (s : State) : Out State := shortVec f s true false fun l => vote (Wf.ballot l) l s maskWhere

/-- Two elements match (R245). -/
def matches' (flt : Bool) (t : Ty) (x y : Nat) : Bool :=
  if flt then !(fvOf t x).isNan && !(fvOf t y).isNan && FV.cmp (fvOf t x) (fvOf t y) == 0 else x == y

def execMatchLanes (f : LF) (s : State) : Out State :=
  startVec s (Wf.matchLanes f) f (srcSlots f.ty [f.sa]) {} fun a g r lanes =>
    vecDone s a g f false 2 ((List.range g.width).map fun l =>
      let m : W64 := if lanes.contains l then maskWhere lanes fun j => matches' (f.ext == 1) f.ty (r.elem f l) (r.elem f j) else 0
      (l, slotWords .n64 m.toNat, 0))

/-! ### Reductions (R246) -/

/-- The exact sum of float terms. -/
def sumFV (down : Bool) (xs : List FV) : FV × Nat :=
  if xs.any FV.isNan then (.nan false, 0)
  else
    let infs := xs.filter fun x => match x with
      | .inf _ => true
      | _ => false
    match infs with
    | x :: r => if r.all (· == x) then (x, 0) else (.nan false, flNV)
    | [] =>
      match xs with
      | [] => (.fin false 0 0 false, 0)
      | x :: r =>
        let lo := xs.foldl (fun (m : Int) y => match y with
          | .fin _ _ e _ => min m e
          | _ => m) 0
        let t := xs.foldl (fun (t : Int) y => match y with
          | .fin n m e _ => t + (if n then -1 else 1) * ((m * 2 ^ (e - lo).toNat : Nat) : Int)
          | _ => t) 0
        if t ≠ 0 then (FV.ofInt t lo, 0)
        else if xs.all FV.isZero && r.all (fun y => y.neg? == x.neg?) then (.fin x.neg? 0 0 false, 0)
        else (.fin down 0 0 false, 0)

/-- The value of a reduction operation over a list of elements: the slot and the flags. -/
def reduce (op : Nat) (e : Env) (xs : List Nat) : Nat × Nat :=
  let t := e.ty
  let is := xs.map (intOf t)
  let pick := fun (mx : Bool) =>
    match xs with
    | [] => (infBits t mx, 0)
    | _ =>
      let bs := xs.map (fbits e false)
      (bs.foldl (fPick t mx) (bs.headD 0) |> fun b => if (fvOf t b).isNan then canonNan t else b, orAll (bs.map fun b => snan (fvOf t b)))
  match op with
  | 0 => (slotOf t (is.foldl (· + ·) 0), 0)
  | 1 => (slotOf t (is.foldl min (intMax t)), 0)
  | 2 => (slotOf t (is.foldl max (intMin t)), 0)
  | 3 => (slotOf t ((xs.foldl (· &&& ·) (2 ^ t.bits - 1) : Nat) : Int), 0)
  | 4 => (slotOf t ((xs.foldl (· ||| ·) 0 : Nat) : Int), 0)
  | 5 => (slotOf t ((xs.foldl (· ^^^ ·) 0 : Nat) : Int), 0)
  | 6 =>
    let vs := xs.map (fval e false)
    fround e vs (sumFV e.down vs)
  | 7 => pick false
  | _ => pick true

/-- The environment of a reduction's result, in a lane. -/
def reduxEnv (f : LF) (g : Group) (op lane : Nat) : Env :=
  { envOf f g f.ty (op == 6) lane 0 with sat := gmSat g.gmode }

def execRedux (f : LF) (s : State) : Out State :=
  let op := f.mod.toNat
  startVec s (Wf.redux f) f (srcSlots f.ty [f.sa]) {} fun a g r lanes =>
    let y := reduce op (reduxEnv f g op 0) (lanes.map fun l => r.src 0 f.lit f.ty f.sa l)
    let x : W64 := if f.ty.isInt then BitVec.ofInt 64 (intOf f.ty y.1) else BitVec.ofNat 64 y.1
    -- the whole group's value: a fault names the active lanes
    vecEnd s a g f (isSr f g (op == 6)) (if lanes.isEmpty then [] else lanes.map fun l => (l, y.2)) fun g fl => g.postSF f.dst x fl

def execScan (f : LF) (s : State) : Out State :=
  let op := f.mod.toNat % 16
  let ex := f.mod.getLsbD 4
  startVec s (Wf.scan f) f (srcSlots f.ty [f.sa]) {} fun a g r lanes =>
    vecDone s a g f (isSr f g (op == 6)) (if f.ty.wide then 2 else 1) (lanes.map fun l =>
      let y := reduce op (reduxEnv f g op l) ((lanes.filter fun j => decide (j < l) || (!ex && j == l)).map fun j => r.src 0 f.lit f.ty f.sa j)
      (l, slotWords f.ty y.1, y.2))

end Sys2Proof.Machine
end

