-- ==== Sys2Proof/Machine/Report.lean ====
section
/-! DEFINITION. What the audit engine writes for every report: the sampling registers (R405), the areas
(R406, R410) and the exponent histograms (R206, R411). -/

namespace Sys2Proof.Machine

def State.audRegs (s : State) (ctx : Nat) : AudRegs := (s.aud.regs.find? fun r => r.ctx == ctx).getD { ctx := ctx }

def State.setAudRegs (s : State) (r : AudRegs) : State :=
  { s with aud := { s.aud with regs := r :: s.aud.regs.filter fun x => x.ctx != r.ctx } }

/-- Sampling and histograms are on for a tag (R402, R411). -/
def AudRegs.admits (r : AudRegs) (tag : Nat) : Bool :=
  r.actl.getLsbD 0 && tag != 0 && (tag &&& bitsOf r.afilt.toNat 31 16) == bitsOf r.afilt.toNat 15 0

/-- The exponent bin of a value (R411). -/
def expBin (v : FV) : Nat :=
  match v with
  | .nan _ => 67
  | .inf _ => 65
  | .fin _ m e _ =>
    if m = 0 then 66
    else
      let l : Int := e + Nat.log2 m
      if l ≥ 32 then 65 else if l < -32 then 64 else (l + 32).toNat

/-- Where an access of the audit engine to an area lands (R406, R410). -/
inductive Area where
  | at_ (key : Nat)
  | wait (num : Option Nat)
  | drop (cause : Nat)

/-- The place of a byte of a context's area, for an engine of a ridge. -/
def State.areaPlace (s : State) (ridge ctx va : Nat) : Area × State :=
  match s.translate ctx false .atomic va with
  | (.ok key pte, s) => if pteCoh pte && tierOf key == some 0 then (.at_ key, s) else (.drop 8, s)
  | (.fail 9, s) => (.drop 8, s)
  | (.fail 0, s) =>
    let (n, recd, s) := s.joinMerge (ridge / 12) ctx va 0 ridge none
    let s := match recd with
      | none => s
      | some joins => s.sendRec ridge { code := 0x0B, flags := if joins then 16 else 0, ctx := ctx, merge := n.getD 0
                                        d32 := BitVec.ofNat 64 va, d56 := BitVec.ofNat 64 s.time }
    (.wait n, s)
  | (.fail c, s) => (.drop c, s)
  | (.priv, s) => (.drop 5, s)

/-- The engine fault of a write to an area that is dropped (R406, R410). -/
def State.areaFault (s : State) (ridge : Nat) (r : EvRec) (va cause : Nat) : State :=
  let media := decide (mediaCause ≤ cause)
  s.sendRec ridge { r with code := 0x20, cause := if media then 0x0C else 0x0B, cls := 4, d32 := BitVec.ofNat 64 va
                           d40 := BitVec.ofNat 64 (if media then s.structAt (cause - mediaCause) else cause), d56 := BitVec.ofNat 64 s.time }

/-- The address of tag t's slot in an area (R410). -/
def AudRegs.slotVa (r : AudRegs) (tag : Nat) : Nat := r.aarea.toNat % 2 ^ 57 + 1024 * (tag % 64)

/-- An access of a ridge's audit engine to 8 bytes of an area: at once, or when it takes its place (R147). On an uncorrectable
line it is dropped, with the engine fault (R410). -/
def State.areaAct (s : State) (ridge : Nat) (r : EvRec) (now : Bool) (va key : Nat) (deed : Deed) : State :=
  match s.poisoned key 8 with
  | some l =>
    s.sendRec ridge { r with code := 0x20, cause := 0x0C, cls := 4, d32 := BitVec.ofNat 64 va, d40 := BitVec.ofNat 64 (s.structAt l)
                             d56 := BitVec.ofNat 64 s.time }
  | none =>
    let w : LateAccess := { cls := 4, op := 0, who := engineAgent, core := 12 * ridge, coh := true, key := key, deed := deed }
    if now then (s.placeIf fun x => x.cls == 4 && x.meets key 8).placeOne w else s.engineAct w

/-- A counter of an area goes up. -/
def addOne : Deed := .atom 8 0 .n64 1 0

/-- TAG, at 840 of a slot. -/
def tagDeed (tag : Nat) : Deed := .write (toLE 8 tag)

/-- A report's counter is incremented and its tag noted, or the report waits, or is lost with the engine fault (R411). The slot
lies in one page. -/
def State.report (s : State) (r : AudReport) : State :=
  let va := r.slot + r.off
  match s.areaPlace r.ridge r.ctx va with
  | (.at_ key, s) => (s.areaAct r.ridge r.rcd false va key addOne).areaAct r.ridge r.rcd false (r.slot + 840) (key + 840 - r.off) (tagDeed r.tag)
  | (.wait n, s) => { s with aud := { s.aud with reports := s.aud.reports ++ [{ r with wait := n }] } }
  | (.drop c, s) => (s.areaFault r.ridge r.rcd va c).areaFault r.ridge r.rcd (r.slot + 840) c

/-- The reports that waited for a merge entry: done, or lost with it. -/
def State.reportsAfter (s : State) (num cause : Nat) (lost : Bool) : State :=
  let mine := fun (r : AudReport) => r.wait == some num || r.wait.isNone
  let todo := s.aud.reports.filter mine
  let s := { s with aud := { s.aud with reports := s.aud.reports.filter fun r => !mine r } }
  todo.foldl (fun s r =>
    if lost && r.wait == some num then (s.areaFault r.ridge r.rcd (r.slot + r.off) cause).areaFault r.ridge r.rcd (r.slot + 840) cause else s.report r) s

/-- Values reported under a tag to a slot of a context's area (R206, R261, R411). -/
def State.reportAll (s : State) (ctx ridge : Nat) (by_ : Agent) (tag slot : Nat) (rcd : EvRec) (vals : List FV) : State :=
  vals.foldl (fun s v => s.report { ctx := ctx, ridge := ridge, by_ := by_, tag := tag, slot := slot, off := 256 + 8 * expBin v, rcd := rcd }) s

end Sys2Proof.Machine
end

