-- ==== Sys2Proof/Machine/Memory.lean ====
section
/-! DEFINITION. The memory engine: loads, stores, atomics, prefetch and discard (R112-R122, R195-R209,
R214, R215, R219), with watches and race detection (R398, R400, R401). -/

namespace Sys2Proof.Machine

/-! ### Address spaces -/

inductive Space where
  | glob | spad (w : Nat) | clu | chip | priv
  deriving DecidableEq, Repr

/-- The fields of a buffer record (R120). -/
structure Rcd where
  strict : Bool
  swz : Nat
  base : Nat
  tag : Nat
  extent : Nat
  swzp : Nat
  rowlen : Nat
  lstride : Int
  scale : Nat
  deriving DecidableEq, Repr

/-- A record from the values of its four registers. -/
def Rcd.ofRegs (x : List W64) : Rcd :=
  let r := fun i => (x.getD i 0).toNat
  { strict := r 0 / 2 ^ 63 == 1, swz := bitsOf (r 0) 62 60, base := bitsOf (r 0) 56 0, tag := bitsOf (r 1) 63 48
    extent := bitsOf (r 1) 47 0, swzp := bitsOf (r 2) 63 48, rowlen := bitsOf (r 2) 47 32
    lstride := signed 32 (bitsOf (r 2) 31 0), scale := bitsOf (r 3) 56 0 }

/-- The tag of the trace records of an access through a record (R390). -/
def Rcd.traceTag (rc : Rcd) (g : Group) : Nat := if rc.tag != 0 then rc.tag else g.trTag.toNat

/-- The number of an s register operand. -/
def snum : Spec → Nat
  | .s n => n.val
  | _ => 0

/-- k s registers from a specifier. -/
def Rd.sregs (r : Rd) (pos : Nat) (x : Spec) (k : Nat) : List W64 := (List.range k).map fun i => r.sreg (pos + i) (snum x + i)

def Rd.rcd (r : Rd) (x : Spec) : Rcd := Rcd.ofRegs (r.sregs 8 x 4)

/-- k s registers as sources of a hazard check. -/
def sRun (x : Spec) (k : Nat) : List (Spec × Nat) :=
  match x with
  | .s n => (List.range k).map fun i => (.s (Fin.ofNat 32 (n.val + i)), 1)
  | _ => []

/-- The swizzle (R199). -/
def Rcd.swizzle (r : Rcd) (o : Nat) : Nat :=
  if r.swz = 0 then o
  else
    let ub := r.swz + 2
    o ^^^ ((o / 2 ^ bitsOf r.swzp 5 0 % 2 ^ bitsOf r.swzp 8 6) * 2 ^ ub)

/-- R120, R199: a record that an access of n bytes may use. -/
def Rcd.valid (r : Rcd) (n : Nat) : Bool :=
  r.swz ≤ 4 && (r.swz == 0 ||
    (let ub := r.swz + 2
     7 ≤ bitsOf r.swzp 5 0 && ub + bitsOf r.swzp 8 6 ≤ 7 && bitsOf r.swzp 15 9 == 0 && n ≤ 2 ^ ub))

/-- The fields of a scratchpad window (R115). -/
def winBase (w : BitVec 128) : Nat := bitsOf w.toNat 18 0
def winSize (w : BitVec 128) : Nat := bitsOf w.toNat 50 32
def winScoff (w : BitVec 128) : Nat := bitsOf w.toNat 82 64
def winRowlen (w : BitVec 128) : Nat := bitsOf w.toNat 99 84
def winGeom (w : BitVec 128) : Nat := bitsOf w.toNat 101 100
def winFmt (w : BitVec 128) : Nat := bitsOf w.toNat 105 102

def Team.window (t : Team) (w : Nat) : BitVec 128 := t.windows.getD w 0

/-- A memory access: its space and record, its size in bytes, and what it does. -/
structure Req where
  sp : Space
  rcd : Rcd := Rcd.ofRegs []
  n : Nat
  path : Option Nat
  acc : Acc
  /-- DISCARD acts at BASE + o (R199) -/
  plain : Bool := false

/-- An access of n bytes at offset o is in bounds (R113-R117, R121). -/
def State.inBounds (s : State) (a : Agent) (g : Group) (q : Req) (o : Int) : Bool :=
  let lim : Nat :=
    match q.sp with
    | .glob => q.rcd.extent
    | .spad w => if isCol a then 0 else ((s.teamOf g).map fun t => winSize (t.window w)).getD 0
    | .clu => if isCol a then 0 else ((s.teamOf g).map fun t => t.cx * t.cy * t.lent).getD 0
    | .chip => ((s.ctx? (s.ctxOf a)).map fun c => 4 * c.ksize.toNat).getD 0
    | .priv => if isCol a then 0 else ((s.ctx? (s.ctxOf a)).map fun c => c.psize.toNat).getD 0
  decide (0 ≤ o) && decide (o + q.n ≤ lim)

/-- The cluster's part that holds a cluster offset (R116), whether or not its team has retired. -/
def State.cluAt (s : State) (ctx tlin o : Nat) : Nat :=
  match s.team? ctx tlin with
  | some t =>
    let (core, base) := t.parts.getD (o / max 1 t.lent) (t.core, t.lentBase)
    spadKey core (base + o % max 1 t.lent)
  | none => 0

/-- The chip scratchpad that holds a chip offset (R117). -/
def State.chipAt (s : State) (ctx o : Nat) : Nat :=
  match s.ctx? ctx with
  | some c => chipKey (o / max 1 c.ksize.toNat) (c.kbase + o % max 1 c.ksize.toNat)
  | none => 0

/-- Where a lane's access goes: for paged spaces virtual addresses, else keys, with lengths. -/
def State.locate (s : State) (a : Agent) (g : Group) (q : Req) (lane : Nat) (o : Nat) : List (Nat × Nat) :=
  match q.sp with
  | .glob => [((q.rcd.base + (if q.plain then o else q.rcd.swizzle o)) % 2 ^ 64, q.n)]
  | .spad w =>
    match s.teamOf g with
    | some t => [(spadKey t.core (t.base + winBase (t.window w) + o), q.n)]
    | none => []
  | .clu => [(s.cluAt g.ctx g.tlin o, q.n)]
  | .chip => [(s.chipAt (s.ctxOf a) o, q.n)]
  | .priv =>
    match s.ctx? (s.ctxOf a) with
    | some c =>
      let pos := ((s.teamOf g).map (·.pos)).getD 0
      let at_ := fun (b : Nat) => (c.pbase.toNat + pos * 1024 * c.psize.toNat + b / 4 * 4096 + 4 * (g.home + lane) + b % 4) % 2 ^ 64
      if q.n ≤ 4 then [(at_ o, q.n)] else (List.range (q.n / 4)).map fun k => (at_ (o + 4 * k), 4)
    | none => []

/-- The address of a lane that alignment concerns (R201). -/
def Req.alignAt (q : Req) (o : Nat) : Nat :=
  match q.sp with
  | .glob => q.rcd.base + (if q.plain then o else q.rcd.swizzle o)
  | _ => o

def Space.paged : Space → Bool
  | .glob | .priv => true
  | _ => false

/-! ### Translation of lines (R130) -/

/-- The lines of an access, each translated once. -/
def State.transLines (s : State) (a : Agent) (acc : Acc) (lines : List Nat) : List (Nat × Trans) × State :=
  lines.foldl (fun x l =>
    if x.1.any fun p => p.1 == l then x
    else
      let (t, s) := x.2.trans a acc (l * 128)
      (x.1 ++ [(l, t)], s)) ([], s)

/-- A placed piece of a lane's access: its key, length, coherence, and virtual address. -/
structure Piece where
  key : Nat
  n : Nat
  coh : Bool
  va : Nat
  deriving DecidableEq, Repr

/-- A lane's pieces, or its faulting addresses with their causes (R132: one for each page); none for the privilege fault. -/
def placeLane (paged : Bool) (tr : List (Nat × Trans)) (ps : List (Nat × Nat)) : Option (List Piece × List (Nat × Nat)) :=
  if !paged then some (ps.map fun p => { key := p.1, n := p.2, coh := true, va := 0 }, [])
  else
    ps.foldl (fun x p =>
      match x with
      | none => none
      | some (l, fs) =>
        match ((tr.find? fun t => t.1 == p.1 / 128).map Prod.snd).getD (.fail 0) with
        | .ok k e => some (l ++ [{ key := k + p.1 % 128, n := p.2, coh := pteCoh e, va := p.1 }], fs)
        | .fail c => some (l, if fs.any fun f => f.1 / 4096 == p.1 / 4096 then fs else fs ++ [(p.1, c)])
        | .priv => none) (some ([], []))

/-! ### Watches and races (R398, R401) -/

/-- The watch that an access of n bytes at a virtual address triggers. -/
def State.watchHit (s : State) (g : Group) (rd wr : Bool) (va n : Nat) : Option Nat :=
  match s.debug? g.core with
  | none => none
  | some d =>
    if d.dctl.toNat % 2 ^ 16 ≠ g.ctx then none
    else (List.range 2).find? fun i =>
      let c := (d.wctl.getD i 0).toNat
      let w := bitsOf (d.waddr.getD i 0).toNat 56 0
      c % 2 == 1 && ((rd && c.testBit 1) || (wr && c.testBit 2)) && decide (va < w + 2 ^ bitsOf c 6 4) && decide (w < va + n)

/-- What the accesses of a group add to a watch: lanes with their virtual pieces. -/
def State.noteWatch (s : State) (g : Group) (rd wr : Bool) (ls : List (Nat × List (Nat × Nat))) : Group :=
  ls.foldl (fun g p => p.2.foldl (fun g q =>
    match s.watchHit g rd wr q.1 q.2 with
    | none => g
    | some i =>
      match g.watched with
      | none => { g with watched := some (maskOf [p.1], q.1, i) }
      | some (m, lo, j) => { g with watched := some (m ||| maskOf [p.1], min lo q.1, min i j) }) g) g

/-- The race check of accesses to the team's allocation (R401): words by lane, in ascending order. -/
def State.noteRace (s : State) (g : Group) (store : Bool) (ws : List (Nat × Nat)) : Group × State :=
  match s.teamOf g, s.ctx? g.ctx with
  | some t, some c =>
    if !c.cflags.getLsbD 1 then (g, s)
    else
      let hit := fun (w : Nat) => (t.shadow.find? fun x => x.addr == w && x.writer != g.gnum && x.epoch == t.epoch).map (·.writer)
      let found := ws.filterMap fun p => (hit p.2).map fun x => (p.2, x, p.1)
      let s := if store then
          s.setTeam { t with shadow := (ws.map Prod.snd).foldl (fun sh w =>
            { addr := w, writer := g.gnum, epoch := t.epoch } :: sh.filter fun x => x.addr != w) t.shadow }
        else s
      match found with
      | [] => (g, s)
      | f :: r =>
        let m := r.foldl (fun m x => if x.1 < m.1 then x else m) f
        let lane := (found.filter fun x => x.1 == m.1).foldl (fun l x => min l x.2.2) m.2.2
        let s := s.traceG (.group g.id) g 1 0x23 g.trTag.toNat g.pc.toNat (bit store) (m.1 * 8 % 2 ^ 18 + m.2.1 % 256 * 2 ^ 18 + lane % 64 * 2 ^ 26)
        (if ((s.debug? g.core).map fun d => d.dctl.getLsbD 16).getD false then { g with raced := some (m.1 * 8, m.2.1, lane) } else g, s)
  | _, _ => (g, s)

/-- The end of a memory instruction: the halts after it (R398, R401), when no lane of it is left (R321). The record of a watch has
the tag of the access. -/
def State.finishMem (s : State) (a : Agent) (g : Group) (sw : Bool) (tag : Option Nat := none) : State :=
  if g.rest.isSome then s.finish a g sw else
  let w := g.watched
  let rc := g.raced
  let pc := g.pc.toNat
  let s := s.finish a { g with watched := none, raced := none } sw
  match s.ag? a, a with
  | some g, .group _ =>
    match w, rc with
    | some (m, lo, i), _ =>
      let s := s.traceG a g 1 0x24 (tag.getD g.trTag.toNat) pc i (lo % 2 ^ 32)
      s.halt g .watch 3 i { g.record 0x13 with lanes := m, d32 := BitVec.ofNat 64 lo }
    | none, some (o, x, l) => s.halt g .race 4 0 { g.record 0x14 with lanes := maskOf [l], d32 := BitVec.ofNat 64 o, d40 := BitVec.ofNat 64 x }
    | none, none => s
  | _, _ => s

/-! ### One memory instruction (R202) -/

/-- The poisoned lines that stores of some pieces touch without covering (R219, R425). -/
def State.badLines (s : State) (ps : List Piece) : List Nat :=
  if s.poison.isEmpty then []
  else s.poison.filter fun l =>
    ps.any (fun p => decide (p.key < l + 128) && decide (l < p.key + p.n)) &&
    !((List.range 128).all fun i => ps.any fun p => decide (p.key ≤ l + i) && decide (l + i < p.key + p.n))

/-- The records of R219 for lines that a store could not merge. -/
def State.mergeErrors (s : State) (a : Agent) (g : Group) (bad : List Nat) : State :=
  bad.foldl (fun s l =>
    let r := engineRec g 0 0 0x0C (g.pc.setWidth 64) (BitVec.ofNat 64 l) (BitVec.ofNat 64 (s.structAt l)) s.time
    match a with
    | .group _ => s.sendRec g.ridge r
    | .col n => s.sendRec n { r with ctx := s.ctxOf a, place := 12 }) s

/-- How the results of an access are registered: by vector writes of k slots, or as one s register. -/
structure Sink where
  dst : Spec
  k : Nat := 0
  uni : Bool := false

/-- Results of the lanes, outstanding until the operation of the path counter completes. -/
def Group.sink (g : Group) (d : Sink) (vals : List (Nat × List W32)) (op : Option Nat) : Group :=
  if d.uni then g.postS d.dst (BitVec.ofNat 64 (((vals.headD (0, [])).2.headD 0).toNat + (((vals.headD (0, [])).2.getD 1 0).toNat * 2 ^ 32))) op
  else g.postV d.dst d.k vals [] op

/-- Where a lane's access goes that the service kernel emulates: byte by byte (R136). -/
def State.locateBytes (s : State) (a : Agent) (g : Group) (q : Req) (lane : Nat) (o : Nat) : List (Nat × Nat) :=
  match q.sp with
  | .glob => (s.locate a g q lane o).flatMap fun p => (List.range p.2).map fun i => ((p.1 + i) % 2 ^ 64, 1)
  | _ => (List.range q.n).flatMap fun i => s.locate a g { q with n := 1 } lane (o + i)

/-- The register slots of a lane that its accesses fill, in turn. -/
def handOut : List LateAccess → List Write → List LateAccess
  | [], _ => []
  | w :: r, ws =>
    let n := match w.deed with
      | .read n | .atom n _ _ _ _ => n / w.ty.size * (slotWords w.ty 0).length
      | _ => 0
    { w with into := ws.take n } :: handOut r (ws.drop n)

/-- The writes by which a lane's words reach the destination: of the last result, or of the one that its push reserved. -/
def Sink.writes (d : Sink) (g : Group) (lane : Nat) : List Write :=
  if d.uni then (match d.dst with
    | .s n => [.s n.val 0]
    | _ => [])
  else vWrites d.dst (if 0 < g.reserved then g.pushes - d.k else g.pushes) [(lane, List.replicate d.k 0)]

/-- The service kernel has the words of a load that it emulates pushed through the push staging registers (R136). -/
def Group.stageWords (g : Group) (d : Option Sink) (vals : List (Nat × List W32)) : Group :=
  if d.any fun d => (match d.dst with
    | .q _ => true
    | _ => false) then
    { g with lanes := g.lanes.mapIdx fun i l => match vals.find? fun p => p.1 == i with
        | some p => { l with stg := Vector.ofFn fun j => p.2.getD j.val l.stg[j] }
        | none => l }
  else g

/-- The result of an operation waits for accesses that have no place. -/
def Group.waitFor (g : Group) (op : Option Nat) : Group :=
  { g with results := g.results.map fun r => if r.op == op then { r with late := true } else r }

/-- What a lane of a memory instruction does: at once, but to the lines that a store cannot merge, with the words that it
returns; and as accesses that take their places later (R138), in their order. -/
structure LaneAct where
  run : State → List Nat → Nat → List Piece → List W32 × State
  later : List Nat → Nat → List Piece → List LateAccess

/-- The lane from which the accesses of an instruction take their places later, if any (R138): all of them behind earlier ones
of the agent that wait. An instruction that stops for some lanes has made the others' accesses (R71). -/
def State.laterFrom (s : State) (a : Agent) (stops emul : Bool) : Option Nat :=
  if stops || emul || !s.poison.isEmpty then none
  else s.cut.map fun k => if s.lateLs a then 0 else k

/-- A memory instruction over the offsets of its active lanes: the checks of R202 in their order, then one access in each lane
that passed, in ascending order; sink says where the words go that they return, and none says that nothing is returned. The
lanes of an access that is emulated (R136) are not checked for alignment again. -/
def memOp (s : State) (a : Agent) (g : Group) (f : LF) (q : Req) (offs : List (Nat × Int)) (sink : Option Sink) (width : Nat)
    (act : LaneAct)
    (after : State → Group → List Nat → List (Nat × List Piece) → Group × State := fun s g _ _ => (g, s)) : Out State :=
  let q := if g.emul then { q with path := none } else q
  let active := maskOf (offs.map Prod.fst)
  if q.path.any fun p => g.parkOp.isNone && g.counter p ≥ 63 then .next (s.parkRoom a g (q.path.getD 0))
  else
  let oob := offs.filter fun p => !s.inBounds a g q p.2
  let dropOk := q.sp == .glob && !q.rcd.strict
  if !oob.isEmpty && !dropOk then .next (s.bounds a g (maskOf (oob.map Prod.fst)) (BitVec.ofInt 64 ((oob.headD (0, 0)).2)) (some active))
  else
  let live := offs.filter fun p => s.inBounds a g q p.2
  let mis := live.filter fun p => q.alignAt p.2.toNat % q.n != 0
  if !mis.isEmpty && q.acc != .prefetch && !g.emul then
    .next (s.misaligned a g (maskOf (mis.map Prod.fst)) (BitVec.ofNat 64 ((mis.map fun p => q.alignAt p.2.toNat).foldl min (2 ^ 64))) (some active)
      (q.acc != .atomic && !q.plain && !isCol a))
  else
  let g0 := g
  let tag := if q.sp == .glob && q.rcd.tag != 0 then q.rcd.tag else g.trTag.toNat
  let g := if oob.isEmpty then g else { g with mstat := g.mstat ||| 1 }
  let s := if oob.isEmpty then s else s.traceG a g 1 0x22 tag g.pc.toNat 0 ((maskOf (oob.map Prod.fst)).toNat % 2 ^ 32)
  let places := live.map fun p =>
    (p.1, if g.emul && q.alignAt p.2.toNat % q.n != 0 then s.locateBytes a g q p.1 p.2.toNat else s.locate a g q p.1 p.2.toNat)
  let (tr, s) := if q.sp.paged then s.transLines a q.acc (places.flatMap fun p => p.2.map fun x => x.1 / 128) else ([], s)
  let placed := places.map fun p => (p.1, placeLane q.sp.paged tr p.2)
  if placed.any (fun p => p.2.isNone) && q.acc != .prefetch then .next (s.privilege a g0)
  else
  let okL := placed.filterMap fun p => match p.2 with
    | some (l, []) => some (p.1, l)
    | _ => none
  if q.acc = .prefetch then .next (s.finishMem a g f.sw (some tag))
  else
  let bad := placed.filterMap fun p => match p.2 with
    | some (_, x :: r) => some (p.1, x :: r)
    | _ => none
  let reads := q.acc == .read || q.acc == .atomic
  let media := if reads then okL.filter fun p => p.2.any fun x => (s.poisoned x.key x.n).isSome else []
  let good := okL.filter fun p => !(media.any fun m => m.1 == p.1)
  let unfinished := bad.map Prod.fst ++ media.map Prod.fst
  -- the counter of the path
  let (op, s) := match g.parkOp, q.path with
    | some o, _ => (some o, s)
    | none, some _ => (some s.nextNum, { s with nextNum := s.nextNum + 1 })
    | none, none => (none, s)
  let g := match g.parkOp, q.path, op with
    | none, some p, some o => g.raise p o (if (sink.map (·.uni)).getD false then g.live else maskOf (offs.map Prod.fst)) (maskOf (oob.map Prod.fst))
    | _, _, _ => g
  -- the accesses: those that are made now, and those that are not
  let torn := if q.acc == .write then s.badLines (good.flatMap Prod.snd) else []
  let from_ := s.laterFrom a (!unfinished.isEmpty) g.emul
  let (g, s) := if from_.isNone then s.settleOwn a g else (g, s)
  let wait := good.filter fun p => from_.any (· ≤ p.1)
  let (vals, s) := (good.filter fun p => !from_.any (· ≤ p.1)).foldl (fun x p =>
    let (w, s) := act.run x.2 torn p.1 p.2
    (x.1 ++ [(p.1, w)], s)) ([], s)
  let vals := vals ++ (wait.map Prod.fst ++ oob.map Prod.fst).map fun l => (l, List.replicate width 0)
  let s := { s with late := s.late ++ wait.flatMap fun p =>
    (handOut (act.later torn p.1 p.2) ((sink.map fun d => d.writes g p.1).getD [])).map fun w => { w with op := op.getD 0, who := a } }
  let s := if s.poison.isEmpty || q.acc != .write then s
    else (s.mergeErrors a g torn).cleanLines (good.flatMap fun p => p.2.flatMap fun x => (List.range x.n).map fun i => x.key + i)
  let (g, s) := after s g torn good
  let g := if isCol a || !q.sp.paged || g.emul then g else s.noteWatch g reads (q.acc != .read) (good.map fun p => (p.1, p.2.map fun x => (x.va, x.n)))
  let slots := (sink.map (·.k)).getD 0
  if unfinished.isEmpty then
    let g := match sink with
      | some d => g.sink d vals op
      | none => g
    let g := if wait.isEmpty || sink.isNone then g else g.waitFor op
    -- the service kernel has written the registers that it emulated
    .next (s.finishMem a (if g.emul then (g.stageWords sink vals).drainResults else if g.rest.isSome then { g with parkOp := op } else g) f.sw (some tag))
  else
    match a with
    | .col _ =>
      if bad.isEmpty then
        .next (s.raise a g0 { code := 0x0C, lanes := 1, d32 := BitVec.ofNat 64 ((media.head?.bind fun p => p.2.head?.map (·.key)).getD 0) })
      else .next (s.transFault a g0 1 (bad.flatMap Prod.snd))
    | .group _ =>
      let g := match sink with
        | some d => if d.uni then g else g.sink d vals none
        | none => g
      let pushes := match sink with
        | some d => isPush d.dst
        | none => false
      let left := maskOf unfinished
      let g := { g with parkOp := op, reserved := if pushes then slots else 0, redo := some left }
      if bad.isEmpty then
        let l := (media.head?.bind fun p => p.2.findSome? fun x => s.poisoned x.key x.n).getD 0
        .next (s.raise a g { code := 0x0C, lanes := left, d32 := BitVec.ofNat 64 l, d40 := BitVec.ofNat 64 (s.structAt l), unf := some left })
      else .next (s.transFault a g left (bad.flatMap Prod.snd) (some tag))

/-! ### What a lane does -/

/-! ### Elements (R200) -/

/-- The bytes of an access's elements, from a data operand (R205). -/
def Rd.dataBytes (r : Rd) (pos : Nat) (f : LF) (x : Spec) (count lane : Nat) : List Byte :=
  let t := f.ty
  (List.range count).flatMap fun j =>
    toLE t.size (match x with
      | .v n => let k := if t.wide then 2 else 1
                (r.vreg (pos + 16 * j) lane (n.val + j * k)).toNat + (if t.wide then (r.vreg (pos + 16 * j + 8) lane (n.val + j * k + 1)).toNat * 2 ^ 32 else 0)
      | y => r.src pos f.lit t y lane)

/-- The registers that a data operand reads. -/
def dataSlots (x : Spec) (k : Nat) : Spec × Nat :=
  match x with
  | .v n => (.v n, k)
  | y => (y, 1)

/-- The parts of a piece that are single-copy atomic (R140): its aligned 16-byte units, in ascending order. -/
def Piece.units (p : Piece) : List (Nat × Nat) :=
  (List.range ((p.n + 15) / 16)).map fun i => (p.key + 16 * i, min 16 (p.n - 16 * i))

/-- The bytes of a lane's pieces as a load finds them. Writes of others may take their places before each access (R138). -/
def State.loadPieces (s : State) (a : Agent) (lane : Nat) (ps : List Piece) : List Byte × State :=
  (ps.flatMap fun p => p.units.map fun u => (p.coh, u)).zipIdx.foldl (fun x p =>
    let s := x.2.placeAmid lane p.2
    let (coh, key, n) := p.1
    (x.1 ++ s.loadBytes a coh key n, s.learnAt a coh key n)) ([], s)

/-- The 16-byte units of some bytes from a key (R140). -/
def unitsOf (key : Nat) (bs : List Byte) : List (Nat × List Byte) :=
  (List.range ((bs.length + 15) / 16)).map fun i => (key + 16 * i, (bs.drop (16 * i)).take 16)

/-- A piece lies in one of some lines. -/
def Piece.inLines (p : Piece) (ls : List Nat) : Bool := ls.any fun l => decide (p.key < l + 128) && decide (l < p.key + p.n)

/-- Bytes stored to a lane's pieces, but for lines that cannot be merged. -/
def State.storePieces (s : State) (a : Agent) (bad : List Nat) (ps : List Piece) (bs : List Byte) : State :=
  (ps.foldl (fun (x : State × List Byte) p =>
    (if p.inLines bad then x.1 else x.1.storeBytes a p.coh p.key (x.2.take p.n), x.2.drop p.n)) (s, bs)).1

/-- An LS access without a place, of an agent and operation that memOp names. -/
def lateLsAccess (p : Piece) (key : Nat) (deed : Deed) (ty : Ty := .x32) : LateAccess :=
  { cls := 0, op := 0, who := .col 0, coh := p.coh, key := key, deed := deed, ty := ty }

/-- A lane loads bytes, which make the words of elements of a type (R203). -/
def loadAct (a : Agent) (t : Ty) (words : List Byte → List W32) : LaneAct :=
  { run := fun s _ l ps => let (bs, s) := s.loadPieces a l ps; (words bs, s)
    later := fun _ _ ps => ps.flatMap fun p => p.units.map fun u => lateLsAccess p u.1 (.read u.2) (if u.2 < t.size then .x32 else t) }

/-- A lane stores bytes (R205). A run that is longer than 16 bytes is stored unit by unit, in ascending order (R140); of DISCARD
in consecutive places (R143). -/
def storeAct (a : Agent) (whole : Bool) (bytes : Nat → List Byte) : LaneAct :=
  { run := fun s torn l ps => ([], s.storePieces a torn ps (bytes l))
    later := fun torn l ps => (ps.foldl (fun (x : List LateAccess × List Byte) p =>
      let bs := x.2.take p.n
      (x.1 ++ (if p.inLines torn then []
        else if whole then (if bs.isEmpty then [] else [lateLsAccess p p.key (.write bs)])
        else (unitsOf p.key bs).map fun u => lateLsAccess p u.1 (.write u.2)), x.2.drop p.n)) ([], bytes l)).1 }

/-! ### Offsets (R198) -/

def dispOf (f : LF) : Int := (f.lit.map fun l => signed 32 l.toNat).getD 0

/-- The operand x of a lane. -/
def Rd.offX (r : Rd) (f : LF) (lane : Nat) : Int :=
  match f.sb with
  | .v n => signed 32 (r.vreg 1 lane n.val).toNat
  | .s n => signed 64 (r.sreg 1 n.val).toNat
  | _ => 0

def globOffset (f : LF) (r : Rd) (rc : Rcd) (lane : Nat) : Int := dispOf f + r.offX f lane + lane * rc.lstride

def spaceOffset (f : LF) (r : Rd) (lane : Nat) : Int := dispOf f + r.offX f lane + signed 64 (r.uni 0 f.lit f.sa).toNat

def windowOf (f : LF) : Nat := f.ext.toNat % 8

/-- The words of the team's allocation that a window access touches, by lane (R400). -/
def State.raceWords (s : State) (g : Group) (ps : List (Nat × List Piece)) : List (Nat × Nat) :=
  match s.teamOf g with
  | none => []
  | some t => ps.flatMap fun p => p.2.flatMap fun x =>
      let o := x.key - spadKey t.core t.base
      (List.range ((o + x.n - 1) / 8 + 1 - o / 8)).map fun i => (p.1, o / 8 + i)

/-! ### Loads (R203, R204) -/

def load (wf : Bool) (f : LF) (s : State) (sp : Space) (path : Nat) : Out State :=
  let glob := sp == .glob
  startVec s wf f ((if glob then sRun f.sa 4 else sRun f.sa 1) ++ [(f.sb, 1)]) {} fun a g r lanes =>
    let rc := if glob then r.rcd f.sa else Rcd.ofRegs []
    let count := countOf f.mod.toNat
    let n := f.ty.size * count
    let q : Req := { sp := sp, rcd := rc, n := n, path := some path, acc := .read }
    if glob && !rc.valid n then .next (s.bounds a g (maskOf lanes) 0 (some (maskOf lanes)))
    else
      let nreg := f.nreg
      memOp s a g f q (lanes.map fun l => (l, if glob then globOffset f r rc l else spaceOffset f r l))
        (some { dst := f.dst, k := nreg }) nreg (loadAct a f.ty (wordsOfBytes f.ty count))
        fun s g _ ps => match sp with
          | .spad _ => s.noteRace g false (s.raceWords g ps)
          | _ => (g, s)

/-- LD with `.uni`: one access for the whole group (R204). -/
def loadUni (f : LF) (s : State) : Out State :=
  startOp s (Wf.ld f) f (sRun f.sa 4 ++ [(f.sb, 1)]) fun a g r =>
    let rc := r.rcd f.sa
    let q : Req := { sp := .glob, rcd := rc, n := f.ty.size, path := some 0, acc := .read }
    if !rc.valid f.ty.size then .next (s.bounds a g g.allLanes 0)
    else
      memOp s a g f q [(0, dispOf f + r.offX f 0)] (some { dst := f.dst, uni := true }) 2
        (loadAct a f.ty fun bs => let y := uniWord f.ty bs; [y.setWidth 32, (y >>> 32).setWidth 32])

def execLd (f : LF) (s : State) : Out State := if f.isUni then loadUni f s else load (Wf.ld f) f s .glob 0
def execLds (f : LF) (s : State) : Out State := load (Wf.lds f) f s (.spad (windowOf f)) 2
def execLdc (f : LF) (s : State) : Out State := load (Wf.ldc f) f s .clu 3
def execLdk (f : LF) (s : State) : Out State := load (Wf.ldk f) f s .chip 4
def execLdp (f : LF) (s : State) : Out State := load (Wf.ldp f) f s .priv 0

/-! ### Stores (R205, R206) -/

/-- R206: the values that ST writes through a tagged record in a float type. -/
def reportsStore (sp : Space) (t : Ty) (rc : Rcd) : Bool := sp == .glob && rc.tag != 0 && t.isFloat

def store (wf : Bool) (f : LF) (s : State) (sp : Space) (path : Nat) : Out State :=
  let glob := sp == .glob
  startVec s wf f ((if glob then sRun f.sa 4 else sRun f.sa 1) ++ [(f.sb, 1), dataSlots f.sc f.nreg]) {} fun a g r lanes =>
    let rc := if glob then r.rcd f.sa else Rcd.ofRegs []
    let count := countOf f.mod.toNat
    let n := f.ty.size * count
    let q : Req := { sp := sp, rcd := rc, n := n, path := some path, acc := .write }
    if glob && !rc.valid n then .next (s.bounds a g (maskOf lanes) 0 (some (maskOf lanes)))
    else
      memOp s a g f q (lanes.map fun l => (l, if glob then globOffset f r rc l else spaceOffset f r l)) none 0
        (storeAct a false (r.dataBytes 2 f f.sc count))
        fun s g torn ps =>
          let (g, s) := match sp with
            | .spad _ => s.noteRace g true (s.raceWords g ps)
            | _ => (g, s)
          if reportsStore sp f.ty rc && (s.audRegs (s.ctxOf a)).admits rc.tag then
            (g, s.reportAll (s.ctxOf a) (s.ridge a) a rc.tag ((s.audRegs (s.ctxOf a)).slotVa rc.tag) (g.record 0x20) ((ps.filter fun p => !p.2.any (·.inLines torn)).flatMap fun p =>
              (List.range count).map fun j => fvOf f.ty (field (r.dataBytes 2 f f.sc count p.1) (j * f.ty.size) f.ty.size)))
          else (g, s)

def execSt (f : LF) (s : State) : Out State := store (Wf.st f) f s .glob 1
def execSts (f : LF) (s : State) : Out State := store (Wf.sts f) f s (.spad (windowOf f)) 2
def execStc (f : LF) (s : State) : Out State := store (Wf.stc f) f s .clu 3
def execStk (f : LF) (s : State) : Out State := store (Wf.stk f) f s .chip 4
def execStp (f : LF) (s : State) : Out State := store (Wf.stp f) f s .priv 1

/-! ### Atomics (R141, R208, R209) -/

/-- One atomic on the n bytes at a key: the old value. -/
def State.atomAt (s : State) (a : Agent) (p : Piece) (fn : Nat → Nat) : Nat × State :=
  let old := readLE s.mem p.key p.n
  let s := if p.coh then s.learn a p.key p.n else s
  (old, s.storeBytes a p.coh p.key (toLE p.n (fn old)))

/-- The little-endian number of some words. -/
def wordsNat (ws : List W32) : Nat := ws.foldr (fun w n => w.toNat + 2 ^ 32 * n) 0

def natWords (k x : Nat) : List W32 := (List.range k).map fun i => BitVec.ofNat 32 (x / 2 ^ (32 * i))

/-- The access size of an atomic (R208). -/
def atomSize (f : LF) : Nat := if f.mod.getLsbD 4 then 16 else f.ty.size

/-- The operands of an atomic in a lane (R209): v or new, and cmp. -/
def Rd.atomArgs (r : Rd) (f : LF) (lane : Nat) : Nat × Nat :=
  let n := atomSize f
  let k := max 1 (n / 4)
  let op := f.mod.toNat % 16
  match f.sc with
  | .v m =>
    let at_ := fun (o : Nat) => wordsNat (r.run 2 lane (m.val + o) k) % 2 ^ (8 * n)
    if op = 7 then (at_ k, at_ 0) else (at_ 0, 0)
  | x => (r.src 2 f.lit f.ty x lane % 2 ^ (8 * n), 0)

/-- A lane makes one atomic on n bytes, and returns the words of what it found. -/
def atomAct (a : Agent) (op n : Nat) (words t : Ty) (args : Nat → Nat × Nat) : LaneAct :=
  { run := fun s _ l ps =>
      match ps with
      | p :: _ =>
        let (old, s) := (s.placeAmid l 0).atomAt a p fun o => atomNew op t o (args l).1 (args l).2
        (wordsOfBytes words (n / words.size) (toLE n old), s)
      | [] => ([], s)
    later := fun _ l ps => (ps.take 1).map fun p => lateLsAccess p p.key (.atom n op t (args l).1 (args l).2) words }

def atomic (wf : Bool) (f : LF) (s : State) (sp : Space) (path : Nat) : Out State :=
  let glob := sp == .glob
  let n := atomSize f
  let k := max 1 (n / 4)
  let op := f.mod.toNat % 16
  startVec s wf f ((if glob then sRun f.sa 4 else sRun f.sa 1) ++ [(f.sb, 1), dataSlots f.sc (if op = 7 then 2 * k else k)]) {} fun a g r lanes =>
    let rc := if glob then r.rcd f.sa else Rcd.ofRegs []
    let q : Req := { sp := sp, rcd := rc, n := n, path := some path, acc := .atomic }
    if glob && !rc.valid n then .next (s.bounds a g (maskOf lanes) 0 (some (maskOf lanes)))
    else
      memOp s a g f q (lanes.map fun l => (l, if glob then globOffset f r rc l else spaceOffset f r l))
        (some { dst := f.dst, k := k }) k (atomAct a op n (if f.mod.getLsbD 4 then .n64 else f.ty) f.ty fun l => r.atomArgs f l)

def execAtom (f : LF) (s : State) : Out State := atomic (Wf.atom f) f s .glob 1
def execAtoms (f : LF) (s : State) : Out State := atomic (Wf.atoms f) f s (.spad (windowOf f)) 2
def execAtomc (f : LF) (s : State) : Out State := atomic (Wf.atomc f) f s .clu 3

/-! ### Prefetch and discard (R214, R215) -/

def execPref (f : LF) (s : State) : Out State :=
  startVec s (Wf.pref f) f (sRun f.sa 4 ++ [(f.sb, 1)]) {} fun a g r lanes =>
    let rc := r.rcd f.sa
    if !rc.valid 1 then .next (s.bounds a g (maskOf lanes) 0 (some (maskOf lanes)))
    else
      memOp s a g f { sp := .glob, rcd := rc, n := 1, path := none, acc := .prefetch } (lanes.map fun l => (l, globOffset f r rc l)) none 0
        (storeAct a false fun _ => [])

/-- DISCARD: eight zero stores to each line, at the place of the lowest lane that names it. -/
def execDiscard (f : LF) (s : State) : Out State :=
  startVec s (Wf.discard f) f (sRun f.sa 4 ++ [(f.sb, 1)]) {} fun a g r lanes =>
    let rc := r.rcd f.sa
    if rc.swz > 4 then .next (s.bounds a g (maskOf lanes) 0 (some (maskOf lanes)))
    else
      memOp s a g f { sp := .glob, rcd := rc, n := 128, path := some 1, acc := .write, plain := true }
        (lanes.map fun l => (l, globOffset f r rc l)) none 0
        (storeAct a true fun l => if lanes.any fun k => decide (k < l) && globOffset f r rc k == globOffset f r rc l then [] else List.replicate 128 0)

end Sys2Proof.Machine
end

