-- ==== Sys2Proof/Machine/Fence.lean ====
section
/-! DEFINITION. Fences and path counters (R148-R152, R216-R218), and the steps of the memory engine that
follow an issue: arrivals, completions, drains and replays (R67, R131, R148, R316). -/

namespace Sys2Proof.Machine

/-- FENCE (R151, R216): with first class LS it waits until the LS counters are zero; with an engine's it puts the writes of
what the agent has observed to be complete before its later accesses. -/
def execFence (f : LF) (s : State) : Out State :=
  startOp s (Wf.fence f) f [] fun a g _ =>
    let first := f.mod.toNat / 4
    let second := f.mod.toNat % 4
    let scope := f.ext.toNat
    if first = 0 && !g.lsZero then .next (s.park a g (.drain .ls))
    else
      let s := if first = 0 then (if second = 0 then s.fenceStreams a scope else s)
        else if first = 5 then (if second = 0 && scope = 6 then s.fenceHost a else s)
        else s.fenceEngine a first second scope
      .next (s.finish a g f.sw)

/-- WAITC (R217). -/
def execWaitc (f : LF) (s : State) : Out State :=
  startOp s (Wf.waitc f) f [(f.sa, 1)] fun a g r =>
    let p := f.ext.toNat
    let t := min 64 (r.uni 0 f.lit f.sa).toNat
    if g.counter p ≤ t then .next (s.finish a (g.observe (· == p)) f.sw)
    else .next (s.park a { g with psw := f.sw } (.waitc p t))

/-- CNTRD (R218). -/
def execCntrd (f : LF) (s : State) : Out State :=
  startOp s (Wf.cntrd f) f [] fun a g _ =>
    let p := f.ext.toNat
    .next (s.finish a ((g.observe fun q => p == 8 || q == p).postS f.dst (BitVec.ofNat 64 (if p = 8 then g.counters else g.counter p))) f.sw)

/-! ### Events -/

/-- R67: a result that may arrive; a late one waits for its operation. -/
def Group.canArrive (g : Group) (k : Nat) : Bool := (g.results[k]?.map fun r => !r.late).getD false

/-- An outstanding result reaches its registers. A col's results arrive in the same way. -/
def execRegisterResultArrival (s : State) : Out State :=
  match s.ev with
  | .agentIdx a k =>
    match s.ag? a with
    | some g =>
      if g.canArrive k then
        let s := if isCol a then s else s.expand g (g.results[k]?.toList)
        .next ((s.setAg a (g.arrive k)).settle a)
      else .next s
    | none => .next s
  | _ => .next s

/-- R148: an LS operation of the list of operations that may complete: its data has arrived. -/
def Group.canComplete (g : Group) (k : Nat) : Bool :=
  (g.ops[k]?.map fun o => o.path ≤ 4 && !o.done && g.parkOp != some o.op && !(g.results.any fun r => r.op == some o.op)).getD false

def execLsAccessComplete (s : State) : Out State :=
  match s.ev with
  | .agentIdx a k =>
    match s.ag? a with
    | some g =>
      match g.ops[k]? with
      | some o => if g.canComplete k && !s.opLate o.op && !s.recHeld g 0 && !s.groupWaits g 1 then .next ((s.setAg a (g.complete o.op)).settle a) else .next s
      | none => .next s
    | none => .next s
  | _ => .next s

/-- R316: what a drain waits for has come. -/
def Group.drained (g : Group) : Drain → Bool
  | .ls => g.lsZero
  | .results => g.results.isEmpty
  | .both => g.lsZero && g.results.isEmpty

/-- A parked memory instruction completes, with the halts after it. -/
def State.finishParkedMem (s : State) (a : Agent) (g : Group) : State :=
  let s := { s with cur := { agent := a, next := g.pnext } }
  (s.wake a g).finishMem a { g with park := .ready, waited := 0 } g.psw g.accTag

/-- The fence of a SEMWAIT completes, and the instruction with it (R294). -/
def State.endFence (s : State) (a : Agent) (g : Group) (scope : Nat) : State := (s.fenceStreams a scope).finishParkedMem a g

/-- The instruction that waited is issued again, or completes with its fence. -/
def execLsDrainComplete (s : State) : Out State :=
  match s.ev with
  | .agent a =>
    match s.ag? a with
    | some g =>
      match g.park with
      | .drain d => if g.drained d then .next (s.wake a { g with noBreak := true }) else .next s
      | .fence scope _ => if g.lsZero then .next (s.endFence a g scope) else .next s
      | _ => .next s
    | none => .next s
  | _ => .next s

/-- R131, R132: the group's pages are resolved, and it replays its unfinished lanes. -/
def Group.canReplay (g : Group) : Bool := g.park == .transl [] || g.park == .retry true

def execLaneReplay (s : State) : Out State :=
  match s.ev with
  | .nat id =>
    match s.group? id with
    | some g =>
      if g.canReplay && s.runs g.ctx && !s.untold g then
        let a := Agent.group id
        let s := s.traceG a g 1 0x21 (g.accTag.getD g.trTag.toNat) g.pc.toNat 0 (popc 64 g.mask.toNat)
        .next (s.wake a { g with redo := some g.mask, mask := 0, noBreak := true })
      else .next s
    | none => .next s
  | _ => .next s

end Sys2Proof.Machine
end

