-- ==== Sys2Proof/Machine/Matrix.lean ====
section
/-! DEFINITION. The matrix engine (R103-R108, R249-R271) and formatted loads (R210-R213): the checks and
reads of an instruction at issue, and what its operation does when it completes. -/

namespace Sys2Proof.Machine

/-! ### Fragment layouts (R256) -/

/-- The K-block of a type (R257). -/
def kbOf (t : Ty) : Nat := if t.bits = 8 then 128 else if t.bits = 16 then 64 else 16

/-- Words of an A or B fragment, and of a drained tile. -/
def fragWords (t : Ty) : Nat := 16 * (kbOf t * t.size / 4)
def drainWords (t : Ty) : Nat := 256 / (4 / t.size)

/-- The registers of a run of words at a group width. -/
def nregOf (words w : Nat) : Nat := words / w

/-- The words of a run of registers (R256). -/
def Rd.frag (r : Rd) (pos first words : Nat) : List W32 :=
  let w := r.g.width
  (List.range words).map fun i => r.vreg (pos + 16 * (i / w)) (i % w) (first + i / w)

/-- Element (x, k) of a fragment: row x of A, or column x of B. -/
def fragElem (t : Ty) (ws : List W32) (x k : Nat) : Nat :=
  let n := 4 / t.size
  (ws.getD (x * (kbOf t * t.size / 4) + k / n) 0).toNat / 2 ^ (t.bits * (k % n)) % 2 ^ t.bits

/-- All elements of a fragment by rows of A or columns of B. -/
def fragElems (t : Ty) (ws : List W32) : List Nat :=
  (List.range 16).flatMap fun x => (List.range (kbOf t)).map fun k => fragElem t ws x k

/-- A row vector: lanes 0-15 of a register. -/
def Rd.rowVec (r : Rd) (pos : Nat) (x : Spec) : List W32 := (List.range 16).map fun l => BitVec.ofNat 32 (r.src pos none .x32 x l)

/-! ### Tiles (R249-R252) -/

def Tile.zero (quad num : Nat) : Tile := { quad := quad, num := num, words := Vector.replicate 256 0 }

def Team.tile (t : Team) (quad num : Nat) : Tile := (t.tiles.find? fun x => x.quad == quad && x.num == num).getD (Tile.zero quad num)

def Team.setTile (t : Team) (x : Tile) : Team :=
  { t with tiles := x :: t.tiles.filter fun y => !(y.quad == x.quad && y.num == x.num) }

def Tile.get (x : Tile) (i j : Nat) : W32 := x.words.getD (16 * i + j) 0

def tileOfFn (fn : Nat → Nat → W32) : Vector W32 256 := Vector.ofFn fun k => fn (k.val / 16) (k.val % 16)

/-! ### Multiply-accumulate (R105-R108, R258) -/

/-- The new value of t(i, j): the exact sum of the products, scaled, added and rounded once. A zero of ds8 counts as +0,
and a zero sum of terms that are not all -0 is +0 (assumption 42). -/
def mmaCell (aty bty : Ty) (t : W32) (as bs : List Nat) (sa sb : W32) : W32 :=
  let ps := (as.zip bs).map fun p => (FV.mul (fvOf aty p.1) (fvOf bty p.2)).1
  let tv := fvOf .f32 t.toNat
  let x :=
    if aty = .f32 then (sumFV false (tv :: ps)).1
    else
      let s := (sumFV false ps).1
      let sc := (FV.mul (FV.mul s (fvOf .f32 sa.toNat)).1 (fvOf .f32 sb.toNat)).1
      (FV.add false tv sc).1
  BitVec.ofNat 32 (roundTo .rne 0 .f32 false false x).1

/-- A tile after an update by fragments with their scales. -/
def mmaTile (x : Tile) (aty bty : Ty) (a b : List W32) (sa : List W32) (sb : W32) : Tile :=
  let rows := (List.range 16).map fun i => (List.range (kbOf aty)).map fun k => fragElem aty a i k
  let cols := (List.range 16).map fun j => (List.range (kbOf aty)).map fun k => fragElem bty b j k
  { x with words := tileOfFn fun i j => mmaCell aty bty (x.get i j) (rows.getD i []) (cols.getD j []) (sa.getD i 0x3F800000) sb }

/-! ### Issue (R252-R255) -/

def oneF32 : W32 := 0x3F800000

/-- Group or col: a col has no matrix unit (R253). -/
def startMtx (s : State) (wf : Bool) (f : LF) (srcs : List (Spec × Nat)) (k : Agent → Group → Rd → Out State) : Out State :=
  s.withAg fun a g =>
    if !wf || isCol a then .next (s.illegal a g)
    else if hazardOf f g g.live srcs then .next (s.hazardFault a g)
    else if spoiledOf f g g.live srcs then .next (s.regFault a g)
    else k a g (s.rd g)

/-- R254: the width is 16, 32 or 64 and every lane is active. -/
def converged (f : LF) (r : Rd) : Bool := 16 ≤ r.g.width && guarded f r == r.g.live

/-- The illegal-convergence fault: the width and the active mask. -/
def State.divergent (s : State) (a : Agent) (g : Group) (mask : W64) : State := s.raise a g { code := 0x07, lanes := mask }

/-- The tile number is below TCNT (R249). -/
def State.tileOk (s : State) (g : Group) (t : Nat) : Bool := ((s.teamOf g).map fun x => decide (t < x.tcnt)).getD false

/-- A register run starts at a multiple of its length. -/
def runOk (x : Spec) (n : Nat) : Bool :=
  match x with
  | .v m => m.val % max 1 n == 0 && m.val + n ≤ 64
  | _ => true

/-- The audit ordinal that an eligible operation takes, and whether it is sampled (R402, R404). -/
def aphase (seed : W64) (tag : Nat) : Nat :=
  let step := fun (x c : W64) => (x ^^^ (x >>> 30)) * c
  let x := seed ^^^ (BitVec.ofNat 64 tag <<< 48)
  let x := step (step (step x 0x9A3F5C21E7B40D6B) 0x5D82C4F13B96A7E3) 0xE17B29D684C35F0D
  (x ^^^ (x >>> 31)).toNat / 2 ^ 44

def AudRegs.samples (r : AudRegs) (tag : Nat) (ord : BitVec 32) : Bool :=
  (ord.toNat + aphase r.aseed tag) % 2 ^ 32 % 2 ^ bitsOf r.actl.toNat 8 4 == 0

/-- A trace record of an engine for an operation, as its record names it (R386). -/
def State.traceE (s : State) (r : EvRec) (cls kind tag core x d : Nat) : State :=
  s.emitTo (s.tenantNum r.ctx) (srcOf cls (core / 12) (if cls == 6 then 0 else core % 12) (if cls == 2 then r.place / 16 else 0)) kind tag
    (formG r.ctx r.gnum r.root (r.flags % 8) r.pc.toNat x d) core none

/-- A counter of the slot of an operation's tag (R410). -/
def State.countSlot (s : State) (m : MtxOp) (off : Nat) : State :=
  s.report { ctx := m.ctx, ridge := m.core / 12, by_ := m.by_, tag := m.audTag, slot := m.audSlot, off := off, rcd := m.rcd }

/-- An operation is accepted by the matrix unit: it is counted on MTX, once for an instruction that parked (R202),
numbered and queued. The group waits while the unit is full (R252) or its counter stands at 63 (R148). -/
def issueMtx (s : State) (a : Agent) (g : Group) (f : LF) (fn : Nat) (m : MtxOp) (post : Group → Nat → Group) : Out State :=
  if g.counter 6 ≥ 63 && g.parkOp.isNone then .next (s.parkRoom a g 6)
  else if (s.quadQueue g.core g.quad).length ≥ 16 then .next s
  else
    let (op, g, s) := match g.parkOp with
      | some o => (o, g, s)
      | none => (s.nextNum, g.raise 6 s.nextNum g.live, { s with nextNum := s.nextNum + 1 })
    let rcd := { g.record 0x20 with cls := 2, seq := g.seqMtx.toNat }
    let m := { m with op := op, ctx := g.ctx, tlin := g.tlin, core := g.core, quad := g.quad, width := g.width, home := g.home
                      rcd := rcd, trTag := g.trTag.toNat, gmode := g.gmode, by_ := a, audTag := g.audTag.toNat
                      audOn := (s.audRegs g.ctx).admits g.audTag.toNat, audSlot := (s.audRegs g.ctx).slotVa g.audTag.toNat }
    let s := { s with mtx := s.mtx ++ [m] }
    let s := if m.sampled then s.countSlot m 800 else s
    let s := s.traceE rcd 2 0x30 g.trTag.toNat g.core (m.tile.getD 0) (g.seqMtx.toNat + fn * 2 ^ 16)
    let g := { g with seqMtx := g.seqMtx + 1 }
    .next (s.finishMem a (post g op) f.sw)

/-- An operation with nothing in it. -/
def MtxOp.blank (i : Instr) (t : Option Nat) : MtxOp :=
  { op := 0, ctx := 0, tlin := 0, core := 0, quad := 0, tile := t, width := 0, home := 0, rcd := { code := 0x20 }, trTag := 0, i := i }

/-- MMA and MCONV of an eligible type take an audit ordinal (R402). -/
def State.takeOrd (s : State) (g : Group) (f : LF) (m : MtxOp) : Group × MtxOp :=
  let r := s.audRegs g.ctx
  let eligible := (f.ty == .f8e4 || f.ty == .f8e5 || f.ty == .h16 || f.ty == .b16) && r.admits g.audTag.toNat
  if eligible then
    ({ g with audOrd := g.audOrd + 1 }, { m with audOrd := g.audOrd.toNat, sampled := r.samples g.audTag.toNat g.audOrd })
  else (g, m)

/-- An s register or 0x70 as a block scale (R258). -/
def Rd.blockScale (r : Rd) (pos : Nat) (x : Spec) : W32 := if x = .zero then oneF32 else (r.uni pos none x).setWidth 32

/-- The A scales of MMA. -/
def Rd.rowScales (r : Rd) (pos : Nat) (x : Spec) : List W32 := if x = .zero then List.replicate 16 oneF32 else r.rowVec pos x

/-- MMA. Hazard and convergence are checked before the alignment of the register runs (assumption 41). -/
def execMma (f : LF) (s : State) : Out State :=
  let n := fragWords f.ty
  s.withAg fun _ g0 =>
  let nr := nregOf n g0.width
  startMtx s (Wf.mma f) f ([(f.sa, nr), (f.sb, nr)] ++ [(f.dst, 1), (f.sc, 1)].filter fun p => p.1 != .zero) fun a g r =>
    if !converged f r then .next (s.divergent a g (guarded f r))
    else if !runOk f.sa nr || !runOk f.sb nr then .next (s.illegal a g)
    else if !s.tileOk g f.tile then .next (s.bounds a g g.allLanes (BitVec.ofNat 64 f.tile))
    else
      let m := { MtxOp.blank (.mma f) (some f.tile) with
        a := r.frag 20 (vnum f.sa) n, b := r.frag 1300 (vnum f.sb) n, sa := r.rowScales 2 f.sc, sb := some (r.blockScale 3 f.dst) }
      let (g', m) := s.takeOrd g f m
      if g.counter 6 ≥ 63 || (s.quadQueue g.core g.quad).length ≥ 16 then issueMtx s a g f 0 m fun g _ => g
      else issueMtx s a g' f 0 m fun g _ => g

def execMzero (f : LF) (s : State) : Out State :=
  startMtx s (Wf.mzero f) f [] fun a g _ =>
    if !s.tileOk g f.tile then .next (s.bounds a g g.allLanes (BitVec.ofNat 64 f.tile))
    else issueMtx s a g f 2 (MtxOp.blank (.mzero f) (some f.tile)) fun g _ => g

def execMload (f : LF) (s : State) : Out State :=
  s.withAg fun _ g0 =>
  let nr := nregOf 256 g0.width
  startMtx s (Wf.mload f) f [(f.sa, nr)] fun a g r =>
    if !converged f r then .next (s.divergent a g (guarded f r))
    else if !runOk f.sa nr then .next (s.illegal a g)
    else if !s.tileOk g f.tile then .next (s.bounds a g g.allLanes (BitVec.ofNat 64 f.tile))
    else issueMtx s a g f 3 { MtxOp.blank (.mload f) (some f.tile) with a := r.frag 20 (vnum f.sa) 256 } fun g _ => g

/-! ### Drains (R261-R263) -/

/-- A drain's scale: an s register, constant or literal, or a row vector. -/
def drainScale (f : LF) (r : Rd) (m : MtxOp) : MtxOp :=
  match f.sa with
  | .v _ | .q _ => { m with sa := r.rowVec 0 f.sa }
  | .s _ => { m with sb := some ((r.uni 0 f.lit f.sa).setWidth 32) }
  | .lit => { m with sb := some (f.lit.getD 0) }
  | x => { m with sb := some (BitVec.ofNat 32 (constSlot .f32 x)) }

def drainBias (x : Spec) (r : Rd) (m : MtxOp) : MtxOp :=
  if x = .zero then m else { m with bias := some (r.rowVec 1 x) }

/-- A tile of a group's quadrant. -/
def State.tileOf (s : State) (g : Group) (t : Nat) : Tile := ((s.teamOf g).map fun x => x.tile g.quad t).getD (Tile.zero g.quad t)

/-- The writes of a run of words to registers, or to the slots of a push. -/
def runWrites (g : Group) (d : Spec) (push words : Nat) (val : Nat → W32) : List Write :=
  (List.range words).flatMap fun i =>
    let l := i % g.width
    match d with
    | .v n => [.v l (n.val + i / g.width) (val i)]
    | .q _ => [.q l (push + i / g.width) (val i)]
    | _ => []

/-- Late results of a run of words in every lane (R262). -/
def Group.postRun (g : Group) (d : Spec) (words op : Nat) : Group :=
  let push := g.pushes
  let g := if isPush d then g.pushZeros (words / g.width) else g
  g.postLate (runWrites g d push words fun _ => 0) op

def execMdrain (f : LF) (s : State) : Out State :=
  s.withAg fun _ g0 =>
  let n := drainWords f.ty
  let nr := nregOf n g0.width
  startMtx s (Wf.mdrain f) f ([(f.sa, 1), (f.sb, 1)].filter fun p => p.1 != .zero) fun a g r =>
    if !converged f r then .next (s.divergent a g (guarded f r))
    else if !runOk f.dst nr then .next (s.illegal a g)
    else if !s.tileOk g f.tile then .next (s.bounds a g g.allLanes (BitVec.ofNat 64 f.tile))
    else if s.drainWaits g f.tile then .next s
    else if (s.tileOf g f.tile).err then
      .next (s.raise a g { code := 0x0C, lanes := g.allLanes, d32 := BitVec.ofNat 64 f.tile, d40 := 5 })
    else
      let m := drainBias f.sb r (drainScale f r { MtxOp.blank (.mdrain f) (some f.tile) with srSeed := g.srSeed, srCtr := g.srCtr })
      issueMtx s a g f 4 m fun g op =>
        let g := if isSr f g true then { g with srCtr := g.srCtr + 1 } else g
        g.postRun f.dst n op

def execMdrains (f : LF) (s : State) : Out State :=
  startMtx s (Wf.mdrains f) f ([(f.sa, 1), (f.sb, 1), (f.sc, 1)].filter fun p => p.1 != .zero) fun a g r =>
    if !converged f r then .next (s.divergent a g (guarded f r))
    else if !s.tileOk g f.tile then .next (s.bounds a g g.allLanes (BitVec.ofNat 64 f.tile))
    else
      let z := f.ty.size
      let u := (r.uni 3 f.lit f.sb)
      let o := u.toNat % 2 ^ 32
      let pitch := u.toNat / 2 ^ 32
      match s.teamOf g with
      | none => .next (s.bounds a g g.allLanes u)
      | some t =>
        let w := t.window (vnum f.dst)
        if o + 15 * pitch + 16 * z > winSize w || pitch < 16 * z then .next (s.bounds a g g.allLanes u)
        else if o % 16 ≠ 0 || pitch % 16 ≠ 0 then
          .next (s.raise a g { code := 0x09, lanes := g.allLanes, d32 := BitVec.ofNat 64 o, d40 := BitVec.ofNat 64 pitch })
        else if winFmt w ≠ 0 && winFmt w ≠ f.ty.code then
          .next (s.raise a g { code := 0x0A, lanes := g.allLanes, d32 := BitVec.ofNat 64 (vnum f.dst), d40 := BitVec.ofNat 64 (winFmt w + 16 * winGeom w) })
        else
          let m := drainBias f.sc r (drainScale f r { MtxOp.blank (.mdrains f) (some f.tile) with
            srSeed := g.srSeed, srCtr := g.srCtr, sv := [u], keys := [some (spadKey t.core (t.base + winBase w + o))] })
          issueMtx s a g f 5 m fun g _ => if isSr f g true then { g with srCtr := g.srCtr + 1 } else g

def execMrows (f : LF) (s : State) : Out State :=
  startMtx s (Wf.mrows f) f [] fun a g r =>
    if !converged f r then .next (s.divergent a g (guarded f r))
    else if !s.tileOk g f.tile then .next (s.bounds a g g.allLanes (BitVec.ofNat 64 f.tile))
    else issueMtx s a g f 6 (MtxOp.blank (.mrows f) (some f.tile)) fun g op => g.postRun f.dst (2 * g.width) op

/-! ### Implicit convolution (R265-R269) -/

/-- The fields of a shape record (R266). -/
structure Shp where
  nb : Nat
  c : Nat
  wd : Nat
  ht : Nat
  pl : Nat
  pt : Nat
  dw : Nat
  dh : Nat
  uw : Nat
  uh : Nat
  fw : Nat
  fh : Nat
  padv : Nat
  q : Nat
  p : Nat
  rows : Nat
  pxs : Nat
  imgs : Nat
  rsv : Bool

def Shp.of (x : BitVec 384) : Shp :=
  let f := fun (hi lo : Nat) => bitsOf x.toNat hi lo
  { nb := f 63 48, c := f 47 32, wd := f 31 16, ht := f 15 0, pl := f 127 120, pt := f 119 112, dw := f 111 104, dh := f 103 96
    uw := f 95 88, uh := f 87 80, fw := f 79 72, fh := f 71 64, padv := f 191 160, q := f 159 144, p := f 143 128
    rows := f 255 224, pxs := f 223 192, imgs := f 303 256, rsv := f 319 304 == 0 && f 383 320 == 0 }

def Shp.valid (h : Shp) : Bool :=
  h.rsv && [h.nb, h.c, h.wd, h.ht, h.dw, h.dh, h.uw, h.uh, h.fw, h.fh, h.q, h.p].all (fun x => decide (1 ≤ x)) &&
  h.rows ≥ h.wd * h.pxs && h.pxs ≥ h.c && h.imgs ≥ h.ht * h.rows

/-- MSHAPE (R266). -/
def execMshape (f : LF) (s : State) : Out State :=
  startMtx s (Wf.mshape f) f (sRun f.sa 6) fun a g r =>
    let x : BitVec 384 := BitVec.ofNat 384 ((r.sregs 8 f.sa 6).foldr (fun w n => w.toNat + 2 ^ 64 * n) 0)
    if (Shp.of x).valid then .next (s.finish a { g with shape := x } f.sw)
    else .next (s.bounds a g g.allLanes (BitVec.ofNat 64 (snum f.sa)))

def execMconv (f : LF) (s : State) : Out State :=
  s.withAg fun _ g0 =>
  let n := fragWords f.ty
  let nr := nregOf n g0.width
  startMtx s (Wf.mconv f) f (sRun f.sa 4 ++ [(f.sb, nr), (f.sc, 1)] ++ [(f.dst, 1)].filter fun p => p.1 != .zero) fun a g r =>
    if !converged f r then .next (s.divergent a g (guarded f r))
    else if !runOk f.sb nr then .next (s.illegal a g)
    else if !s.tileOk g f.tile then .next (s.bounds a g g.allLanes (BitVec.ofNat 64 f.tile))
    else
      let h := Shp.of g.shape
      let pos := r.uni 2 f.lit f.sc
      let kx := pos.toNat / 2 ^ 32
      let rc := r.rcd f.sa
      let kb := kbOf f.ty
      if g.shape = 0 || h.c % kb ≠ 0 || (f.ty != .f32 && h.c % 128 ≠ 0) || kx * kb ≥ h.fh * h.fw * h.c || !rc.valid f.ty.size || rc.rowlen = 0 then
        .next (s.bounds a g g.allLanes pos)
      else
        let m := { MtxOp.blank (.mconv f) (some f.tile) with
          b := r.frag 1300 (vnum f.sb) n, sb := some (r.blockScale 3 f.dst), sv := r.sregs 8 f.sa 4 ++ [pos], shape := g.shape }
        let (g', m) := s.takeOrd g f m
        if g.counter 6 ≥ 63 || (s.quadQueue g.core g.quad).length ≥ 16 then issueMtx s a g f 1 m fun g _ => g
        else issueMtx s a g' f 1 m fun g _ => g

end Sys2Proof.Machine
end

