-- ==== Sys2Proof/Machine/MatrixOps.lean ====
section
/-! DEFINITION. Formatted loads at issue (R210-R213), and the completion of matrix operations (R252,
R258-R271, R407). -/

namespace Sys2Proof.Machine

/-! ### LDF at issue -/

/-- The elements of a region in fragment order: the row and column of the tensor (R256, R210). -/
def regionElems (roleB : Bool) (kb i0 j0 : Nat) : List (Nat × Nat) :=
  (List.range 16).flatMap fun x => (List.range kb).map fun k => if roleB then (i0 + k, j0 + x) else (i0 + x, j0 + k)

/-- The format fault's detail: found FMT in bits 3:0, GEOM in bits 5:4. -/
def fmtWord (fmt geom : Nat) : W64 := BitVec.ofNat 64 (fmt + 16 * geom)

/-- Whether a GEOM suits a role and a type (R213). -/
def geomOk (roleB : Bool) (t : Ty) (geom : Nat) : Bool :=
  geom == 0 || (t != .f32 && geom == (if roleB then 2 else 1))

/-- The index of a scale (R103), for C elements in a row. -/
def stripIndex (c i j : Nat) : Nat := i * ((c + 127) / 128) + j / 128
def squareIndex (c i j : Nat) : Nat := i / 128 * ((c + 127) / 128) + j / 128

/-- What an LDF found before it reads: the keys of its elements, the GEOM of its data, or a stop. -/
inductive Region where
  | ok (keys : List (Option Nat)) (geom : Option Nat) (s : State)
  | stop (s : State)

/-- The group of an LDF that parks: its operation is counted on MTX at the first issue (R202). -/
def State.ldfRaised (s : State) (g : Group) : Group × State :=
  match g.parkOp with
  | some _ => (g, s)
  | none => let (op, s) := s.fresh; ({ g.raise 6 op g.live with parkOp := some op }, s)

/-- The translation faults of an LDF (R131): no lane has completed. -/
def State.ldfTrans (s : State) (a : Agent) (g : Group) (tag : Nat) (bad : List (Nat × Nat)) : State :=
  let (g, s) := s.ldfRaised g
  s.transFault a g g.allLanes bad (some tag)

/-- The data of a region through a record: each page translated and checked (R211, R213). -/
def State.regionRecord (s : State) (a : Agent) (g : Group) (f : LF) (rc : Rcd) (elems : List (Nat × Nat)) : Region :=
  let z := f.ty.size
  let c := rc.rowlen
  let rn := rc.extent / (c * z)
  let vas := elems.map fun p => if p.2 < c && p.1 < rn then some ((rc.base + rc.swizzle ((p.1 * c + p.2) * z)) % 2 ^ 64) else none
  let (tr, s) := s.transLines a .read (vas.filterMap fun v => v.map (· / 128))
  let bad := tr.filterMap fun p => match p.2 with
    | .fail x => some (p.1 * 128, x)
    | _ => none
  if !bad.isEmpty then .stop (s.ldfTrans a g (rc.traceTag g) bad)
  else
    let leaves := tr.filterMap fun p => match p.2 with
      | .ok _ e => some (p.1, e)
      | _ => none
    let geom := leaves.head?.map fun p => pteGeom p.2
    match leaves.find? fun p => pteFmt p.2 != f.ty.code || !geomOk f.roleB f.ty (pteGeom p.2) || some (pteGeom p.2) != geom with
    | some p => .stop (s.raise a g { code := 0x0A, lanes := g.allLanes, d32 := BitVec.ofNat 64 (p.1 * 128), d40 := fmtWord (pteFmt p.2) (pteGeom p.2) })
    | none =>
      .ok (vas.map fun v => v.bind fun va => (tr.find? fun p => p.1 == va / 128).bind fun p => match p.2 with
        | .ok k _ => some (k + va % 128)
        | _ => none) geom s

/-- The data of a region through a window. -/
def State.regionWindow (s : State) (a : Agent) (g : Group) (f : LF) (t : Team) (w : BitVec 128) (elems : List (Nat × Nat)) : Region :=
  let z := f.ty.size
  let c := winRowlen w
  let rn := winSize w / (c * z)
  if winFmt w ≠ f.ty.code || !geomOk f.roleB f.ty (winGeom w) then
    .stop (s.raise a g { code := 0x0A, lanes := g.allLanes, d32 := BitVec.ofNat 64 (windowOf f), d40 := fmtWord (winFmt w) (winGeom w) })
  else
    .ok (elems.map fun p => if p.2 < c && p.1 < rn then some (spadKey t.core (t.base + winBase w + (p.1 * c + p.2) * z)) else none) (some (winGeom w)) s

/-- The poisoned line that one of some keys of z bytes touches. -/
def State.poisonIn (s : State) (keys : List (Option Nat)) (z : Nat) : Option Nat :=
  if s.poison.isEmpty then none else keys.findSome? fun k => k.bind fun x => s.poisoned x z

/-- The scale rows and columns that `.scl` reads, with whether each block holds an element (R212). -/
def scaleAt (roleB : Bool) (c rn i0 j0 : Nat) : List (Nat × Bool) :=
  let j := j0 / 128 * 128
  if roleB then [(squareIndex c i0 j0, decide (i0 / 128 * 128 < rn) && decide (j < c))]
  else (List.range 16).map fun l => (stripIndex c (i0 + l) j0, decide (i0 + l < rn) && decide (j < c))

/-- The keys of the scales: through a window they are allocation offsets, through a record they are
translated; none where no scale is read. -/
def State.scaleKeys (s : State) (a : Agent) (g : Group) (tag : Nat) (base : Nat ⊕ Nat) (at_ : List (Nat × Bool)) : Region :=
  match base with
  | .inr key => .ok (at_.map fun p => if p.2 then some (key + 4 * p.1) else none) none s
  | .inl va =>
    let vas := at_.map fun p => if p.2 then some ((va + 4 * p.1) % 2 ^ 64) else none
    let (tr, s) := s.transLines a .read (vas.filterMap fun v => v.map (· / 128))
    let bad := tr.filterMap fun p => match p.2 with
      | .fail x => some (p.1 * 128, x)
      | _ => none
    if !bad.isEmpty then .stop (s.ldfTrans a g tag bad)
    else .ok (vas.map fun v => v.bind fun va => (tr.find? fun p => p.1 == va / 128).bind fun p => match p.2 with
        | .ok k _ => some (k + va % 128)
        | _ => none) none s

/-- LDF is accepted: counted on MTX, its results late. -/
def issueLdf (s : State) (a : Agent) (g : Group) (f : LF) (keys : List (Option Nat)) (miss : W32) : Out State :=
  match s.poisonIn keys (if f.scl then 4 else f.ty.size) with
  | some l =>
    let (g, s) := s.ldfRaised g
    .next (s.raise a g { code := 0x0C, lanes := g.allLanes, d32 := BitVec.ofNat 64 l, d40 := BitVec.ofNat 64 (s.structAt l) })
  | none =>
    let m := { MtxOp.blank (.ldf f) none with keys := keys, sb := some miss }
    issueMtx s a g f 2 m fun g op =>
      if f.scl then
        match f.dst with
        | .v n => g.postLate ((List.range g.width).map fun l => .v l n.val 0) op
        | .s n => g.postLate [.s n.val 0] op
        | _ => g
      else g.postRun f.dst (fragWords f.ty) op

/-- The code of zero in a type (R88): what an element outside the tensor counts as (R104). -/
def zeroCode (t : Ty) : Nat := if t = .ds8 then 0x77 else 0

/-- LDF (R211-R213). A misaligned origin's record holds the origin register; scales are read where no data page gives a GEOM
(assumption 31). -/
def execLdf (f : LF) (s : State) : Out State :=
  startMtx s (Wf.ldf f) f (sRun f.sa 4 ++ [(f.sb, 1)]) fun a g r =>
    let w := g.width
    let win := s.teamOf g |>.map fun t => t.window (windowOf f)
    let rc := r.rcd f.sa
    let origin := r.uni 1 f.lit f.sb
    let i0 := origin.toNat % 2 ^ 32
    let j0 := origin.toNat / 2 ^ 32
    let kb := kbOf f.ty
    if w < 16 then .next (s.divergent a g g.live)
    else if !f.scl && !runOk f.dst (nregOf (fragWords f.ty) w) then .next (s.illegal a g)
    else if f.isWin && winRowlen (win.getD 0) = 0 then .next (s.bounds a g g.allLanes origin)
    else if !f.isWin && (!rc.valid f.ty.size || rc.rowlen = 0) then .next (s.bounds a g g.allLanes origin)
    else if (if f.roleB then i0 else j0) % kb ≠ 0 then .next (s.misaligned a g g.allLanes origin)
    else if g.counter 6 ≥ 63 && g.parkOp.isNone then .next (s.parkRoom a g 6)
    else
      let elems := regionElems f.roleB kb i0 j0
      let reg := if f.isWin then
          match s.teamOf g with
          | some t => s.regionWindow a g f t (win.getD 0) elems
          | none => .stop (s.bounds a g g.allLanes origin)
        else s.regionRecord a g f rc elems
      match reg with
      | .stop s => .next s
      | .ok keys geom s =>
        if f.scl then
          let c := if f.isWin then winRowlen (win.getD 0) else rc.rowlen
          let rn := if f.isWin then winSize (win.getD 0) / (c * f.ty.size) else rc.extent / (c * f.ty.size)
          if geom = some 0 then issueLdf s a g f ((scaleAt f.roleB c rn i0 j0).map fun _ => none) oneF32
          else
            let base : Nat ⊕ Nat := if f.isWin then .inr (((s.teamOf g).map fun t => spadKey t.core (t.base + winScoff (win.getD 0))).getD 0) else .inl rc.scale
            match s.scaleKeys a g (rc.traceTag g) base (scaleAt f.roleB c rn i0 j0) with
            | .stop s => .next s
            | .ok ks _ s => issueLdf s a g f ks 0
        else
          let ps : List (Nat × List Piece) := if !f.isWin then [] else
            (List.range keys.length).filterMap fun i => (keys.getD i none).map fun k =>
              (i / (4 / f.ty.size) % w, [{ key := k, n := f.ty.size, coh := true, va := 0 }])
          let (g', s') := if f.isWin && (s.quadQueue g.core g.quad).length < 16 then s.noteRace g false (s.raceWords g ps) else (g, s)
          issueLdf s' a g' f keys (BitVec.ofNat 32 (zeroCode f.ty))

/-! ### Completion -/

/-- The engine fault of an operation (R269, R271). -/
def State.mtxFault (s : State) (m : MtxOp) (cause : Nat) (d32 d40 : Nat) : State :=
  s.sendRec (m.core / 12) { m.rcd with cause := cause, d32 := BitVec.ofNat 64 d32, d40 := BitVec.ofNat 64 d40, d56 := BitVec.ofNat 64 s.time }

/-- The writes of a late result in a group that holds some of the issuing group's lanes: each takes its
value from the operation's writes, by home lane; none leaves the register. -/
def Res.fill (ws : List Write) (shift : Nat) (r : Res) (flags : List (Nat × Nat)) : Res :=
  { r with
    late := false, flags := flags
    writes := r.writes.filterMap fun w =>
      match w with
      | .v l n _ => ws.findSome? fun x => match x with
        | .v l' n' y => if l' = l + shift ∧ n' = n then some (.v l n y) else none
        | _ => none
      | .q l p _ => ws.findSome? fun x => match x with
        | .q l' p' y => if l' = l + shift ∧ p' = p then some (.q l p y) else none
        | _ => none
      | .s n _ => ws.findSome? fun x => match x with
        | .s n' y => if n' = n then some (.s n y) else none
        | _ => none }

/-- What an operation has produced for a group that holds some of the issuing group's lanes (R67): the values of its
late result, which arrives as any other from now on, and its flags; a result with nothing left is outstanding no longer. -/
def Group.landOp (g : Group) (op home : Nat) (ws : List Write) (flags : Nat) : Group :=
  if g.results.any fun r => r.op == some op && r.late then
    let fl := if flags = 0 then [] else (List.range g.width).map fun l => (l, flags)
    { g with results := (g.results.map fun (r : Res) => if r.op == some op && r.late then r.fill ws (g.home - home) fl else r).filter fun r =>
        !(r.op == some op && r.writes.isEmpty && r.flags.isEmpty) }
  else g

def State.landOp (s : State) (op home : Nat) (ws : List Write) (flags : Nat) : State :=
  { s with groups := s.groups.map fun g => g.landOp op home ws flags }

/-- The matrix unit as a source (R384). -/
def MtxOp.source (m : MtxOp) : Nat := srcOf 2 (m.core / 12) (m.core % 12) m.quad

/-- The end of an operation waits for room for its record (R393). -/
def State.mtxHeld (s : State) (m : MtxOp) : Bool :=
  s.blocked m.ctx m.source 0x31 m.trTag

/-- No result of an operation is outstanding. -/
def State.landed (s : State) (op : Nat) : Bool := s.groups.all fun g => g.results.all fun r => r.op != some op

/-- The matrix operation ends: it leaves the queue and lowers MTX (R252). -/
def State.endMtx (s : State) (m : MtxOp) (err : Bool) : State :=
  let s := { s with mtx := s.mtx.filter fun x => x.op != m.op }
  let s := s.traceE m.rcd 2 0x31 m.trTag m.core (m.tile.getD 0) (m.rcd.seq + bit err * 2 ^ 31)
  s.completeAll m.op

/-- The operation has done its work, and ends when its register results have arrived. -/
def State.landMtx (s : State) (m : MtxOp) (err : Bool) : State :=
  if s.landed m.op then s.endMtx m err else { s with mtx := s.mtx.map fun x => if x.op == m.op then { x with landing := some err } else x }

/-- The operations whose last results have arrived end. -/
def State.endLanded (s : State) : State :=
  (s.mtx.filter fun m => m.landing.isSome && s.landed m.op && !s.mtxHeld m).foldl (fun s m => s.endMtx m (m.landing.getD false)) s

/-- An operation that writes nothing ends in error (R271). -/
def State.failMtx (s : State) (m : MtxOp) (cause d32 d40 : Nat) : State :=
  ((s.mtxFault m cause d32 d40).landOp m.op m.home [] 0).landMtx m true

def State.putTile (s : State) (m : MtxOp) (x : Tile) : State :=
  match s.team? m.ctx m.tlin with
  | some t => s.setTeam (t.setTile x)
  | none => s

/-- Flags for the groups that count an operation, resident or in a phase record (R97, R263, R269, R300). -/
def State.orStat (s : State) (op : Nat) (fstat mstat : W32) : State :=
  let f := fun (g : Group) => if g.ops.any (fun o => o.op == op) then { g with fstat := g.fstat ||| fstat, mstat := g.mstat ||| mstat } else g
  { s with groups := s.groups.map f
           teams := s.teams.map fun t => if t.phases.isEmpty then t else { t with phases := t.phases.map fun p => { p with grp := f p.grp } } }

/-! ### Sampling (R407) -/

/-- A sampled operation that has updated its tile is retained, or skipped for want of a slot. -/
def State.retain (s : State) (m : MtxOp) (x : Sample) : State :=
  if !m.sampled then s
  else
    let d := m.rcd.seq + m.audTag * 2 ^ 16
    if (s.aud.samples.filter fun y => y.ridge == m.core / 12).length ≥ 64 then
      (s.countSlot m 816).traceE m.rcd 6 0x62 m.audTag m.core 0 d
    else ({ s with aud := { s.aud with samples := s.aud.samples ++ [x] } }).traceE m.rcd 6 0x60 m.audTag m.core (m.tile.getD 0) d

def MtxOp.sample (m : MtxOp) (aty bty : Ty) (a b : List W32) (sa : List W32) (sb : W32) (old new : Tile) : Sample :=
  { ridge := m.core / 12, ctx := m.ctx, tag := m.audTag, ord := m.audOrd, tile := m.tile.getD 0, rcd := m.rcd, aty := aty, bty := bty
    a := fragElems aty a, b := fragElems bty b, sa := sa, sb := sb, told := old.words.toList, tnew := new.words.toList
    by_ := m.by_, slot := m.audSlot }

/-- A tile update by fragments. -/
def State.updateTile (s : State) (m : MtxOp) (f : LF) (x : Tile) (a : List W32) (sa : List W32) : State :=
  let sb := m.sb.getD oneF32
  let y := mmaTile x f.ty f.bty a m.b sa sb
  ((s.putTile m y).retain m (m.sample f.ty f.bty a m.b sa sb x y)).endMtx m false

/-! ### Drains -/

/-- r(i, j) of R261 with its flags. -/
def drainCell (m : MtxOp) (f : LF) (x : Tile) (i j : Nat) : Nat × Nat :=
  let n := 4 / f.ty.size
  let idx := 16 * i + j
  let w := idx / n
  let mode := if f.rnd = .md then gmRnd m.gmode else f.rnd
  let e : Env := { ty := f.ty, mode := mode, sat := f.mod.getLsbD 0 || gmSat m.gmode, ftz := gmFtz m.gmode
                   sr := if mode = .sr then srbits m.srSeed m.srCtr (m.home + w % m.width) (w / m.width * n + idx % n) else 0 }
  let t := fvOf .f32 (x.get i j).toNat
  let sc := fvOf .f32 (m.sb.getD (m.sa.getD i 0)).toNat
  let p := FV.mul t sc
  match m.bias with
  | none => fround e [t, sc] p
  | some b =>
    let bv := fvOf .f32 (b.getD j 0).toNat
    let y := FV.add e.down p.1 bv
    fround e [t, sc, bv] (y.1, p.2 ||| y.2)

def drainAll (m : MtxOp) (f : LF) (x : Tile) : List (Nat × Nat) := (List.range 256).map fun k => drainCell m f x (k / 16) (k % 16)

/-- Words of drained elements in order. -/
def packDrain (t : Ty) (xs : List Nat) : List W32 :=
  let n := 4 / t.size
  (List.range (256 / n)).map fun w => (packWords t n ((List.range n).map fun p => xs.getD (w * n + p) 0)).headD 0

/-- The issuing group's push number of the first slot that a late result fills. -/
def State.pushOf (s : State) (op : Nat) : Nat :=
  (s.groups.findSome? fun g => (g.results.find? fun r => r.op == some op && r.late).bind fun r =>
    r.writes.foldl (fun m w => match w with
      | .q _ p _ => some (match m with
        | none => p
        | some q => min p q)
      | _ => m) none).getD 0

/-- The writes of a run of words for the issuing group's lanes. -/
def opWrites (m : MtxOp) (d : Spec) (push : Nat) (words : List W32) : List Write :=
  (List.range words.length).flatMap fun i =>
    match d with
    | .v n => [.v (i % m.width) (n.val + i / m.width) (words.getD i 0)]
    | .q _ => [.q (i % m.width) (push + i / m.width) (words.getD i 0)]
    | _ => []

/-- The values that a drain reports (R261, R411), its flags and the clearing of the tile (`.z`). -/
def State.afterDrain (s : State) (m : MtxOp) (f : LF) (x : Tile) (rs : List (Nat × Nat)) : State :=
  let s := if m.audOn then s.reportAll m.ctx (m.core / 12) m.by_ m.audTag m.audSlot m.rcd (rs.map fun p => fvOf f.ty p.1) else s
  if f.mod.getLsbD 1 then s.putTile m { x with words := Vector.replicate 256 0 } else s

def State.endMdrain (s : State) (m : MtxOp) (f : LF) (x : Tile) : State :=
  let rs := drainAll m f x
  let s := s.afterDrain m f x rs
  let ws := opWrites m f.dst (s.pushOf m.op) (packDrain f.ty (rs.map Prod.fst))
  (s.landOp m.op m.home ws (orAll (rs.map Prod.snd))).landMtx m false

def State.endMdrains (s : State) (m : MtxOp) (f : LF) (x : Tile) : State :=
  let rs := drainAll m f x
  let key := (m.keys.headD none).getD 0
  let pitch := ((m.sv.headD 0).toNat) / 2 ^ 32
  let z := f.ty.size
  let rows := (List.range 16).map fun i => (key + i * pitch, ((rs.drop (16 * i)).take 16).flatMap fun p => toLE z p.1)
  let ps : List Piece := rows.map fun p => { key := p.1, n := p.2.length, coh := true, va := 0 }
  let bad := s.badLines ps
  let s := rows.foldl (fun s p =>
    s.engineWrite 2 m.op m.core ((p.2.mapIdx fun i b => (p.1 + i, true, b)).filter fun x => !bad.any fun l => decide (l ≤ x.1) && decide (x.1 < l + 128))) s
  let s := (s.afterDrain m f x rs).orStat m.op (BitVec.ofNat 32 (orAll (rs.map Prod.snd))) 0
  match bad with
  | [] => (s.cleanLines (ps.flatMap fun p => (List.range p.n).map fun i => p.key + i)).endMtx m false
  | l :: _ => (s.mtxFault m 0x0C l (s.structAt l)).endMtx m true

/-! ### Row statistics (R264) -/

def absBits (abs : Bool) (x : W32) : Nat := if abs then x.toNat % 2 ^ 31 else x.toNat

def rowMax (abs : Bool) (row : List W32) : Nat :=
  let bs := row.map (absBits abs)
  let y := bs.foldl (fPick .f32 true) (bs.headD 0)
  if (fvOf .f32 y).isNan then canonNan .f32 else y

def rowSum (abs : Bool) (row : List W32) : Nat :=
  (roundTo .rne 0 .f32 false false (sumFV false (row.map fun x => fvOf .f32 (absBits abs x))).1).1

def State.endMrows (s : State) (m : MtxOp) (f : LF) (x : Tile) : State :=
  let abs := f.mod.getLsbD 0
  let rows := (List.range 16).map fun i => (List.range 16).map fun j => x.get i j
  let word := fun (k : Nat) =>
    let row := rows.getD (k % m.width % 16) []
    BitVec.ofNat 32 (if k < m.width then rowMax abs row else rowSum abs row)
  let ws := opWrites m f.dst (s.pushOf m.op) ((List.range (2 * m.width)).map word)
  (s.landOp m.op m.home ws 0).landMtx m false

/-! ### Implicit convolution -/

/-- A row of MCONV's A fragment: padded, or read at an element offset (R268). -/
inductive ConvRow where
  | zero
  | pad
  | at_ (e : Nat)

def convRow (h : Shp) (m0 kx kb i : Nat) : ConvRow :=
  let m := m0 + i
  let k0 := kx * kb
  let c0 := k0 % h.c
  let tap := k0 / h.c
  let ty := tap / h.fw
  let tx := tap % h.fw
  if m ≥ h.nb * h.p * h.q then .zero
  else
    let n := m / (h.p * h.q)
    let py := m % (h.p * h.q) / h.q
    let px := m % h.q
    let y : Int := py * h.uh - h.pt + ty * h.dh
    let x : Int := px * h.uw - h.pl + tx * h.dw
    if y < 0 ∨ y ≥ h.ht ∨ x < 0 ∨ x ≥ h.wd then .pad
    else .at_ (n * h.imgs + y.toNat * h.rows + x.toNat * h.pxs + c0)

/-- What reading a run of an engine operation's bytes gives. -/
inductive Got where
  | ok (key : Nat) (pte : W64)
  | fault (va cause : Nat)

/-- A byte address of an engine operation of a group (R134). -/
def State.engineAt (s : State) (ctx : Nat) (acc : Acc) (va : Nat) : Got × State :=
  match s.translate ctx true acc va with
  | (.ok k e, s) => (.ok k e, s)
  | (.fail c, s) => (.fault va c, s)
  | (.priv, s) => (.fault va 5, s)

/-- Why an operation cannot go on: a page to wait for, or an error with its details. -/
inductive Halted where
  | page (va cause : Nat)
  | error (cause d32 d40 : Nat)

/-- A page that fails for an engine: one to wait for, or an uncorrectable entry of its tables (R424). -/
def State.pageStop (s : State) (va cause : Nat) : Halted :=
  if mediaCause ≤ cause then .error 0x0C (cause - mediaCause) (s.structAt (cause - mediaCause)) else .page va cause

/-- One access or constant of MCONV's A fragment (R268): an element at an offset, an element that is not read, or the
row's scale, which is read when a page of the row has GEOM strip. -/
inductive ConvStep where
  | elem (o : Nat)
  | const (x : Nat)
  | oob (o : Nat)
  | scale (e : Option Nat)

/-- The steps of a row. -/
def ConvRow.steps (t : Ty) (rc : Rcd) (padv : Nat) : ConvRow → List ConvStep
  | .zero => List.replicate (kbOf t) (.const (zeroCode t)) ++ [.scale none]
  | .pad => List.replicate (kbOf t) (.const (padv % 2 ^ t.bits)) ++ [.scale none]
  | .at_ e =>
    let z := t.size
    ((List.range (kbOf t)).map fun k => if (e + k) * z + z ≤ rc.extent then .elem ((e + k) * z) else .oob ((e + k) * z)) ++ [.scale (some e)]

/-- A step of the fragment, over what has been read; an aligned unit is read once for a row (R147). -/
def State.convStep (s : State) (ctx : Nat) (t : Ty) (rc : Rcd) (x : ConvStep) (c : Gather) : Except Halted Gather × State :=
  let c := { c with pos := c.pos + 1 }
  let read := fun (va n : Nat) (k : Nat → W64 → State → Except Halted Gather × State) =>
    match s.engineAt ctx .read va with
    | (.fault v cause, s) => (.error (s.pageStop v cause), s)
    | (.ok key p, s) =>
      match s.poisoned key n with
      | some l => (.error (.error 0x0C l (s.structAt l)), s)
      | none => k key p s
  match x with
  | .const v => (.ok { c with elems := c.elems ++ [v] }, s)
  | .oob o =>
    if rc.strict then (.error (.error 0x08 ((rc.base + o) % 2 ^ 64) 0), s)
    else (.ok { c with elems := c.elems ++ [zeroCode t], oob := true }, s)
  | .elem o =>
    let va := (rc.base + rc.swizzle o) % 2 ^ 64
    read va t.size fun key p s =>
      if pteFmt p ≠ t.code || !geomOk false t (pteGeom p) then (.error (.error 0x0A va (fmtWord (pteFmt p) (pteGeom p)).toNat), s)
      else
        let (x, us) := s.elemRead c.units key t.size
        (.ok { c with elems := c.elems ++ [x], units := us, geoms := if c.geoms.contains (pteGeom p) then c.geoms else c.geoms ++ [pteGeom p] }, s)
  | .scale none => (.ok { c with sa := c.sa ++ [oneF32], geoms := [], units := [] }, s)
  | .scale (some e) =>
    if !c.geoms.contains 1 then (.ok { c with sa := c.sa ++ [oneF32], geoms := [], units := [] }, s)
    else
      read ((rc.scale + 4 * stripIndex rc.rowlen (e / rc.rowlen) (e % rc.rowlen)) % 2 ^ 64) 4 fun key _ s =>
        (.ok { c with sa := c.sa ++ [BitVec.ofNat 32 (s.elemRead c.units key 4).1], geoms := [], units := [] }, s)

/-- The steps from where the operation stands: what stops it, what it has read then, and whether all are done. -/
def State.convRun (s : State) (ctx : Nat) (t : Ty) (rc : Rcd) : List ConvStep → Gather → Option Halted × Gather × State
  | [], c => (none, c, s)
  | x :: r, c =>
    match s.convStep ctx t rc x c with
    | (.ok c, s) => s.convRun ctx t rc r c
    | (.error h, s) => (some h, c, s)

/-- What a matrix operation has read is kept (R134). -/
def State.keepGot (s : State) (m : MtxOp) (c : Gather) : State :=
  { s with mtx := s.mtx.map fun x => if x.op == m.op then { x with got := c } else x }

/-- An operation waits at a faulting access (R134). -/
def State.mtxWait (s : State) (m : MtxOp) (va cause : Nat) : State :=
  let (n, recd, s) := s.joinMerge (m.core / 144) m.ctx va cause (m.core / 12) none
  let s := match recd with
    | none => s
    | some joins => s.sendRec (m.core / 12) { m.rcd with code := 0x0B, cause := cause, cls := 2, merge := n.getD 0, d32 := BitVec.ofNat 64 va
                                                         flags := m.rcd.flags + (if joins then 16 else 0), d56 := BitVec.ofNat 64 s.time }
  { s with mtx := s.mtx.map fun x => if x.op == m.op then { x with wait := n } else x }

/-- MCONV reads from where it stands: to the end, or to a place from which it goes on later, its accesses being unordered
(R147). -/
def State.endMconv (s : State) (m : MtxOp) (f : LF) (x : Tile) : State :=
  let h := Shp.of m.shape
  let rc := Rcd.ofRegs m.sv
  let pos := m.sv.getD 4 0
  let steps := ((List.range 16).map fun i => convRow h (pos.toNat % 2 ^ 32) (pos.toNat / 2 ^ 32) (kbOf f.ty) i).flatMap fun r => r.steps f.ty rc h.padv
  let todo := steps.drop m.got.pos
  let n := (s.cut.filter fun k => decide (0 < k)).getD todo.length
  let (stop, c, s) := s.convRun m.ctx f.ty rc (todo.take n) m.got
  let s := if c.oob then s.orStat m.op 0 1 else s
  match stop with
  | some (.page va k) => (s.keepGot m c).mtxWait m va k
  | some (.error k d32 d40) => s.failMtx m k d32 d40
  | none =>
    if n < todo.length then s.keepGot m c
    else
      let n := 4 / f.ty.size
      let a := (List.range (fragWords f.ty)).map fun w => (packWords f.ty n ((List.range n).map fun p => c.elems.getD (w * n + p) 0)).headD 0
      s.updateTile m f x a c.sa

/-! ### LDF -/

/-- LDF reads some more of its elements or scales, each aligned unit once (R147). -/
def State.ldfRead (s : State) (m : MtxOp) (f : LF) (n : Nat) : MtxOp :=
  let got := ((m.keys.drop m.got.pos).take n).foldl (fun (c : Gather) k =>
    match k with
    | some key =>
      let (x, us) := s.elemRead c.units key (if f.scl then 4 else f.ty.size)
      { c with elems := c.elems ++ [x], units := us }
    | none => { c with elems := c.elems ++ [(m.sb.getD 0).toNat] }) m.got
  { m with got := { got with pos := m.got.pos + n } }

/-- The words that LDF loads: elements in fragment order, or scales. -/
def MtxOp.ldfWords (m : MtxOp) (f : LF) : List W32 :=
  if f.scl then m.got.elems.map (BitVec.ofNat 32)
  else
    let n := 4 / f.ty.size
    (List.range (fragWords f.ty)).map fun w => (packWords f.ty n ((List.range n).map fun p => m.got.elems.getD (w * n + p) 0)).headD 0

/-- LDF reads from where it stands, to the end or to a place from which it goes on later, and has then produced its
results. -/
def State.endLdf (s : State) (m : MtxOp) (f : LF) : State :=
  let left := m.keys.length - m.got.pos
  let n := (s.cut.filter fun k => decide (0 < k)).getD left
  let m := s.ldfRead m f n
  if n < left then s.keepGot m m.got
  else
    let ws := m.ldfWords f
    let writes := match f.dst with
      | .s n => [Write.s n.val ((ws.headD 0).setWidth 64)]
      | d => if f.scl then opWrites m d 0 ((List.range m.width).map fun l => ws.getD (l % 16) 0) else opWrites m d 0 ws
    (s.landOp m.op m.home writes 0).landMtx m false

/-- Before a TLBINV completes, the accesses by translations that it removes have been made (R129): those of LDF, which
translates at issue. -/
def State.finishLdfs (s : State) (ctx : Nat) : State :=
  { s with mtx := s.mtx.map fun m => match m.i with
      | .ldf f => if m.ctx == ctx && m.landing.isNone then s.ldfRead m f (m.keys.length - m.got.pos) else m
      | _ => m }

/-! ### The event (R252) -/

/-- An operation may complete: none before it names its tile, and no event record holds the unit (R329). -/
def State.mtxReady (s : State) (m : MtxOp) : Bool :=
  m.wait.isNone && m.landing.isNone && !s.engineHeld m.core 2 && !s.opWaits m.source m.rcd &&
  ((s.mtx.takeWhile fun x => x.op != m.op).all fun x => m.tile.isNone || x.landing.isSome || !(x.core == m.core && x.quad == m.quad && x.tile == m.tile && x.tlin == m.tlin && x.ctx == m.ctx))

/-- An operation that reads a tile finds an uncorrectable error there: the tile is in the error state, and the operation
ends in error (R271). -/
def State.tileFault (s : State) (m : MtxOp) (x : Tile) : State := (s.putTile m { x with err := true, bad := false }).failMtx m 0x0C 0 5

def State.mtxDo (s : State) (m : MtxOp) : State :=
  let x := ((s.team? m.ctx m.tlin).map fun t => t.tile m.quad (m.tile.getD 0)).getD (Tile.zero m.quad (m.tile.getD 0))
  let sound := fun (k : State) => if x.err || x.bad then s.tileFault m x else k
  match m.lost with
  | some (va, c) => s.failMtx m 0x0B va c
  | none =>
    match m.i with
    | .mzero _ => (s.putTile m (Tile.zero m.quad (m.tile.getD 0))).endMtx m false
    | .mload _ => (s.putTile m { x with err := false, bad := false, words := Vector.ofFn fun k => m.a.getD k.val 0 }).endMtx m false
    | .mma f => sound (s.updateTile m f x m.a m.sa)
    | .mconv f => sound (s.endMconv m f x)
    | .mdrain f => sound (s.endMdrain m f x)
    | .mdrains f => sound (s.endMdrains m f x)
    | .mrows f => sound (s.endMrows m f x)
    | .ldf f => s.endLdf m f
    | _ => s.endMtx m false

def execMatrixOpComplete (s : State) : Out State :=
  match s.ev with
  | .nat op =>
    match s.mtx.find? fun m => m.op == op with
    | some m => if s.mtxReady m && !s.mtxHeld m then .next (s.mtxDo m) else .next s
    | none => .next s
  | _ => .next s

end Sys2Proof.Machine
end

