-- ==== Sys2Proof/Machine/Sync.lean ====
section
/-! DEFINITION. Named barriers, phases, the team barrier and futures (R27, R283-R293, R300-R305). -/

namespace Sys2Proof.Machine

/-! ### The words of a barrier (R284) -/

/-- The fields of a barrier. -/
structure Bar where
  cnt : Nat
  pend : Nat
  gen : Nat
  pval : Bool
  pop : Nat
  err : Bool
  ovr : Bool
  lstat : Nat
  tx : Int
  pay : W64
  pays : List (Nat × W64)
  outs : List (Nat × W64)
  ops : List Nat := []
  past : List Nat := []
  deriving DecidableEq, Repr

def Bar.of (b : Barrier) : Bar :=
  let w := b.w0.toNat
  { cnt := bitsOf w 9 0, pend := bitsOf w 25 16, gen := bitsOf w 31 26, pval := w.testBit 33, pop := bitsOf w 36 34, err := w.testBit 37
    ovr := w.testBit 38, lstat := bitsOf w 47 40, tx := signed 40 b.w1.toNat, pay := b.w2, pays := b.pays, outs := b.outs, ops := b.ops, past := b.past }

def Bar.enc (x : Bar) : Barrier :=
  { w0 := BitVec.ofNat 64 (x.cnt + x.pend * 2 ^ 16 + x.gen * 2 ^ 26 + bit x.pval * 2 ^ 33 + x.pop * 2 ^ 34 + bit x.err * 2 ^ 37 +
      bit x.ovr * 2 ^ 38 + x.lstat * 2 ^ 40)
    w1 := BitVec.ofNat 64 (wrapTo 40 x.tx), w2 := x.pay, pays := x.pays, outs := x.outs, ops := x.ops, past := x.past }

def Team.bar (t : Team) (n : Nat) : Bar := Bar.of (t.barriers.getD n {})

def Team.setBar (t : Team) (n : Nat) (b : Bar) : Team :=
  { t with barriers := if h : n < 64 then t.barriers.set n b.enc h else t.barriers }

/-- A barrier number that names an initialised barrier of the team (R283). -/
def Team.barOk (t : Team) (n : Nat) : Bool := decide (n < t.bcnt) && decide (n < 64) && (t.bar n).cnt != 0

/-! ### Re-admission state (R27, R302) -/

/-- The group of a phase record, or one that waited resident, as it continues at its label. -/
def Group.reenter (g : Group) (label : Pc) (carry : W64) (q : Bool) : Group :=
  { g with
    pc := label, entry := true, park := .ready, results := [], mask := 0, redo := none, stage := 0, waited := 0, yielded := false, lost := []
    trTag := 0, audTag := 0, audOrd := 0, pushes := 0
    lanes := g.lanes.map fun l =>
      { v := Vector.ofFn fun i => if carry.getLsbD i.val then l.v.getD i.val 0 else 0
        q := if q then l.q else Vector.replicate 16 0, stg := Vector.replicate 4 0 } }

/-! ### Waking (R285, R303) -/

/-- The waiters of a phase of a barrier are woken with a status, and BARPAY's with a result, and have observed the copies
counted into it (R150); the phase records of that phase are ready for re-admission. A group that waits resident stays
while a stop that counts it as stopped is in progress (R300). -/
def State.wakeBar (s : State) (t : Team) (n gen status : Nat) (result : W64) (ops : List Nat := []) : State :=
  let s := (s.groupsOf t).foldl (fun s g =>
    let a := Agent.group g.id
    let g := g.observeOps ops
    match g.park with
    | .barwait b k d => if b = n ∧ k = gen then s.finishParked a (g.postS d (BitVec.ofNat 64 (status + gen * 256))) else s
    | .barpay b k d => if b = n ∧ k = gen then s.finishParked a (g.postS d result) else s
    | .phase b k label carry q =>
      if b = n ∧ k = gen then
        if (s.ctx? g.ctx).any fun c => c.stop != .none then s.setGroup { g with stage := 1 }
        else (s.wake a g).setGroup (g.reenter label carry q)
      else s
    | _ => s) s
  let (k, s) := s.fresh
  match s.team? t.ctx t.tlin with
  | none => s
  | some t' => s.setTeam { t' with phases := t'.phases.map fun p =>
      if p.bar = n ∧ p.gen = gen ∧ p.ended.isNone then { p with ended := some k, grp := p.grp.observeOps ops } else p }

/-- Every waiter of a cell is woken with the filled value (R291), which is counted on the space of its instruction (R290). -/
def State.wakeCell (s : State) (key : Nat) (x : W64) : State :=
  let cur := s.cur
  let s := s.groups.foldl (fun (s : State) g =>
    match g.park with
    | .fwait k path d =>
      if k = key then
        let (op, t) := s.fresh
        t.finishParkedMem (.group g.id) ((g.raise path op g.live).post (match d with
          | .s m => [.s m.val x]
          | _ => []) [] (some op))
      else s
    | _ => s) s
  { s with cur := cur }

/-- The groups of a team that wait at its barrier go on (R304), in a new epoch (R400). -/
def State.wakeTeam (s : State) (ctx tlin : Nat) : State :=
  match s.team? ctx tlin with
  | none => s
  | some t =>
    let s := (s.groupsOf t).foldl (fun s g => if g.park == .teambar then s.finishParked (.group g.id) g else s) s
    match s.team? ctx tlin with
    | some t => s.setTeam { t with epoch := (t.epoch + 1) % 2 ^ 16 }
    | none => s

/-- A wake of the synchronisation engine. -/
def State.syncWake (s : State) : SyncWake → State
  | .bar ctx tlin n gen st x ops => match s.team? ctx tlin with
    | some t => s.wakeBar t n gen st x ops
    | none => s
  | .cell key x => s.wakeCell key x
  | .team ctx tlin => s.wakeTeam ctx tlin

/-- An event of the synchronisation engine, for a group or copy: its record, and the wake, which waits while the record does
(R393). -/
def State.syncEvent (s : State) (r : EvRec) (kind tag core x d : Nat) (w : SyncWake) : State :=
  let src := srcOf 4 (core / 12) (core % 12) 0
  let held := s.blocked r.ctx src kind tag
  let s := s.traceE r 4 kind tag core x d
  if held then
    { s with trc := { s.trc with wakes := s.trc.wakes ++ [{ ten := s.tenantNum r.ctx, src := src, wake := w
                                                            pay := formG r.ctx r.gnum r.root (r.flags % 8) r.pc.toNat x d }] } }
  else s.syncWake w

/-- The wakes whose records have been created. -/
def State.freeWakes (s : State) : State :=
  let waits := fun (x : HeldWake) => (s.tenant? x.ten).any fun t => t.pend.any fun r => r.src == x.src && r.pay == x.pay
  let due := s.trc.wakes.filter fun x => !waits x
  if due.isEmpty then s
  else due.foldl (fun s x => s.syncWake x.wake) { s with trc := { s.trc with wakes := s.trc.wakes.filter waits } }

/-- Who releases a barrier: a record by the synchronisation engine for the group or copy (R387 BREL). -/
structure Rel where
  rcd : EvRec
  tag : Nat
  core : Nat

def relOf (g : Group) : Rel := { rcd := g.record 0, tag := g.trTag.toNat, core := g.core }

/-- The end of a phase of a barrier, with its record and its waiters' wake. -/
def State.endPhase (s : State) (r : Rel) (t : Team) (n gen status : Nat) (result : W64) (ops : List Nat) : State :=
  s.syncEvent r.rcd 0x40 r.tag r.core n ((gen + 1) % 64 + status * 256) (.bar t.ctx t.tlin n gen status result ops)

/-- A phase ends with a result, which a participant that is saved still gets (R287, R334). -/
def Bar.ends (b : Bar) (x : W64) : List (Nat × W64) := (if b.pval then [(b.gen, x)] else []) ++ b.outs.filter fun p => p.1 != b.gen

/-- The phase releases when nothing is awaited (R285). -/
def State.tryRelease (s : State) (r : Rel) (ctx tlin n : Nat) : State :=
  match s.team? ctx tlin with
  | none => s
  | some t =>
    let b := t.bar n
    if b.pend ≠ 0 ∨ b.tx ≠ 0 then s
    else
      let st := 1 + 2 * bit b.err + 4 * bit b.ovr
      let b' := { b with lstat := st, gen := (b.gen + 1) % 64, pend := b.cnt, err := false, ovr := false, pval := false, pay := 0, pays := [], outs := b.ends b.pay
                         ops := [], past := if s.late.isEmpty then [] else b.past ++ b.ops }
      let t' := { t.setBar n b' with epoch := (t.epoch + 1) % 2 ^ 16 }
      (s.setTeam t').endPhase r t n b.gen st b.pay b.ops

/-- An update of a barrier, and its release when due. -/
def State.barStep (s : State) (r : Rel) (ctx tlin n : Nat) (fn : Bar → Bar) : State :=
  match s.team? ctx tlin with
  | none => s
  | some t => (s.setTeam (t.setBar n (fn (t.bar n)))).tryRelease r ctx tlin n

/-- TX clamped to its range (R285). -/
def Bar.addTx (b : Bar) (k : Int) : Bar :=
  let x := b.tx + k
  if x < -(2 ^ 39) then { b with tx := -(2 ^ 39), err := true }
  else if x > 2 ^ 39 - 1 then { b with tx := 2 ^ 39 - 1, err := true }
  else { b with tx := x }

def Bar.arrive (b : Bar) : Bar := if b.pend = 0 then { b with ovr := true } else { b with pend := b.pend - 1 }

/-- BARINIT and BARREINIT (R285, R314). -/
def State.barInit (s : State) (r : Rel) (t : Team) (n cnt : Nat) : State :=
  let b := t.bar n
  let b' : Bar := { b with gen := (b.gen + 1) % 64, cnt := cnt, pend := cnt, tx := 0, err := false, ovr := false, pval := false, pay := 0, pays := [], outs := b.ends 0 }
  (s.setTeam (t.setBar n b')).endPhase r t n b.gen 0x09 0 []

/-! ### Payloads (R287) -/

/-- A float sum in the order of home lanes. -/
def payFloat (l : List (Nat × W64)) : W64 :=
  match (sortBy (fun x y => decide (x.1 ≤ y.1)) l).map fun p => p.2.toNat % 2 ^ 32 with
  | [] => 0
  | x :: r => BitVec.ofNat 64 (r.foldl (faddRne .f32) x)

/-- A payload that arrives: the first sets POP. -/
def Bar.payload (b : Bar) (op home : Nat) (a : W64) : Bar :=
  let op := if b.pval then b.pop else op
  let pays := b.pays ++ [(home, a)]
  let pay :=
    if op = 1 then payFloat pays
    else if !b.pval then a
    else match op with
      | 0 => b.pay + a
      | 2 => if b.pay.slt a then b.pay else a
      | 3 => if b.pay.slt a then a else b.pay
      | 4 => b.pay &&& a
      | _ => b.pay ||| a
  { b with pval := true, pop := op, pay := pay, pays := pays }

/-! ### Instructions on barriers -/

/-- The barrier number of a field (R274). -/
def Rd.barNum (r : Rd) (x : Spec) : Nat :=
  match x with
  | .v n => n.val
  | x => (r.uni 0 none x).toNat

/-- The s registers among some sources. -/
def sSrcs (xs : List Spec) : List (Spec × Nat) := (xs.filter Spec.isS).map fun x => (x, 1)

/-- The start of an instruction on an initialised barrier of the group's team. -/
def barOp (wf : Bool) (f : LF) (s : State) (init : Bool) (k : Agent → Group → Rd → Team → Nat → Out State) : Out State :=
  startOp s wf f (sSrcs [f.sa, f.sb]) fun a g r => groupOnly s a g <|
    let n := r.barNum f.sa
    match s.teamOf g with
    | none => .next (s.bounds a g g.allLanes (BitVec.ofNat 64 n))
    | some t =>
      if n ≥ 64 || n ≥ t.bcnt || (init && (t.bar n).cnt == 0) then .next (s.bounds a g g.allLanes (BitVec.ofNat 64 n))
      else k a g r t n

def execBarinit (f : LF) (s : State) : Out State :=
  barOp (Wf.barinit f) f s false fun a g r t n =>
    let c := (r.uni 1 f.lit f.sb)
    if c.toNat < 1 || c.toNat > 1023 then .next (s.bounds a g g.allLanes c)
    else .next ((s.finish a g f.sw).barInit (relOf g) t n c.toNat)

def execBarexp (f : LF) (s : State) : Out State :=
  barOp (Wf.barexp f) f s true fun a g r _ n =>
    let x := (r.uni 1 f.lit f.sb)
    if x.toNat ≥ 2 ^ 32 then .next (s.bounds a g g.allLanes x)
    else .next ((s.finish a g f.sw).barStep (relOf g) g.ctx g.tlin n fun b => b.addTx x.toNat)

/-- An arrival waits until the LS counters are zero (R288). -/
def arrival (s : State) (a : Agent) (g : Group) (k : Out State) : Out State :=
  if g.lsZero then k else .next (s.park a g (.drain .ls))

def execBararr (f : LF) (s : State) : Out State :=
  barOp (Wf.bararr f) f s true fun a g r t n =>
    let x := (r.uni 1 f.lit f.sb)
    if x.toNat ≥ 2 ^ 32 then .next (s.bounds a g g.allLanes x)
    else arrival s a g <|
      let g' := g.postS f.dst (BitVec.ofNat 64 (t.bar n).gen)
      .next ((s.finish a g' f.sw).barStep (relOf g) g.ctx g.tlin n fun b => (b.addTx x.toNat).arrive)

def execBarwait (f : LF) (s : State) : Out State :=
  barOp (Wf.barwait f) f s true fun a g r t n =>
    let k := (r.uni 1 f.lit f.sb).toNat % 64
    if (t.bar n).gen ≠ k then .next (s.finish a ((g.observeOps (t.bar n).past).postS f.dst (BitVec.ofNat 64 ((t.bar n).lstat + k * 256))) f.sw)
    else .next (s.park a { g with psw := f.sw } (.barwait n k f.dst))

def execBartest (f : LF) (s : State) : Out State :=
  barOp (Wf.bartest f) f s true fun a g r t n =>
    let k := (r.uni 1 f.lit f.sb).toNat % 64
    let x := if (t.bar n).gen = k then 0 else (t.bar n).lstat + k * 256
    .next (s.finish a (g.postS f.dst (BitVec.ofNat 64 x)) f.sw)

def execBarpay (f : LF) (s : State) : Out State :=
  barOp (Wf.barpay f) f s true fun a g r t n =>
    arrival s a g <|
      let x := r.uni 1 f.lit f.sb
      let s := s.park a { g with psw := f.sw } (.barpay n (t.bar n).gen f.dst)
      .next (s.barStep (relOf g) g.ctx g.tlin n fun b => (b.payload f.ext.toNat g.home x).arrive)

/-! ### Phases (R300-R303) -/

/-- The size of a phase record (R301). -/
def phaseSize (w : Nat) (carry : W64) (q : Bool) : Nat := (384 + 4 * w * popc 64 carry.toNat + (if q then 64 * w else 0) + 127) / 128 * 128

/-- The lent parts on a core of clusters that have a team left (R116). -/
def State.lentParts (s : State) (core : Nat) : List (Nat × Nat) :=
  ((s.teams.filter fun t => !t.retired).flatMap fun t =>
    (if t.core = core then [(t.lentBase, t.lent)] else []) ++ (t.parts.filter fun p => p.1 == core).map fun p => (p.2, t.lent)).eraseDups

/-- The free bytes of a core's phase reserve. -/
def State.reserveFree (s : State) (core : Nat) : Nat :=
  let ts := s.teams.filter fun t => t.core == core && !t.retired
  Config.coreSpad - ((s.lentParts core).foldl (fun n p => n + p.2) 0 + ts.foldl (fun n t => n + t.size + t.phases.foldl (fun m p => m + p.size) 0) 0)

/-- The lowest free slot of a team's phase records. -/
def Team.freeSlot (t : Team) : Nat := ((List.range 64).find? fun i => !(t.phases.any fun p => p.slot == i)).getD 64

def execPhase (f : LF) (s : State) : Out State :=
  barOp (Wf.phase f) f s true fun a g r t n =>
    let carry := r.uni 1 f.lit f.sb
    let q := f.mod.getLsbD 0
    let label := relTarget g f
    match s.checkTarget a g label with
    | .stop s => .next s
    | .ok s =>
      if !g.lsZero || !g.results.isEmpty then .next (s.park a g (.drain .both))
      else
        let gen := (t.bar n).gen
        let pc : Pc := label.setWidth 57
        let size := phaseSize g.width carry q
        if size > s.reserveFree g.core || t.freeSlot ≥ 64 then
          let s := s.park a { g with psw := false } (.phase n gen pc carry q)
          .next (s.barStep (relOf g) g.ctx g.tlin n Bar.arrive)
        else
          let p : PhaseRec := { slot := t.freeSlot, grp := { g with pc := pc }, carry := carry, q := q, bar := n, gen := gen, size := size }
          let s := (s.traceI a g 0x12 14 0).dropGroup g.id
          let s := s.setTeam { t with phases := t.phases ++ [p] }
          .next (s.barStep (relOf g) g.ctx g.tlin n Bar.arrive)

/-- The first slice context of a free, aligned run on a quadrant. -/
def State.freeSlices (s : State) (core quad len : Nat) : List Nat :=
  (List.range (64 / max 1 len)).map (· * len) |>.filter fun first =>
    (s.groups.filter fun g => g.core == core && g.quad == quad && decide (g.slice0 < first + len) && decide (first < g.slice0 + g.slices)).isEmpty

/-- All free, aligned runs of slice contexts of a core: quadrant and first slice context. -/
def State.freeRuns (s : State) (core len : Nat) : List (Nat × Nat) :=
  (List.range 4).flatMap fun q => (s.freeSlices core q len).map fun f => (q, f)

/-- R177: a first slice context keeps its remainder modulo the root group's width in slices. -/
def rootAligned (rwidth slice0 was : Nat) : Bool := slice0 % 2 ^ rwidth == was % 2 ^ rwidth

/-- The phase records of a core that are ready, in the order of R303. -/
def State.readyPhases (s : State) (core : Nat) : List (Team × PhaseRec) :=
  sortBy (fun x y => decide (x.2.ended.getD 0 < y.2.ended.getD 0) || (x.2.ended == y.2.ended && decide (x.2.grp.home ≤ y.2.grp.home)))
    ((s.teams.filter fun t => t.core == core && !t.retired).flatMap fun t => (t.phases.filter fun p => p.ended.isSome).map fun p => (t, p))

/-- The context takes no part in a stop, so that its groups may become resident. -/
def State.mayEnter (s : State) (ctx : Nat) : Bool := ((s.ctx? ctx).map fun c => c.stop == .none).getD false

/-- The slice contexts that a group takes are no longer marked as released by EXIT (R178). -/
def State.claim (s : State) (g : Group) : State :=
  { s with teams := s.teams.map fun t =>
      if t.core == g.core then
        { t with exited := t.exited.filter fun p => !(p.1 == g.quad && decide (g.slice0 ≤ p.2) && decide (p.2 < g.slice0 + g.slices)) }
      else t }

/-- A phase record is re-admitted (R303). -/
def State.readmit (s : State) (t : Team) (p : PhaseRec) (run : Nat × Nat) : State :=
  let (id, s) := (s.nextGroup, { s with nextGroup := s.nextGroup + 1 })
  let g := { p.grp.reenter p.grp.pc p.carry p.q with id := id, quad := run.1, slice0 := run.2 }
  let t' := { t with phases := t.phases.filter fun x => x.slot != p.slot, epoch := (t.epoch + 1) % 2 ^ 16 }
  ((({ s with groups := s.groups ++ [g] }.setTeam t').inheritStreams id [p.grp.id]).claim g).tracePlace g 1

/-- R303: the first ready phase record of a core, of those whose contexts are not being stopped, is re-admitted on aligned free
slice contexts. -/
def execPhaseReadmission (s : State) : Out State :=
  match s.ev with
  | .nat core =>
    match (s.readyPhases core).filter fun x => s.mayEnter x.1.ctx with
    | (t, p) :: _ =>
      match (s.freeRuns core p.grp.slices).filter fun r => rootAligned t.rwidth r.2 p.grp.slice0 with
      | [] => .next s
      | r :: rs =>
        .next (s.readmit t p ((r :: rs).getD (Config.choose s.tick 1 % (rs.length + 1)) r))
    | [] => .next s
  | _ => .next s

/-! ### The team barrier (R304) -/

/-- The team barrier releases when every group that has not exited has arrived. -/
def State.tryTeambar (s : State) (ctx tlin : Nat) (by_ : Group) : State :=
  match s.team? ctx tlin with
  | none => s
  | some t =>
    let gs := s.groupsOf t
    if gs.isEmpty || !t.phases.isEmpty || !(gs.all fun g => g.park == .teambar) || s.trc.wakes.any (fun x => x.wake == .team ctx tlin) then s
    else s.syncEvent (by_.record 0) 0x42 by_.trTag.toNat by_.core gs.length 0 (.team ctx tlin)

def execTeambar (f : LF) (s : State) : Out State :=
  startOp s (Wf.teambar f) f [] fun a g _ => groupOnly s a g <|
    arrival s a g <| .next ((s.park a { g with psw := f.sw } .teambar).tryTeambar g.ctx g.tlin g)

/-! ### The end of a group (R30, R178, R191) -/

/-- The group releases its slice contexts and counts as exited for its team, which retires with its last group. -/
def State.endGroup (s : State) (g : Group) : State :=
  let s := (s.traceI (.group g.id) g 0x11 0 0).dropGroup g.id
  match s.teamOf g with
  | none => s
  | some t =>
    if (s.groupsOf t).isEmpty && t.phases.isEmpty then
      { s with teams := s.teams.filter fun x => !(x.ctx == t.ctx && x.tlin == t.tlin) }
    else
      (s.setTeam { t with exited := t.exited ++ (List.range g.slices).map fun i => (g.quad, g.slice0 + i) }).tryTeambar g.ctx g.tlin g

/-- An exiting group may end. -/
def Group.canEnd (g : Group) : Bool := g.park == .exiting && g.results.isEmpty && g.ops.isEmpty

/-- It ends now: its issue unit has room for its record (R393). -/
def State.mayEnd (s : State) (g : Group) : Bool := g.canEnd && !s.groupWaits g 0 && !s.blocked g.ctx (g.src 0) 0x11 g.trTag.toNat

def execExitComplete (s : State) : Out State :=
  match s.ev with
  | .nat id =>
    match s.group? id with
    | some g => if s.mayEnd g then .next (s.endGroup g) else .next s
    | none => .next s
  | _ => .next s

/-- A team is stalled (R305). -/
def State.isStalled (s : State) (t : Team) : Bool :=
  let gs := s.groupsOf t
  !(s.copies.any fun c => c.ctx == t.ctx && c.tlin == t.tlin) && (!gs.isEmpty || !t.phases.isEmpty) &&
  t.phases.all (fun p => p.ended.isNone) &&
  gs.all fun g => match g.park with
    | .barwait _ _ _ | .barpay _ _ _ | .teambar | .phase _ _ _ _ _ => true
    | .fwait _ path _ => path == 2
    | _ => false

/-- Since when each team is stalled; a stall that ends may be followed by another (R305). -/
def State.updateStalls (s : State) : State :=
  { s with teams := s.teams.map fun t =>
      if !t.retired && s.isStalled t then
        match t.stall with
        | some _ => t
        | none => { t with stall := some (s.time, (s.col (t.core / 12)).rstall.toNat), stallSent := false }
      else { t with stall := none, stallSent := false } }

/-- R305: the stall has lasted for RSTALL, and the event was not sent. -/
def State.stallDue (s : State) (t : Team) : Bool :=
  !t.retired && !t.stallSent && (match t.stall with
    | some (since, lim) => lim != 0 && decide (s.time ≥ since + 16 * lim)
    | none => false)

/-- One record for each group of the team, resident or out of residency: its wait and PC. -/
def State.sendStall (s : State) (t : Team) : State :=
  let recs := ((s.groupsOf t).map fun g => { g.record 0x23 with cause := g.park.code }) ++
    t.phases.map fun p => { p.grp.record 0x23 with cause := 14 }
  let s := recs.foldl (fun s r => (s.deliver t.ctx { r with d32 := BitVec.ofNat 64 t.pos, d56 := BitVec.ofNat 64 s.time }).countFault (t.core / 144) 0x23) s
  match s.team? t.ctx t.tlin with
  | some t => s.setTeam { t with stallSent := true }
  | none => s

def execTeamStall (s : State) : Out State :=
  match s.ev with
  | .nat k =>
    match s.teams[k]? with
    | some t => if s.stallDue t then .next (s.sendStall t) else .next s
    | none => .next s
  | _ => .next s

/-! ### Futures (R290-R293) -/

/-- The cell of a future instruction: its key and offset in its space, or a stop. -/
inductive Cell where
  | at_ (key off : Nat)
  | stop (s : State)

def State.cell (s : State) (a : Agent) (g : Group) (f : LF) (r : Rd) : Cell :=
  let o := dispOf f + signed 64 (r.uni 1 f.lit f.sb).toNat
  let sp := match f.sa with
    | .v n => Space.spad n.val
    | _ => Space.clu
  let q : Req := { sp := sp, n := 16, path := none, acc := .atomic }
  if !s.inBounds a g q o then .stop (s.bounds a g g.allLanes (BitVec.ofInt 64 o))
  else if o % 16 ≠ 0 then .stop (s.misaligned a g g.allLanes (BitVec.ofInt 64 o))
  else
    match s.locate a g q 0 o.toNat with
    | (k, _) :: _ =>
      match s.poisoned k 16 with
      | some l => .stop (s.raise a g { code := 0x0C, lanes := g.allLanes, d32 := BitVec.ofNat 64 l, d40 := BitVec.ofNat 64 (s.structAt l) })
      | none => .at_ k o.toNat
    | [] => .stop (s.bounds a g g.allLanes (BitVec.ofInt 64 o))

def futPath (f : LF) : Nat := if f.sa = .zero then 3 else 2

/-- A future instruction: counted on SPD or CSM, one access. -/
def futureOp (wf : Bool) (f : LF) (s : State) (k : Agent → Group → Rd → Nat → Nat → Out State) : Out State :=
  startOp s wf f (sSrcs [f.sb, f.sc]) fun a g r => groupOnly s a g <|
    if g.counter (futPath f) ≥ 63 then .next (s.parkRoom a g (futPath f))
    else
      match s.cell a g f r with
      | .stop s => .next s
      | .at_ key off => k a g r key off

/-- The result of a future instruction is outstanding, with its access counted. -/
def Group.futResult (g : Group) (f : LF) (op : Nat) (x : W64) : Group :=
  (g.raise (futPath f) op g.live).post (match f.dst with
    | .s n => [.s n.val x]
    | _ => []) [] (some op)

def execFwait (f : LF) (s : State) : Out State :=
  futureOp (Wf.fwait f) f s fun a g _ key _ =>
    let (g, s) := match f.sa with
      | .v _ => s.noteRace g false (s.raceWords g [(0, [{ key := key, n := 16, coh := true, va := 0 }])])
      | _ => (g, s)
    if readLE s.mem (key + 8) 8 % 2 = 1 then
      let (op, s) := s.fresh
      .next (s.finishMem a (g.futResult f op (BitVec.ofNat 64 (readLE s.mem key 8))) f.sw)
    else .next (s.park a { g with psw := f.sw } (.fwait key (futPath f) f.dst))

def execFfill (f : LF) (s : State) : Out State :=
  futureOp (Wf.ffill f) f s fun a g r key off =>
    let x := r.uni 2 f.lit f.sc
    let old := readLE s.mem (key + 8) 8 % 2
    let s := s.storeBytes a true key (toLE 8 x.toNat ++ toLE 8 1)
    let (op, s) := s.fresh
    let s := s.finish a (g.futResult f op (BitVec.ofNat 64 old)) f.sw
    let woken := s.groups.countP fun h => match h.park with
      | .fwait k _ _ => k == key
      | _ => false
    let s := s.syncEvent (g.record 0) 0x41 g.trTag.toNat g.core (min 127 woken) off (.cell key x)
    -- the race epoch of the team whose allocation holds the cell (R400)
    .next { s with teams := s.teams.map fun t =>
      if !t.retired && decide (spadKey t.core t.base ≤ key) && decide (key < spadKey t.core t.base + t.size) then { t with epoch := (t.epoch + 1) % 2 ^ 16 } else t }

def execFclr (f : LF) (s : State) : Out State :=
  futureOp (Wf.fclr f) f s fun a g _ key _ =>
    let w := readLE s.mem (key + 8) 8
    let s := s.storeBytes a true (key + 8) (toLE 8 0)
    let (op, s) := s.fresh
    .next (s.finish a (g.futResult f op (BitVec.ofNat 64 (w % 2))) f.sw)

end Sys2Proof.Machine
end

