-- ==== Sys2Proof/Machine/Sem.lean ====
section
/-! DEFINITION. Semaphores and rings (R294-R299), and the notification rings on which NWAITN waits
(R374): one shared test serves the instruction and every re-evaluation of a waiter. -/

namespace Sys2Proof.Machine

/-! ### The uniform access of a semaphore or ring instruction (R294, R297) -/

/-- Where the access lands: its piece, a dropped access (R121), or a stop. -/
inductive Spot where
  | at_ (p : Piece) (s : State)
  | drop
  | stop (s : State)

/-- The machine-check fault of a whole instruction (R219). -/
def State.mediaFault (s : State) (a : Agent) (g : Group) (l : Nat) : State :=
  s.raise a g { code := 0x0C, lanes := g.allLanes, d32 := BitVec.ofNat 64 l, d40 := BitVec.ofNat 64 (s.structAt l) }

/-- The checks of R202 for n bytes at an offset, in their order, and the translation. -/
def State.spot (s : State) (a : Agent) (g : Group) (rc : Rcd) (acc : Acc) (o : Int) (n : Nat) (dropOk : Bool) : Spot :=
  let q : Req := { sp := .glob, rcd := rc, n := n, path := some 1, acc := acc }
  if !rc.valid n then .stop (s.bounds a g g.allLanes (BitVec.ofInt 64 o))
  else if !s.inBounds a g q o then
    if dropOk && !rc.strict then .drop else .stop (s.bounds a g g.allLanes (BitVec.ofInt 64 o))
  else
    let va := (rc.base + rc.swizzle o.toNat) % 2 ^ 64
    if va % n ≠ 0 then .stop (s.misaligned a g g.allLanes (BitVec.ofNat 64 va))
    else
      match s.trans a acc va with
      | (.priv, s) => .stop (s.privilege a g)
      | (.fail c, s) => .stop (s.transFault a g 1 [(va, c)] (some (rc.traceTag g)))
      | (.ok k e, s) =>
        match s.poisoned k n with
        | some l => .stop (s.mediaFault a g l)
        | none => .at_ { key := k, n := n, coh := pteCoh e, va := va } s

/-- The start of a semaphore or ring instruction: GST has room (R148), and the offset is formed. -/
def gstOp (wf : Bool) (f : LF) (s : State) (k : Agent → Group → Rd → Rcd → Int → Out State) : Out State :=
  startOp s wf f (sRun f.sa 4 ++ sSrcs [f.sb, f.sc]) fun a g r =>
    if g.counter 1 ≥ 63 then .next (s.parkRoom a g 1) else k a g r (r.rcd f.sa) (dispOf f + r.offX f 0)

/-- A watch that an access of a group triggers (R398). -/
def State.watchPiece (s : State) (a : Agent) (g : Group) (wr : Bool) (p : Piece) : Group :=
  if isCol a then g else s.noteWatch g true wr [(0, [(p.va, p.n)])]

/-- The one access counted on GST, with its result. -/
def State.countGst (s : State) (g : Group) (d : Spec) (x : W64) : Group × State :=
  let (op, s) := s.fresh
  ((g.raise 1 op g.live).postS d x (some op), s)

/-! ### SEMSIG -/

/-- The addition of a signal (R294). -/
def State.signalAt (s : State) (a : Agent) (p : Piece) (x : W64) : Nat × State := s.atomAt a p fun old => (old + x.toNat) % 2 ^ 64

def execSemsig (f : LF) (s : State) : Out State :=
  gstOp (Wf.semsig f) f s fun a g r rc o =>
    match s.spot a g rc .atomic o 8 true with
    | .stop s => .next s
    | .drop =>
      if !g.lsZero then .next (s.park a g (.drain .ls))
      else
        let s := (s.fenceStreams a f.ext.toNat).traceG a g 1 0x22 (rc.traceTag g) g.pc.toNat 0 1
        .next (s.finish a (({ g with mstat := g.mstat ||| 1 } : Group).postS f.dst 0) f.sw)
    | .at_ p t =>
      if !g.lsZero then .next (s.park a g (.drain .ls))
      else
        let (old, s) := (t.fenceStreams a f.ext.toNat).signalAt a p (r.uni 2 f.lit f.sc)
        let (g, s) := s.countGst (s.watchPiece a g true p) f.dst (BitVec.ofNat 64 old)
        .next (s.finishMem a g f.sw (some (rc.traceTag g)))

/-! ### Waiters (R295) -/

/-- The order in which the waiters of a counter are served: slots first, then registration. -/
def Waiter.before (x y : Waiter) : Bool :=
  match x.slot, y.slot with
  | some _, none => true
  | none, some _ => false
  | _, _ => decide (x.order < y.order)

/-- No waiter on a counter is served before this one (R295). -/
def State.isHead (s : State) (w : Waiter) (k : Nat) : Bool := s.waiters.all fun x => x.key != k || !x.before w

def State.freeWait (s : State) (ridge : Nat) : Option Nat :=
  (List.range 64).find? fun i => !(s.waiters.any fun w => w.ridge == ridge && w.slot == some i)

/-- A waiter registers: in a free slot of the ridge, or spilled. -/
def State.addWaiter (s : State) (w : Waiter) : State :=
  let (n, s) := s.fresh
  { s with waiters := s.waiters ++ [{ w with slot := s.freeWait w.ridge, order := n, since := s.time, limit := (s.col w.ridge).rsemto.toNat }] }

/-- A freed slot takes the oldest spilled waiter of the ridge. -/
def State.giveSlot (s : State) (ridge i : Nat) : State :=
  let ws := s.waiters
  match ws.find? fun x => x.ridge == ridge && x.slot.isNone && ws.all fun y => y.ridge != ridge || y.slot.isSome || decide (x.order ≤ y.order) with
  | none => s
  | some m => { s with waiters := ws.map fun (x : Waiter) => if x.order == m.order then { x with slot := some i } else x }

/-- Waiters leave together, and their slots are given to those that stay. -/
def State.dropWaiters (s : State) (p : Waiter → Bool) : State :=
  (s.waiters.filter p).foldl (fun s w => match w.slot with
    | some i => s.giveSlot w.ridge i
    | none => s) { s with waiters := s.waiters.filter fun w => !p w }

def State.dropWaiter (s : State) (w : Waiter) : State := s.dropWaiters fun x => x.order == w.order

/-! ### The test of a waiter -/

/-- What testing a counter or a ring gives: the values of the result registers; a wait on a key; or a
fault. -/
inductive Tst where
  | done (vals : List W64) (s : State)
  | wait (key : Nat) (s : State)
  | trans (va cause : Nat) (s : State)
  | fault (f : FaultInfo) (s : State)

/-- A byte run of an agent's global access, or the fault it meets. -/
def State.tryAt (s : State) (a : Agent) (acc : Acc) (va n : Nat) (k : Piece → State → Tst) : Tst :=
  match s.trans a acc va with
  | (.ok key e, s) =>
    match s.poisoned key n with
    | some l => .fault { code := 0x0C, lanes := 1, d32 := BitVec.ofNat 64 l, d40 := BitVec.ofNat 64 (s.structAt l) } s
    | none => k { key := key, n := n, coh := pteCoh e, va := va } s
  | (.fail c, s) => .trans va c s
  | (.priv, s) => .fault { code := 0x02, lanes := 1 } s

/-- SEMWAIT's access to its counter (R294): head says that no earlier waiter is registered. -/
def State.testSem (s : State) (a : Agent) (va : Nat) (n : W64) (head : Nat → Bool) : Tst :=
  s.tryAt a .atomic va 8 fun p s =>
    if head p.key && decide (n.toNat ≤ readLE s.mem p.key 8) then
      let (old, s) := s.atomAt a p fun x => x - n.toNat
      .done [BitVec.ofNat 64 old] s
    else .wait p.key s

/-- The header of a ring (R297). -/
structure Hdr where
  res : Nat
  con : Nat
  logn : Nat
  logs : Nat

def Hdr.of (x : Nat) : Hdr := { res := bitsOf x 31 0, con := bitsOf x 63 32, logn := bitsOf x 95 64, logs := bitsOf x 127 96 }

def Hdr.ok (h : Hdr) : Bool := decide (h.logn ≤ 16) && decide (4 ≤ h.logs) && decide (h.logs ≤ 12)

def Hdr.enc (h : Hdr) : Nat := h.res + h.con * 2 ^ 32 + h.logn * 2 ^ 64 + h.logs * 2 ^ 96

/-- Entries reserved and not consumed. -/
def Hdr.used (h : Hdr) : Nat := (h.res + 2 ^ 32 - h.con) % 2 ^ 32

/-- The distance of the slot of index i from the header, and its phase bit. -/
def Hdr.slotOff (h : Hdr) (i : Nat) : Nat := 128 + i % 2 ^ h.logn * 2 ^ h.logs
def Hdr.phase (h : Hdr) (i : Nat) : Nat := i / 2 ^ h.logn % 2

/-- A window is closed (R360). -/
def Win.closed (w : Win) : Bool := w.gen % 2 == 0

/-- NWAITN's access to a window's ring (R374): try_ says that it does not wait; head, that no waiter comes before (R295). -/
def State.testRing (s : State) (a : Agent) (ctx idx : Nat) (try_ : Bool) (head : Nat → Bool) : Tst :=
  match (s.ctx? ctx).bind fun c => c.wins.find? fun w => w.idx == idx with
  | none => .fault { code := 0x08, lanes := 1, d32 := BitVec.ofNat 64 idx } s
  | some w =>
    if w.notif = 0 then .fault { code := 0x08, lanes := 1, d32 := BitVec.ofNat 64 idx } s
    else if w.notif % 16 ≠ 0 then .fault { code := 0x09, lanes := 1, d32 := BitVec.ofNat 64 w.notif } s
    else
      s.tryAt a .atomic w.notif 16 fun p s =>
        let h := Hdr.of (readLE s.mem p.key 16)
        if !h.ok then .fault { code := 0x08, lanes := 1, d32 := BitVec.ofNat 64 w.notif } s
        else
          let empty := fun (s : State) =>
            if w.closed || try_ then Tst.done [0, BitVec.ofNat 64 (2 ^ 63 + bit w.closed * 2 ^ 62)] s else .wait p.key s
          if h.res = h.con then empty s
          else
            s.tryAt a .read (w.notif + h.slotOff h.con) 16 fun q s =>
              let x := readLE s.mem q.key 16
              if x % 2 ≠ h.phase h.con then empty s
              else if !head p.key then .wait p.key s
              else
                let (_, s) := (s.learn a q.key 16).atomAt a p fun _ => { h with con := (h.con + 1) % 2 ^ 32 }.enc
                .done [BitVec.ofNat 64 (x / 2 ^ 64), BitVec.ofNat 64 (bitsOf x 63 32 + bitsOf x 31 16 * 2 ^ 32)] s

/-- Results of consecutive s registers from a specifier. -/
def Group.postRegs (g : Group) (d : Spec) (vals : List W64) (op : Option Nat := none) : Group :=
  match d with
  | .s n => g.post (vals.mapIdx fun i x => .s (n.val + i) x) [] op
  | _ => g

/-- A fault at a whole instruction. -/
def State.tstFault (s : State) (a : Agent) (g : Group) (f : FaultInfo) : State := s.raise a g { f with lanes := g.allLanes }

/-- SEMWAIT (R294): GST is raised once; the first access succeeds, or registers the group. -/
def execSemwait (f : LF) (s : State) : Out State :=
  gstOp (Wf.semwait f) f s fun a g r rc o => groupOnly s a g <|
    match s.spot a g rc .atomic o 8 false with
    | .stop s => .next s
    | .drop => .next s
    | .at_ p _ =>
      let n := r.uni 2 f.lit f.sc
      let scope := f.ext.toNat
      match s.testSem a p.va n fun k => s.waiters.all fun w => w.key != k with
      | .trans va c s => .next (s.transFault a g 1 [(va, c)] (some (rc.traceTag g)))
      | .fault x s => .next (s.tstFault a g x)
      | .wait k s =>
        let (op, s) := s.fresh
        let g := { (g.raise 1 op g.live).complete op with accTag := some (rc.traceTag g) }
        let s := s.park a { g with psw := f.sw } (.semwait f.dst)
        .next (s.addWaiter { gid := some g.id, ridge := g.ridge, ctx := g.ctx, va := p.va, key := k, n := n, slot := none, order := 0, since := 0, scope := scope })
      | .done vals s =>
        let (g, s) := s.countGst (s.watchPiece a g true p) f.dst (vals.headD 0)
        .next (s.park a { g with psw := f.sw, accTag := some (rc.traceTag g) } (.fence scope false))

/-! ### Re-evaluation (R295, R296) -/

/-- The watches that NWAITN's accesses trigger (R398): the header, and the slot that it has read, whose index is CON's before it. -/
def State.watchRing (s : State) (a : Agent) (g : Group) (key va : Nat) (vals : List W64) : Group :=
  let h := Hdr.of (readLE s.mem key 16)
  let got := !(vals.getD 1 0).getLsbD 63
  let g := s.watchPiece a g true { key := key, n := 16, coh := true, va := va }
  if got || h.res != h.con then s.watchPiece a g false { key := key, n := 16, coh := true, va := va + h.slotOff (if got then (h.con + 2 ^ 32 - 1) % 2 ^ 32 else h.con) }
  else g

/-- A group whose wait has succeeded. -/
def State.endWait (s : State) (w : Waiter) (g : Group) (vals : List W64) : State :=
  let a := Agent.group g.id
  match g.park with
  | .semwait d =>
    let g := (s.watchPiece a g true { key := w.key, n := 8, coh := true, va := w.va }).postRegs d vals
    if g.lsZero then s.endFence a g w.scope else s.setGroup { g with park := .fence w.scope true }
  | .nwaitn d => s.finishParkedMem a ((s.watchRing a g w.key w.va vals).postRegs d vals)
  | _ => s

/-- A waiter whose test faults leaves the wait, and the fault is as at issue. -/
def State.failWait (s : State) (w : Waiter) (g : Group) (k : State → Agent → Group → State) : State :=
  let a := Agent.group g.id
  let s := { s.dropWaiter w with cur := { agent := a, next := g.pnext } }
  k (s.wake a g) a { g with park := .ready, waited := 0 }

/-- The test of a group's waiter. -/
def State.testWaiter (s : State) (w : Waiter) (id : Nat) : Tst :=
  if w.ring then s.testRing (.group id) w.ctx w.n.toNat false (s.isHead w) else s.testSem (.group id) w.va w.n (s.isHead w)

/-- The context of a group is stopped: what would end a wait of the group takes effect once it issues again (R41). -/
def State.stoppedGrp (s : State) (g : Group) : Bool := (s.ctx? g.ctx).any fun c => c.stop == .stopped

/-- The re-evaluation of a group's waiter. -/
def State.reevaluate (s : State) (w : Waiter) (id : Nat) : State :=
  match s.group? id with
  | none => s
  | some g =>
    if s.stoppedGrp g then s
    else
    match (s.obey (.group id) (some 0)).testWaiter w id with
    | .done vals t => (t.dropWaiter w).endWait w g vals
    | .wait _ _ => s
    | .trans va c t => t.failWait w g fun s a g => s.transFault a g 1 [(va, c)] g.accTag
    | .fault f t => t.failWait w g fun s a g => s.tstFault a g f

/-- A timeout of a waiter is due (R296, R315): once. -/
def State.waitDue (s : State) (w : Waiter) : Bool := !w.ring && !w.told && w.limit != 0 && decide (s.time ≥ w.since + 16 * w.limit)

/-- The record of a timeout (R330): the group, or the queue and its packet index. -/
def State.waitRecord (s : State) (w : Waiter) : EvRec :=
  let r : EvRec :=
    match w.gid.bind s.group? with
    | some g => g.record 0x22
    | none => { code := 0x22, flags := 32, ctx := w.ctx, seq := w.queue
                pc := BitVec.ofNat 64 (((s.queues.find? fun q => q.num == w.queue).map fun q => q.idx.toNat).getD 0) }
  { r with d32 := BitVec.ofNat 64 w.va, d40 := w.n, d48 := BitVec.ofNat 64 (readLE s.mem w.key 8), d56 := BitVec.ofNat 64 s.time }

def execSemaphoreWaitTimeout (s : State) : Out State :=
  match s.ev with
  | .nat k =>
    match s.waiters.find? fun w => w.order == k with
    | none => .next s
    | some w =>
      if s.waitDue w then
        let r := s.waitRecord w
        let s := { s with waiters := s.waiters.map fun (x : Waiter) => if x.order == k then { x with told := true } else x }
        .next ((s.sendRec w.ridge r).deliver w.ctx r)
      else .next s
  | _ => .next s

/-! ### Rings (R297-R299) -/

/-- RNGRES: the header as one atomic of 16 bytes. -/
def execRngres (f : LF) (s : State) : Out State :=
  gstOp (Wf.rngres f) f s fun a g r rc o =>
    let k := (r.uni 2 f.lit f.sc)
    if k.toNat < 1 || k.toNat > 65536 then .next (s.bounds a g g.allLanes k)
    else
      match s.spot a g rc .atomic o 16 false with
      | .stop s => .next s
      | .drop => .next s
      | .at_ p s =>
        let h := Hdr.of (readLE s.mem p.key 16)
        if !h.ok then .next (s.bounds a g g.allLanes (BitVec.ofInt 64 o))
        else
          let con := f.mod.getLsbD 0
          let i := if con then h.con else h.res
          let full := if con then decide (h.used < k.toNat) else decide (2 ^ h.logn < h.used + k.toNat)
          let h' := if con then { h with con := (h.con + k.toNat) % 2 ^ 32 } else { h with res := (h.res + k.toNat) % 2 ^ 32 }
          let s := if p.coh then s.learn a p.key 16 else s
          let s := if full then s else s.storeBytes a p.coh p.key (toLE 16 h'.enc)
          let (g, s) := s.countGst (s.watchPiece a g true p) f.dst (BitVec.ofNat 64 (i + bit full * 2 ^ 63))
          .next (s.finishMem a g f.sw (some (rc.traceTag g)))

/-- RNGPUB: the header is read, and the phase bit of the slot word is written. -/
def execRngpub (f : LF) (s : State) : Out State :=
  gstOp (Wf.rngpub f) f s fun a g r rc o =>
    match s.spot a g rc .read o 16 false with
    | .stop s => .next s
    | .drop => .next s
    | .at_ p s =>
      let h := Hdr.of (readLE s.mem p.key 16)
      if !h.ok then .next (s.bounds a g g.allLanes (BitVec.ofInt 64 o))
      else
        let i := (r.uni 2 f.lit f.sc).toNat % 2 ^ 32
        match s.spot a g rc .atomic (o + h.slotOff i) 4 false with
        | .stop s => .next s
        | .drop => .next s
        | .at_ q s =>
          let s := if p.coh then s.learn a p.key 16 else s
          let (_, s) := s.atomAt a q fun w => w / 2 * 2 + h.phase i
          let g := s.watchPiece a (s.watchPiece a g false p) true q
          let (op, s) := s.fresh
          .next (s.finishMem a (g.raise 1 op g.live) f.sw (some (rc.traceTag g)))

end Sys2Proof.Machine
end

