-- ==== Sys2Proof/Machine/Copy.lean ====
section
/-! DEFINITION. The copy engine (R273-R282): the checks and the issue of a copy, and the steps in which
its units are written and it completes. -/

namespace Sys2Proof.Machine

/-! ### The box (R276, R279) -/

structure Box where
  doff : Int
  soff : Int
  srp : Nat
  drp : Nat
  dpp : Nat
  spp : Nat
  bar : Nat
  z : Nat
  y : Nat
  x : Nat
  deriving DecidableEq, Repr

def Box.of (b : List W64) : Box :=
  let r := fun i => (b.getD i 0).toNat
  { doff := signed 64 (r 0), soff := signed 64 (r 1), srp := r 2 / 2 ^ 32, drp := r 2 % 2 ^ 32, dpp := r 3 % 2 ^ 48, spp := r 4 % 2 ^ 48
    bar := r 5 / 2 ^ 58, z := bitsOf (r 5) 57 48, y := bitsOf (r 5) 47 32, x := r 5 % 2 ^ 32 }

/-- The limits of the record: the zero bits, the counts, and BAR without `.bar`. -/
def boxOk (b : List W64) (bar list : Bool) : Bool :=
  let h := Box.of b
  (b.getD 3 0).toNat < 2 ^ 48 && (b.getD 4 0).toNat < 2 ^ 48 && decide (1 ≤ h.z) && decide (1 ≤ h.y) && decide (1 ≤ h.x) &&
  decide (h.x * h.y * h.z ≤ 2 ^ 32) && (bar || h.bar == 0) && (!list || (h.y == 1 && h.z == 1))

/-- The source and destination offsets of a row. -/
def CopyOp.row (c : CopyOp) (k : Nat) : Int × Int :=
  match c.list with
  | some l => l.getD k (0, 0)
  | none => (c.soff + (k / max 1 c.y) * c.spp + (k % max 1 c.y) * c.srp, c.doff + (k / max 1 c.y) * c.dpp + (k % max 1 c.y) * c.drp)

/-! ### Ends (R274, R277) -/

/-- An end as found at issue: the space code of MOD, and the base field. -/
def State.copyEnd (s : State) (g : Group) (r : Rd) (pos space : Nat) (x : Spec) : CopyEnd :=
  match space, x with
  | 0, x => { space := 0, rc := r.sregs pos x 4, size := (Rcd.ofRegs (r.sregs pos x 4)).extent }
  | 1, .v w =>
    match s.teamOf g with
    | some t => { space := 1, key := spadKey t.core (t.base + winBase (t.window w.val)), size := winSize (t.window w.val) }
    | none => { space := 1 }
  | 2, _ => { space := 2, size := ((s.teamOf g).map fun t => t.cx * t.cy * t.lent).getD 0 }
  | n, _ => { space := n, size := ((s.ctx? g.ctx).map fun c => 4 * c.ksize.toNat).getD 0 }

def CopyEnd.rcd (e : CopyEnd) : Rcd := Rcd.ofRegs e.rc

/-- A byte of an end is in bounds. -/
def CopyEnd.has (e : CopyEnd) (o : Int) : Bool := decide (0 ≤ o) && decide (o < e.size)

/-- The address of a byte of an end: virtual for a global end, a key for a window, else an offset. -/
def CopyEnd.addr (e : CopyEnd) (o : Int) : Int :=
  if e.space = 0 then (if e.has o then (e.rcd.base + e.rcd.swizzle o.toNat : Nat) else e.rcd.base + o) else e.key + o

/-- Out-of-bounds bytes stop the copy at issue (R278). -/
def CopyEnd.strict (e : CopyEnd) : Bool := e.space != 0 || e.rcd.strict

/-- A run of offsets lies in bounds. -/
def CopyEnd.holds (e : CopyEnd) (lo hi : Int) : Bool := decide (0 ≤ lo) && decide (hi ≤ e.size)

/-- The lowest byte and the end of each run of bytes that bounds an end: the whole box, or each row. -/
def CopyOp.runs (c : CopyOp) (dst : Bool) : List (Int × Int) :=
  match c.list with
  | some l => l.map fun p => let o := if dst then p.2 else p.1; (o, o + c.x)
  | none =>
    let o := if dst then c.doff else c.soff
    let last := (c.row (c.rows - 1))
    [(o, (if dst then last.2 else last.1) + c.x)]

def CopyOp.inside (c : CopyOp) (dst : Bool) : Bool :=
  let e := if dst then c.dst else c.src
  (c.runs dst).all fun p => e.holds p.1 p.2

/-! ### Issue -/

/-- The rows of a list copy (R279): CPYG gathers from, CPYS scatters to, the entries of the lanes. -/
def listRows (h : Box) (scatter : Bool) (es : List Int) : List (Int × Int) :=
  es.mapIdx fun r e => if scatter then (h.soff + r * h.srp, h.doff + e) else (h.soff + e, h.doff + r * h.drp)

/-- The barrier of a `.bar` copy is initialised (R281). -/
def State.barReady (s : State) (g : Group) (n : Nat) : Bool := ((s.teamOf g).map fun t => t.barOk n).getD false

/-- A copy's checks (R278) and its issue. -/
def issueCopy (s : State) (a : Agent) (g : Group) (f : LF) (r : Rd) (list : Option (Bool × List Int)) : Out State :=
  let b := r.sregs 2 f.sb 6
  let bar := f.ext.toNat == 1
  let h := Box.of b
  let lowest := fun (o : Int) => s.bounds a g g.allLanes (BitVec.ofInt 64 o)
  if !boxOk b bar list.isSome then .next (s.bounds a g g.allLanes (b.getD 5 0))
  else
    let c : CopyOp :=
      { op := 0, ctx := g.ctx, tlin := g.tlin, core := g.core, rcd := { g.record 0x20 with cls := 1, seq := g.seqCpy.toNat }, trTag := g.trTag.toNat
        dst := s.copyEnd g r 8 (f.mod.toNat % 4) f.dst, src := s.copyEnd g r 12 (f.mod.toNat / 4) f.sa
        x := h.x, y := h.y, rows := match list with
          | some l => l.2.length
          | none => h.y * h.z
        doff := h.doff, soff := h.soff, drp := h.drp, srp := h.srp, dpp := h.dpp, spp := h.spp
        list := list.map fun l => listRows h l.1 l.2, bar := if bar then some h.bar else none }
    if (c.dst.space == 0 && !c.dst.rcd.valid 0) || (c.src.space == 0 && !c.src.rcd.valid 0) then .next (s.bounds a g g.allLanes 0)
    else if !c.inside true && c.dst.strict then .next (lowest h.doff)
    else if !c.inside false && c.src.strict then .next (lowest h.soff)
    else if bar && !s.barReady g h.bar then .next (s.bounds a g g.allLanes (BitVec.ofNat 64 h.bar))
    else
      let (op, s) := s.fresh
      let oob := !c.inside true || !c.inside false
      let kib := min (2 ^ 16 - 1) ((h.x * c.rows + 1023) / 1024)
      let s := { s with copies := s.copies ++ [{ c with op := op }] }
      let s := s.traceE c.rcd 3 0x38 c.trTag g.core 0 (g.seqCpy.toNat + kib * 2 ^ 16)
      let g := { g.raise 5 op g.live with seqCpy := g.seqCpy + 1, mstat := if oob then g.mstat ||| 1 else g.mstat }
      .next (s.finish a g f.sw)

/-- A copy of a group: nothing for an empty active set (R275), else one operation counted on CPY. -/
def copyOp (wf : Bool) (f : LF) (s : State) (list : Option Bool) : Out State :=
  let ends := (if f.mod.toNat % 4 = 0 then sRun f.dst 4 else []) ++ (if f.mod.toNat / 4 = 0 then sRun f.sa 4 else [])
  startVec s wf f (ends ++ sRun f.sb 6 ++ (if list.isSome then [(f.sc, 2)] else [])) {} fun a g r lanes => groupOnly s a g <|
    if lanes.isEmpty then .next (s.finish a g f.sw)
    else if g.counter 5 ≥ 63 then .next (s.parkRoom a g 5)
    else
      let entry := fun (l : Nat) => match f.sc with
        | .v n => signed 64 (wordsNat (r.run 20 l n.val 2))
        | _ => 0
      issueCopy s a g f r (list.map fun sc => (sc, lanes.map entry))

def execCpy (f : LF) (s : State) : Out State := copyOp (Wf.cpy f) f s none
def execCpyg (f : LF) (s : State) : Out State := copyOp (Wf.cpyg f) f s (some false)
def execCpys (f : LF) (s : State) : Out State := copyOp (Wf.cpys f) f s (some true)

/-! ### Units (R280): the bytes of a row that lie in one aligned 16-byte unit of the destination -/

/-- The first aligned unit that a row may touch, and how many follow: a swizzle keeps a byte in its
128-byte block. -/
def CopyOp.span (c : CopyOp) (k : Nat) : Int × Nat :=
  let o := (c.row k).2
  let b : Int := if c.dst.space = 0 then c.dst.rcd.base else c.dst.key
  let swz := c.dst.space == 0 && c.dst.rcd.swz != 0
  let lo := if swz then b + o / 128 * 128 else b + o
  let hi := if swz then b + (o + c.x - 1) / 128 * 128 + 127 else b + o + c.x - 1
  (lo / 16, (hi / 16 - lo / 16).toNat + 1)

/-- Units that one row can have. -/
def CopyOp.stride (c : CopyOp) : Nat := c.x / 16 + 32

/-- The destination offsets of a unit, in ascending order. -/
def CopyOp.unit (c : CopyOp) (id : Nat) : List Int :=
  let k := id / c.stride
  let (first, n) := c.span k
  let j := id % c.stride
  let o := (c.row k).2
  if k < c.rows ∧ j < n then
    let u := first + j
    let b : Int := if c.dst.space = 0 then c.dst.rcd.base else c.dst.key
    ((List.range 272).map fun i => u * 16 - b - 128 + i).filter fun d => decide (o ≤ d) && decide (d < o + c.x) && decide (c.dst.addr d / 16 = u)
  else []

/-- A unit of a row that still has bytes to write. -/
def CopyOp.open_ (c : CopyOp) (id : Nat) : Bool := !c.done.contains id && !(c.unit id).isEmpty

/-- The units that the copy still has to write. -/
def CopyOp.left (c : CopyOp) : List Nat := (List.range (c.rows * c.stride)).filter c.open_

/-- A byte at an address of the destination has been written by a later row: its value is final. -/
def CopyOp.later (c : CopyOp) (k : Nat) (addr : Int) : Bool :=
  (List.range c.rows).any fun r =>
    let (first, n) := c.span r
    let j := addr / 16 - first
    decide (k < r) && decide (0 ≤ j) && decide (j < n) && c.done.contains (r * c.stride + j.toNat) &&
    (c.unit (r * c.stride + j.toNat)).any fun d => decide (c.dst.addr d = addr) && c.dst.has d

/-- The copy writes, or has written, every byte of the line that holds an address; all of it already, under done. -/
def CopyOp.wholeLine (c : CopyOp) (addr : Int) (done : Bool) : Bool :=
  (List.range 128).all fun i =>
    let b := addr / 128 * 128 + i
    (List.range c.rows).any fun r =>
      let (first, n) := c.span r
      let j := b / 16 - first
      decide (0 ≤ j) && decide (j < n) && (!done || c.done.contains (r * c.stride + j.toNat)) &&
      (c.unit (r * c.stride + j.toNat)).any fun d => decide (c.dst.addr d = b) && c.dst.has d

/-! ### Writing a unit -/

/-- The key of a byte of an end, for a copy of a team. -/
def State.endKey (s : State) (c : CopyOp) (e : CopyEnd) (acc : Acc) (o : Int) : Got × State :=
  match e.space with
  | 0 => s.engineAt c.ctx acc ((e.addr o).toNat % 2 ^ 64)
  | 1 => (.ok (e.key + o.toNat) plainLeaf, s)
  | 2 => (.ok (s.cluAt c.ctx c.tlin o.toNat) plainLeaf, s)
  | _ => (.ok (s.chipAt c.ctx o.toNat) plainLeaf, s)

/-- The source byte of a destination offset of a row: zero out of bounds (R278). An aligned unit is read once for a row
(R147). -/
def State.copyByte (s : State) (c : CopyOp) (k : Nat) (d : Int) : Except Halted Byte × CopyOp × State :=
  let o := (c.row k).1 + (d - (c.row k).2)
  if !c.src.has o then (.ok 0, c, s)
  else
    match s.endKey c c.src .read o with
    | (.fault va cause, s) => (.error (s.pageStop va cause), c, s)
    | (.ok key _, s) =>
      match s.poisoned key 1 with
      | some l => (.error (.error 0x0C l (s.structAt l)), c, s)
      | none =>
        let us := s.unitRead ((c.units.filter fun u => u.1 == k).map Prod.snd) key
        (.ok (unitByte us key), { c with units := us.map (fun u => (k, u)) ++ c.units.filter fun u => u.1 != k }, s)

/-- What a unit writes: its keys, whether coherent, and its bytes. -/
def State.copyUnit (s : State) (c : CopyOp) (id : Nat) : Except Halted (List (Nat × Bool × Byte)) × CopyOp × State :=
  let k := id / c.stride
  (c.unit id).foldl (fun (x : Except Halted (List (Nat × Bool × Byte)) × CopyOp × State) d =>
    match x.1 with
    | .error h => (.error h, x.2)
    | .ok l =>
      if !c.dst.has d || c.later k (c.dst.addr d) then (.ok l, x.2)
      else
        match x.2.2.copyByte x.2.1 k d with
        | (.error h, y) => (.error h, y)
        | (.ok b, c', s) =>
          match s.endKey c c.dst .write d with
          | (.fault va cause, s) => (.error (s.pageStop va cause), c', s)
          | (.ok key e, s) =>
            match s.poisoned key 1 with
            | some p => if c.wholeLine (c.dst.addr d) false then (.ok (l ++ [(key, pteCoh e, b)]), c', s) else (.error (.error 0x0C p (s.structAt p)), c', s)
            | none => (.ok (l ++ [(key, pteCoh e, b)]), c', s)) (.ok [], c, s)

def State.setCopy (s : State) (c : CopyOp) : State := { s with copies := s.copies.map fun x => if x.op == c.op then c else x }

/-- Who releases a barrier that a copy counts into. -/
def CopyOp.rel (c : CopyOp) : Rel := { rcd := c.rcd, tag := c.trTag, core := c.core }

/-- Bytes counted into the copy's barrier (R281, R285). -/
def State.countBar (s : State) (c : CopyOp) (n : Nat) (err : Bool) : State :=
  match c.bar with
  | none => s
  | some b =>
    -- what waits on the barrier observes the copy (R150), while writes of it have no place
    let ops := if s.late.any fun w => w.op == c.op then [c.op] else []
    s.barStep c.rel c.ctx c.tlin b fun x =>
      let y := x.addTx (-(n : Int))
      { y with err := y.err || err, ops := y.ops ++ ops.filter fun o => !y.ops.contains o }

/-- The copy ends (R148, R280). -/
def State.endCopy (s : State) (c : CopyOp) (err : Bool) : State :=
  let s := { s with copies := s.copies.filter fun x => x.op != c.op }
  let s := s.traceE c.rcd 3 0x39 c.trTag c.core 0 (c.rcd.seq + bit err * 2 ^ 31)
  s.completeAll c.op

/-- The copy ends in error (R282): what was not counted is counted at once, with ERR. -/
def State.failCopy (s : State) (c : CopyOp) (cause d32 d40 : Nat) : State :=
  let n := c.left.foldl (fun n u => n + (c.unit u).length) 0
  let s := s.countBar c n true
  let s := s.endCopy c true
  s.sendRec (c.core / 12) { c.rcd with cause := cause, d32 := BitVec.ofNat 64 d32, d40 := BitVec.ofNat 64 d40, d56 := BitVec.ofNat 64 s.time }

/-- The copy waits at a page (R134, R282). -/
def State.copyWait (s : State) (c : CopyOp) (va cause : Nat) : State :=
  let (n, recd, s) := s.joinMerge (c.core / 144) c.ctx va cause (c.core / 12) none
  let s := match recd with
    | none => s
    | some joins => s.sendRec (c.core / 12) { c.rcd with code := 0x0B, cause := cause, merge := n.getD 0, d32 := BitVec.ofNat 64 va
                                                         flags := c.rcd.flags + (if joins then 16 else 0), d56 := BitVec.ofNat 64 s.time }
  s.setCopy { c with wait := n }

/-- The lines that a unit's keys complete lose their uncorrectable data (R425). -/
def State.copyClean (s : State) (c : CopyOp) (id : Nat) : State :=
  if s.poison.isEmpty then s
  else
    (c.unit id).foldl (fun s d =>
      if c.dst.has d && c.wholeLine (c.dst.addr d) true then
        match s.endKey c c.dst .write d with
        | (.ok key _, s) => { s with poison := s.poison.filter fun l => !(decide (l ≤ key) && decide (key < l + 128)) }
        | (_, s) => s
      else s) s

/-- The copy engine as a source (R384). -/
def CopyOp.source (c : CopyOp) : Nat := srcOf 3 (c.core / 12) (c.core % 12) 0

/-- A copy that may take a step: its page is resolved, and neither an event record (R329) nor a trace record (R393) holds its
engine. -/
def State.copyReady (s : State) (c : CopyOp) : Bool := c.wait.isNone && !s.engineHeld c.core 1 && !s.opWaits c.source c.rcd

/-- The end of a copy waits for room for its record (R393). -/
def State.copyHeld (s : State) (c : CopyOp) : Bool := s.blocked c.ctx c.source 0x39 c.trTag

/-- One unit of a copy is written (R280): it takes its place in the memory order then, or later (R147). -/
def State.writeUnit (s : State) (c : CopyOp) (id : Nat) : State :=
  match c.fail with
  | some (cause, d32, d40) => if s.copyHeld c then s else s.failCopy c cause d32 d40
  | none =>
  match c.lost with
  | some (va, cause) => if s.copyHeld c then s else s.failCopy c 0x0B va cause
  | none =>
    match s.copyUnit c id with
    | (.error (.page va cause), c, s) => s.copyWait c va cause
    | (.error (.error cause d32 d40), c, s') => if s.copyHeld c then s'.setCopy { c with fail := some (cause, d32, d40) } else s'.failCopy c cause d32 d40
    | (.ok l, c, s) =>
      let s := s.engineWrite 1 c.op c.core l
      let k := id / c.stride
      let c' := { c with done := id :: c.done }
      let c' := if (c'.left.any fun u => u / c.stride == k) then c' else { c' with units := c'.units.filter fun u => u.1 != k }
      ((s.setCopy c').copyClean c' id).countBar c (c.unit id).length false

def execCopyUnitWrite (s : State) : Out State :=
  match s.ev with
  | .nat2 op id =>
    match s.copies.find? fun c => c.op == op with
    | some c => if s.copyReady c && c.open_ id then .next (s.writeUnit c id) else .next s
    | none => .next s
  | _ => .next s

def execCopyComplete (s : State) : Out State :=
  match s.ev with
  | .nat op =>
    match s.copies.find? fun c => c.op == op with
    | some c => if s.copyReady c && c.left.isEmpty && !s.copyHeld c then .next (s.endCopy c false) else .next s
    | none => .next s
  | _ => .next s

end Sys2Proof.Machine
end

