-- ==== Sys2Proof/Machine/TraceOps.lean ====
section
/-! DEFINITION. The trace fabric (R389-R395) and sampling (R399): the instructions TRACE, TRFLUSH and TRTAG,
the tenant table, and the steps in which the fabric writes its rings. -/

namespace Sys2Proof.Machine

/-! ### Rings (R391) -/

/-- A byte of a tenant's ring: a page that trace writes may reach (R127, R389). -/
def State.traceKey (s : State) (t : Tenant) (va : Nat) : Option Nat :=
  match (s.translate t.tctx false .write va).1 with
  | .ok k e => if ptePctx e then none else some k
  | _ => none

/-- The header of a ring: its key, WR and RD. -/
def State.ringHead (s : State) (t : Tenant) : Option (Nat × Nat × Nat) :=
  (s.traceKey t t.base).map fun k => (k, readLE s.mem k 4, readLE s.mem (k + 4) 4)

/-- R391: the ring is full. -/
def State.ringFull (s : State) (t : Tenant) : Bool :=
  match s.ringHead t with
  | some (_, wr, rd) => (wr + 2 ^ 32 - rd) % 2 ^ 32 == 2 ^ t.logn
  | none => false

/-- A record's bytes in the next slot, and WR advanced; none when the write fails translation. -/
def State.ringPut (s : State) (t : Tenant) (b : List Byte) : Option State :=
  match s.ringHead t with
  | none => none
  | some (k, wr, _) =>
    (s.traceKey t (t.base + 128 + 32 * (wr % 2 ^ t.logn))).map fun slot =>
      (s.engineStore true slot b).engineStore true k (toLE 4 (wr + 1))

/-- The counts DROPS and LOSSES of a header brought up to date. -/
def State.showLosses (s : State) (t : Tenant) : State :=
  match s.ringHead t with
  | none => s
  | some (k, _, _) =>
    let add := fun (s : State) (off : Nat) (l : Option Losses) =>
      match l with
      | some l => if l.shown < l.count then s.engineStore true (k + off) (toLE 4 (readLE s.mem (k + off) 4 + (l.count - l.shown))) else s
      | none => s
    let up := fun (l : Option Losses) => l.map fun (x : Losses) => { x with shown := x.count }
    ((add (add s 8 t.drop) 12 t.loss)).setTenant { t with drop := up t.drop, loss := up t.loss }

/-- Since when a lossless tenant's ring is full (R394). -/
def State.watchFull (s : State) (t : Tenant) : State :=
  if t.mode == 2 && s.ringFull t then (if t.fullSince.isSome then s else s.setTenant { t with fullSince := some s.time })
  else if t.fullSince.isSome then s.setTenant { t with fullSince := none } else s

/-- What every step does for the tenants. -/
def State.tendRings (s : State) : State :=
  s.trc.tenants.foldl (fun s t =>
    let s := s.watchFull t
    match s.tenant? t.num with
    | some t => if (t.drop.any fun l => decide (l.shown < l.count)) || (t.loss.any fun l => decide (l.shown < l.count)) then s.showLosses t else s
    | none => s) s

/-! ### Events of the fabric -/

/-- The tenant's WR (R395): 0 while the mode is 0; free where the ring cannot be read. -/
def State.ringWr (s : State) (ten : Nat) : W64 :=
  match s.tenant? ten with
  | none => 0
  | some t =>
    if t.mode = 0 then 0
    else
      match s.ringHead t with
      | some (_, wr, _) => BitVec.ofNat 64 wr
      | none => Config.random s.tick 2

/-- A record concerns an event of the agent, by a source of its core. -/
def State.ownsRec (s : State) (a : Agent) (g : Group) (r : TraceRec) : Bool :=
  match a with
  | .group id => r.core == g.core && (r.gid == some id || (decide (2 ≤ r.src / 4096) && field r.bytes 16 3 == g.ctx + 65536 * g.gnum))
  | .col n => r.gid.isNone && [0, 1, 5].any (fun c => r.src == srcOf c n 0 0) && field r.bytes 16 2 == s.ctxOf a

/-- How many of the agent's own records, of those below a number, are still buffered (R395). -/
def State.ownRecs (s : State) (a : Agent) (g : Group) (upto : Nat) : Nat :=
  match s.tenant? (s.tenantNum (s.ctxOf a)) with
  | none => 0
  | some t => t.buf.countP fun r => decide (r.num < upto) && s.ownsRec a g r

/-- The records of the agent's tenant so far. -/
def State.recsMade (s : State) (a : Agent) : Nat := ((s.tenant? (s.tenantNum (s.ctxOf a))).map (·.made)).getD 0

/-- The agents whose TRFLUSH has nothing left to wait for. -/
def State.endFlushes (s : State) : State :=
  ((s.groups.map fun g => Agent.group g.id) ++ (List.range 48).map Agent.col).foldl (fun s a =>
    match s.ag? a with
    | some g =>
      match g.park with
      | .trflush d n => if s.ownRecs a g n = 0 then s.finishParked a (g.postS d (s.ringWr (s.tenantNum (s.ctxOf a)))) else s
      | _ => s
    | none => s) s

/-- A record leaves its source's buffer: written, dropped in lossy mode when the ring is full, or lost when its
write fails translation. A lossless tenant's record waits. Whose record is next is free; those of one source leave in
their order (R385). -/
def State.ringWrite (s : State) (t : Tenant) : State :=
  let srcs := (t.buf.map (·.src)).eraseDups
  match t.buf.find? fun r => some r.src == srcs[Config.choose s.tick 98 % max 1 srcs.length]? with
  | none => s
  | some r =>
    let t' := { t with buf := t.buf.erase r }
    let seq := field r.bytes 10 2
    let time := field r.bytes 0 8
    if s.ringFull t then
      if t.mode = 2 then s
      else (s.setTenant { t' with drop := Losses.add t.drop r.src seq time }).endFlushes
    else
      (match s.ringPut t r.bytes with
       | some s => s.setTenant t'
       | none => s.setTenant { t' with loss := Losses.add t.loss r.src seq time }).endFlushes

def execTraceRingWrite (s : State) : Out State :=
  match s.ev with
  | .nat ten =>
    match s.tenant? ten with
    | some t => .next (s.ringWrite t)
    | none => .next s
  | _ => .next s

/-- A record of the fabric itself (class 11), written to the ring when the tenant admits it; `t` is the tenant
after it. A record whose write fails translation is lost and counted (R391). -/
def State.fabricPut (s : State) (t : Tenant) (kind : Nat) (pay : List Byte) : State :=
  if !t.admits 11 kind 0 then s.setTenant t
  else
    let (seq, s) := s.nextSeq 0xB000
    let b := toLE 8 s.time ++ toLE 2 0xB000 ++ toLE 2 seq.toNat ++ toLE 1 kind ++ toLE 1 t.num ++
      toLE 2 (bit s.mod.locked * 32768 + (if t.mode == 2 then 8192 else 0)) ++ pay
    match s.ringPut t b with
    | some s => s.setTenant t
    | none => s.setTenant { t with loss := Losses.add t.loss 0xB000 seq.toNat s.time }

/-- The payload of a DROP or LOSS record (R388). -/
def Losses.pay (l : Losses) : List Byte := toLE 4 l.count ++ toLE 2 l.src ++ toLE 2 l.seq ++ toLE 8 l.time

/-- The fabric's own record that is due: MODE, then DROP, then LOSS, behind those of its source that are buffered (R385). -/
def State.ownRecord (s : State) (t : Tenant) : State :=
  if s.ringFull t || t.mode == 0 || (t.buf.any fun r => r.src == 0xB000) then s
  else
    let s := s.showLosses t
    let t := (s.tenant? t.num).getD t
    match t.modeRec, t.drop, t.loss with
    | some (new, old, cause), _, _ => s.fabricPut { t with modeRec := none } 0x03 (toLE 1 new ++ toLE 1 old ++ toLE 1 cause ++ toLE 13 0)
    | none, some l, _ => s.fabricPut { t with drop := none } 0x01 l.pay
    | none, none, some l =>
      -- a LOSS record waits for pages that it can be written to
      if (s.ringHead t).isSome then s.fabricPut { t with loss := none } 0x02 l.pay else s
    | none, none, none => s

def Tenant.owes (t : Tenant) : Bool := t.modeRec.isSome || t.drop.isSome || t.loss.isSome

def execDropRecordWrite (s : State) : Out State :=
  match s.ev with
  | .nat ten =>
    match s.tenant? ten with
    | some t => if t.owes then .next (s.ownRecord t) else .next s
    | none => .next s
  | _ => .next s

/-- The stall of a source for a tenant, in units of 16 cycles, rounded up (R383). -/
def State.addStall (s : State) (src ten core ns16 : Nat) : State :=
  let u := max 1 (s.cycles core 16)
  let x := (s.trc.srcs.find? fun y => y.src == src).getD { src := src }
  let old := ((x.stalls.find? fun p => p.1 == ten).map Prod.snd).getD 0
  let x' := { x with stalls := (ten, old + (ns16 + u - 1) / u) :: x.stalls.filter fun p => p.1 != ten }
  { s with trc := { s.trc with srcs := x' :: s.trc.srcs.filter fun y => y.src != src } }

/-- A core whose clock a source counts its stall by (R383): of the place in SRC. -/
def coreOfSrc (src : Nat) : Nat := if src / 4096 ≤ 6 then (bitsOf src 11 10 * 12 + bitsOf src 9 6) * 12 + bitsOf src 5 2 else 0

/-- What a source has held since a time counts as its stall for the tenant, from then on anew. -/
def State.bookStall (s : State) (src ten : Nat) : State :=
  match s.trc.held.find? fun x => x.1 == src && x.2.1 == ten with
  | none => s
  | some x =>
    let s := s.addStall src ten (coreOfSrc src) (s.time - x.2.2)
    { s with trc := { s.trc with held := s.trc.held.map fun y => if y == x then (src, ten, s.time) else y } }

/-- A record whose event its source held is created when there is room (R393); for a tenant that is not lossless any more, as
R392 has it. -/
def State.freeRec (s : State) (ten : Nat) (r : TracePend) : State :=
  match s.tenant? ten with
  | none => s
  | some t =>
    let t' := { t with pend := t.pend.erase r }
    if t.mode = 0 then s.setTenant t'
    else if !t.full r.src then
      let s := s.bookStall r.src ten
      (s.setTenant t').enterRec t' r
    else if t.mode = 1 then s.setTenant { t' with drop := Losses.add t.drop r.src r.seq s.time }
    else s

/-- The records that sources hold, each in its turn. -/
def State.freeRecs (s : State) : State :=
  s.trc.tenants.foldl (fun s t => t.pend.foldl (fun s r => s.freeRec t.num r) s) s

/-- The sources that hold an event (R393), with the tenant: records that wait, instructions, and steps of engines. -/
def State.holding (s : State) (steps : List (Nat × Nat)) : List (Nat × Nat) :=
  (steps ++ (s.trc.tenants.flatMap fun t => t.pend.map fun r => (r.src, t.num)) ++
    s.groups.filterMap fun g => match g.park with
      | .lossless _ => some (g.src 0, s.tenantNum g.ctx)
      | _ => none).eraseDups

/-- The sources that hold an event change: one that goes on shows in its next record for the tenant how long it has waited
(R383). -/
def State.tendStalls (s : State) (steps : List (Nat × Nat)) : State :=
  let now := s.holding steps
  if now.isEmpty && s.trc.held.isEmpty then s
  else
    let gone := s.trc.held.filter fun x => !now.contains (x.1, x.2.1)
    let s := gone.foldl (fun s x => s.bookStall x.1 x.2.1) s
    let stay := s.trc.held.filter fun x => now.contains (x.1, x.2.1)
    let new := now.filter fun p => !(stay.any fun x => x.1 == p.1 && x.2.1 == p.2)
    { s with trc := { s.trc with held := stay ++ new.map fun p => (p.1, p.2, s.time) } }

/-- A held instruction may issue: its issue unit has room for the tenant again (R393). -/
def State.maySend (s : State) (g : Group) : Bool :=
  (match g.park with
    | .lossless _ => true
    | _ => false) && !((s.tenant? (s.tenantNum g.ctx)).any fun t => t.mode == 2 && t.shut (g.src 0))

/-- The instructions that issue units hold for a tenant go on where there is room. -/
def State.release (s : State) (ten : Nat) : State :=
  s.groups.foldl (fun s g => if s.tenantNum g.ctx == ten && s.maySend g then s.setGroup { g with park := .ready } else s) s

def execLosslessRelease (s : State) : Out State :=
  match s.ev with
  | .nat ten => .next (s.release ten)
  | _ => .next s

/-- R394: the ring has stayed full for TRFULL. -/
def State.fullDue (s : State) (t : Tenant) : Bool :=
  t.mode == 2 && (match t.fullSince with
    | some since => decide (s.time ≥ since + 16000 * s.trc.trfull.toNat)
    | none => false)

def execTrfullTimeout (s : State) : Out State :=
  match s.ev with
  | .nat ten =>
    match s.tenant? ten with
    | some t => if s.fullDue t then .next (s.setTenant { t with mode := 1, modeRec := some (1, 2, 1), fullSince := none }) else .next s
    | none => .next s
  | _ => .next s

/-! ### The tenant table (R389) -/

/-- The ring's pages: coherent, of the first or second tier, and not protected. -/
def State.ringOk (s : State) (ctx base logn : Nat) : Bool :=
  (List.range ((128 + 32 * 2 ^ logn + 4095 + base % 4096) / 4096)).all fun i =>
    match (s.translate ctx false .write (base / 4096 * 4096 + 4096 * i)).1 with
    | .ok k e => pteCoh e && !ptePctx e && (tierOf k == some 0 || tierOf k == some 1)
    | _ => false

/-- TENUPD by a col: the entry reloaded, or none when it is invalid. A tenant that stays keeps what its sources
have buffered. -/
def State.tenupd (s : State) (n : Nat) (v : W64) : Option State :=
  let num := v.toNat % 256
  match s.colPlace n (s.trc.tentab.toNat + 64 * num) with
  | none => none
  | some k =>
    let b := readBytes s.mem k 64
    let base := field b 0 8
    let logn := field b 8 1
    let mode := field b 9 1
    let ctx := (s.col n).cctx.toNat % 2 ^ 16
    let bad := decide (base ≥ 2 ^ 57) || base % 128 != 0 || decide (logn < 6) || decide (logn > 24) || decide (mode > 2) ||
      field b 12 4 != 0 || field b 52 12 != 0
    if bad || !s.ringOk ctx base logn then none
    else
      let old := s.tenant? num
      let t := old.getD { num := num, base := 0, logn := 6, mode := 0, classes := 0, kinds := 0, tagv := 0, tagm := 0 }
      let t' := { t with base := base, logn := logn, mode := mode, classes := field b 10 2, kinds := field b 16 32, tagv := field b 48 2
                         tagm := field b 50 2, tctx := ctx, modeRec := if t.mode = mode then t.modeRec else some (mode, t.mode, 2) }
      some { s with trc := { s.trc with tenants := t' :: s.trc.tenants.filter fun x => x.num != num } }

/-- The reload that a write of TENUPD by the boot col makes. -/
def execTenupd (s : State) : Out State :=
  match s.ev with
  | .word v => .next ((s.tenupd 0 v).getD s)
  | _ => .next s

/-! ### Instructions (R395) -/

def execTrace (f : LF) (s : State) : Out State :=
  startOp s (Wf.trace f) f (sSrcs [f.sa]) fun a g r =>
    let d := (r.uni 0 f.lit f.sa).toNat % 2 ^ 32
    .next ((s.finish a g f.sw).traceI a g 0x16 f.ext.toNat d)

def execTrtag (f : LF) (s : State) : Out State :=
  startOp s (Wf.trtag f) f (sSrcs [f.sa]) fun a g r =>
    let new := (r.uni 0 f.lit f.sa).setWidth 16
    let old := g.trTag
    let g := { g with trTag := new }
    .next ((s.finish a g f.sw).traceI a g 0x17 0 (new.toNat + old.toNat * 2 ^ 16))

def execTrflush (f : LF) (s : State) : Out State :=
  startOp s (Wf.trflush f) f [] fun a g _ =>
    let n := s.recsMade a
    if s.ownRecs a g n = 0 then .next (s.finish a (g.postS f.dst (s.ringWr (s.tenantNum (s.ctxOf a)))) f.sw)
    else .next (s.park a { g with psw := f.sw } (.trflush f.dst n))

/-! ### Sampling (R399) -/

/-- The issue unit of a group may pick an instruction of it. -/
def State.mayPick (s : State) (g : Group) : Bool :=
  (s.debug? g.core).any (fun d => d.sampint.getLsbD 8) && (s.tenant? (s.tenantNum g.ctx)).any fun t =>
    t.admits 0 0x18 g.trTag.toNat && t.admits 0 0x19 g.trTag.toNat

/-- The levels that may serve the memory access of an instruction (R399): of a scratchpad space 7, of a global one 1 to 6, or
none where no lane makes an access. -/
def levelsOf : Instr → List Nat
  | .lds _ | .sts _ | .atoms _ | .ldc _ | .stc _ | .atomc _ | .ldk _ | .stk _ => [0, 7]
  | .ffill _ | .fclr _ | .fwait _ => [7]
  | .ldf f => if f.isWin then [7] else [1, 2, 3, 4, 5, 6]
  | .ld _ | .st _ | .ldp _ | .stp _ | .atom _ | .discard _ => [0, 1, 2, 3, 4, 5, 6]
  | .semsig _ | .semwait _ | .rngres _ | .rngpub _ | .nwaitn _ | .audrd _ => [1, 2, 3, 4, 5, 6]
  | _ => [0]

/-- The issue unit picks the instruction that issues, or not: the gaps between picks are free (R399, assumption 10). -/
def State.pick (s : State) (a : Agent) (g : Group) (i : Instr) : State :=
  if !isCol a && s.mayPick g && Config.choose s.tick 97 % 2 == 1 then
    let p : Pick := { quad := g.core * 4 + g.quad, gid := g.id, ctx := g.ctx, tag := g.trTag.toNat, src := g.src 0, core := g.core, gnum := g.gnum
                      root := g.root, width := widthCode g.width, pc := g.pc.toNat, levels := levelsOf i }
    { s with trc := { s.trc with picked := s.trc.picked ++ [p] } }
  else s

/-- The instruction that an agent has fetched, as its issue unit begins with it. -/
def State.begins (s : State) (a : Agent) (i : Instr) : State :=
  match s.ag? a with
  | some g => s.pick a g i
  | none => s

/-- A picked instruction is written back: no result of its group is outstanding, nor does the group wait at it. -/
def State.writtenBack (s : State) (p : Pick) : Bool :=
  match s.group? p.gid with
  | none => true
  | some g => g.results.isEmpty && (g.park == .ready || g.pc.toNat != p.pc)

/-- The two records of a pick, with free timing values (assumption 10): both, or none of them. -/
def State.sample (s : State) (p : Pick) : State :=
  let x := fun (i m : Nat) => Config.choose s.tick (100 + i) % m
  let id := x 0 (2 ^ 16)
  let ten := s.tenantNum p.ctx
  let one := formG p.ctx p.gnum p.root p.width p.pc (p.levels.getD (x 1 p.levels.length) 0) (id + x 2 (2 ^ 16) * 2 ^ 16)
  let two := (List.range 6).flatMap (fun i => toLE 2 (x (3 + i) (2 ^ 16))) ++ toLE 2 id ++ toLE 2 0
  let s := { s with trc := { s.trc with picked := s.trc.picked.erase p } }
  match s.tenant? ten with
  | none => s
  | some t =>
    if t.shut p.src || Config.traceBuffer < (t.buf.filter fun r => r.src == p.src).length + 2 then
      let (q1, s) := s.nextSeq p.src
      let (q2, s) := s.nextSeq p.src
      let l := fun (o : Option Losses) => Losses.add (Losses.add o p.src q1.toNat s.time) p.src q2.toNat s.time
      if t.mode == 1 then s.setTenant { t with drop := l t.drop } else s.setTenant { t with loss := l t.loss }
    else (s.emitTo ten p.src 0x18 p.tag one p.core (some p.gid)).emitTo ten p.src 0x19 p.tag two p.core (some p.gid)

/-- A picked instruction of a quadrant has been followed to its write-back. -/
def execSamplePick (s : State) : Out State :=
  match s.ev with
  | .nat q =>
    match s.trc.picked.find? fun p => p.quad == q && s.writtenBack p with
    | some p => .next (s.sample p)
    | none => .next s
  | _ => .next s

end Sys2Proof.Machine
end

