-- ==== Sys2Proof/Machine/Stops.lean ====
section
/-! DEFINITION. Stopping, resuming and releasing a context (R36, R317, R334, R335), the end of merge entries
(R132, R314) and the key slots (R342). -/

namespace Sys2Proof.Machine

/-! ### Contexts -/

/-- The context with an identifier: with every register zero while nothing has been written (assumption 12). -/
def State.ctxD (s : State) (n : Nat) : Context := (s.ctx? n).getD { ctx := n }

/-- A context's record stored. -/
def State.putCtx (s : State) (c : Context) : State :=
  if (s.ctx? c.ctx).isSome then s.setCtx c else { s with contexts := s.contexts ++ [c] }

/-- The context holds cores (R314). -/
def State.holdsCores (s : State) (ctx : Nat) : Bool := s.teams.any fun t => t.ctx == ctx && !t.retired

/-- CSTATE (R317). -/
def Stop.code : Stop → Nat
  | .none => 0
  | .stopped => 2
  | _ => 1

/-- CCMD 1 (R36, R315). -/
def State.softStop (s : State) (ctx rsoft : Nat) : State :=
  let c := s.ctxD ctx
  if c.stop = .none then s.putCtx { c with stop := if rsoft = 0 then .hard else .soft s.time rsoft } else s

/-- CCMD 2: the issue units stop issuing for the context's groups. -/
def State.hardStop (s : State) (ctx : Nat) : State :=
  let c := s.ctxD ctx
  if c.stop = .stopped then s else s.putCtx { c with stop := .hard }

/-- A group that waited resident for a phase, which has ended under a stop, goes on at its label (R300, R303). -/
def State.endResident (s : State) (g : Group) : State :=
  match g.park with
  | .phase _ _ label carry q => if g.stage = 1 then (s.wake (.group g.id) g).setGroup (g.reenter label carry q) else s
  | _ => s

/-- The restored waiters of a context register again, in the order of their first registration, after every waiter that
stands already (R295). -/
def State.registerAgain (s : State) (ctx : Nat) : State :=
  let ws := s.waiters.filter fun w => w.ctx == ctx && w.was.isSome
  if ws.isEmpty then s
  else
    (sortBy (fun (x y : Waiter) => decide (x.was.getD 0 ≤ y.was.getD 0)) ws).foldl (fun s w => s.addWaiter { w with was := none })
      (s.dropWaiters fun w => w.ctx == ctx && w.was.isSome)

/-- The number of no merge entry: that of a page which was resolved while the context of an operation was stopped. -/
def resolvedEntry : Nat := 4096

/-- CCMD 3: issue resumes, and the waits of the context start their times again (R37). -/
def State.resumeIssue (s : State) (ctx : Nat) : State :=
  let c := s.ctxD ctx
  if c.stop = .none then s
  else
    let s : State := { (s.putCtx { c with stop := .none, kstop := false }) with
      waiters := s.waiters.map fun (w : Waiter) => if w.ctx == ctx then { w with since := s.time, told := false } else w
      fuses := s.fuses.map fun (x : Fuse) =>
        if x.arrived.any fun p => (s.group? p.1).any fun g => g.ctx == ctx then { x with since := s.time } else x
      mtx := s.mtx.map fun (x : MtxOp) => if x.ctx == ctx && x.wait == some resolvedEntry then { x with wait := none } else x }
    let s := s.registerAgain ctx
    (s.groups.filter fun (g : Group) => g.ctx == ctx).foldl State.endResident s

/-- CCMD 4: the groups and teams of a stopped context leave the part, with their waits. -/
def State.releasePlaces (s : State) (ctx : Nat) : State :=
  if (s.ctxD ctx).stop ≠ .stopped then s
  else
    let gone := fun (id : Nat) => (s.group? id).any fun g => g.ctx == ctx
    let s := s.dropWaiters fun w => w.gid.any gone
    let c := s.ctxD ctx
    let left := (s.teams.filter fun t => t.ctx == ctx && !t.retired).map fun t => (t.pos, t.launch, t.pktQueue, t.pktIdx)
    let s := if left.isEmpty then s else s.putCtx { c with away := c.away ++ left }
    { s with
      fuses := s.fuses.filter fun x => !(x.arrived.any fun p => gone p.1)
      sys := s.sys.filter fun (q : SysReq) => !gone q.gid
      mtx := s.mtx.filter fun m => m.ctx != ctx
      groups := s.groups.filter fun g => g.ctx != ctx
      teams := s.teams.filter fun t => t.ctx != ctx }

/-- An MCONV that waits on a translation fault, or an operation queued behind one on its tile (R251). -/
def State.cancellable (s : State) (op : Nat) : Bool :=
  match s.mtx.findIdx? fun m => m.op == op with
  | none => false
  | some k =>
    match s.mtx[k]? with
    | none => false
    | some m => (s.mtx.take (k + 1)).any fun x =>
        x.core == m.core && x.quad == m.quad && x.ctx == m.ctx && x.tlin == m.tlin && x.tile.isSome && x.tile == m.tile && x.wait.isSome

/-- What a hard stop waits for in a group, resident or in a phase record, has completed (R39, R251, R317). -/
def State.quietGrp (s : State) (g : Group) : Bool :=
  g.park != .exiting && (match g.park with
    | .fence _ _ => false
    | _ => true) &&
  g.results.all (fun r => r.op.any s.cancellable) && g.ops.all fun o => o.path == 6 && s.cancellable o.op

/-- Everything that a hard stop waits for has completed (R317). -/
def State.quiet (s : State) (ctx : Nat) : Bool :=
  s.groups.all (fun g => g.ctx != ctx || s.quietGrp g) &&
  s.teams.all (fun t => t.ctx != ctx || t.phases.all fun p => s.quietGrp p.grp) &&
  s.copies.all (fun c => c.ctx != ctx) && s.net.ops.all fun o => o.ctx != ctx || isCol o.who

/-- The results that have arrived for a group of a stopped context are in its registers: the image holds none in flight
(R39). -/
def State.settleStopped (s : State) : State :=
  if s.contexts.any fun c => c.stop == .stopped then
    { s with groups := s.groups.map fun g => if g.results.isEmpty || !s.stoppedGrp g then g else g.drainResults }
  else s

def execSoftStop (s : State) : Out State :=
  match s.ev with
  | .nat ctx => .next (s.softStop ctx (s.col ((s.ctxD ctx).chome % 48)).rsoft.toNat)
  | _ => .next s

def execHardStop (s : State) : Out State :=
  match s.ev with
  | .nat ctx => .next (s.hardStop ctx)
  | _ => .next s

def execHardStopComplete (s : State) : Out State :=
  match s.ev with
  | .nat ctx =>
    if (s.ctxD ctx).stop = .hard ∧ s.quiet ctx then
      -- every access of its groups has its place in the memory order
      let s := s.placeAll
      .next (s.putCtx { s.ctxD ctx with stop := .stopped })
    else .next s
  | _ => .next s

/-- R36, R334: the soft watchdog expires. -/
def State.softDue (s : State) (c : Context) : Bool :=
  match c.stop with
  | .soft since rsoft => decide (s.time ≥ since + 16 * rsoft)
  | _ => false

def execSoftStopTimeout (s : State) : Out State :=
  match s.ev with
  | .nat ctx => if s.softDue (s.ctxD ctx) then .next (s.hardStop ctx) else .next s
  | _ => .next s

/-! ### The end of a merge entry -/

/-- Everything that waits for an entry: groups, engine operations, reports and packets (R132, R134, R365). -/
def State.resolve (s : State) (num : Nat) (lost : Bool) : State :=
  match s.merges.find? fun m => m.num == num with
  | none => s
  | some m =>
    let l := if lost then some (m.page * 4096, m.cause) else none
    let s := s.endMerge num lost
    -- what the cols declare unrecoverable is delivered, once for each ridge that was told (R132, R331)
    let s := if lost then m.ridges.foldl (fun (s : State) n =>
      match s.groups.find? fun g => g.ridge == n && m.groups.contains g.id with
      | some g => s.holdEv { g.record 0x0B with cause := m.cause, merge := num, lanes := g.mask, d32 := BitVec.ofNat 64 (m.page * 4096), d56 := BitVec.ofNat 64 s.time }
      | none => s) s else s
    let s := { s with
      mtx := s.mtx.map fun (x : MtxOp) =>
        if x.wait == some num then { x with wait := if (s.ctxD x.ctx).stop == Stop.stopped then some resolvedEntry else none, lost := l } else x
      copies := s.copies.map fun (x : CopyOp) => if x.wait == some num then { x with wait := none, lost := l } else x
      net := { s.net with
        ops := s.net.ops.map fun (x : NetOp) => if x.wait == some num then { x with wait := none, lost := l } else x
        loop := s.net.loop ++ ((s.net.waits.filter fun (w : RxWait) => w.entry == num && !lost).map fun (w : RxWait) => w.pkt)
        refused := s.net.refused ++ ((s.net.waits.filter fun (w : RxWait) => w.entry == num && lost).map fun (w : RxWait) => w.pkt)
        waits := s.net.waits.filter fun (w : RxWait) => w.entry != num }
      aud := { s.aud with samples := s.aud.samples.map fun (x : Sample) => if x.wait == some num then { x with wait := none, lost := l } else x } }
    s.reportsAfter num m.cause lost

/-- A write of MRESOLVE (R314). -/
def State.mresolve (s : State) (v : W64) : State := s.resolve (v.toNat % 4096) (v.getLsbD 63)

def execMresolve (s : State) : Out State :=
  match s.ev with
  | .word v => .next (s.mresolve v)
  | _ => .next s

/-! ### BARREINIT (R314) -/

/-- The barrier a team's col reinitialises: none where the write is refused. -/
def State.barReinit (s : State) (t : Team) (v : W64) : Option State :=
  let n := v.toNat % 64
  let cnt := bitsOf v.toNat 25 16
  if cnt = 0 ∨ n ≥ t.bcnt then none
  else some (s.barInit { rcd := { code := 0, ctx := t.ctx, place := t.core % 12 }, tag := 0, core := t.core } t n cnt)

def execBarreinit (s : State) : Out State :=
  match s.ev with
  | .natWord k v =>
    match s.teams[k]? with
    | some t => if t.retired then .next s else .next ((s.barReinit t v).getD s)
    | none => .next s
  | _ => .next s

/-! ### Key slots (R342) -/

def State.key (s : State) (n : Nat) : KeySlot := s.keys.getD n {}

def State.setKey (s : State) (n : Nat) (k : KeySlot) : State :=
  { s with keys := if h : n < 1024 then s.keys.set n k h else s.keys }

/-- A col's KSLOT names a slot that KCMD may act on. -/
def Col.slotOk (c : Col) : Bool := decide (1 ≤ c.kslot.toNat) && decide (c.kslot.toNat ≤ 1023)

/-- KCMD 1 on a slot: a fresh random key. -/
def State.drawKey (s : State) (slot owner : Nat) : State :=
  let key := (List.range 4).foldl (fun k i => k + (Config.random s.tick (10 + i)).toNat * 2 ^ (64 * i)) 0
  s.setKey slot { key := key, ctr := 0, owner := owner % 2 ^ 16, valid := true }

/-- KCMD 3 on a col's slot. -/
def State.installKey (s : State) (n : Nat) : State :=
  let c := s.col n
  let key := (List.range 4).foldl (fun k i => k + (c.key.getD i 0).toNat * 2 ^ (64 * i)) 0
  (s.setKey c.kslot.toNat { key := key, ctr := 0, owner := c.kown.toNat % 2 ^ 16, valid := true }).setCol n { c with key := Vector.replicate 4 0 }

/-- KCMD (R342): none where it is refused. -/
def State.kcmd (s : State) (n cmd : Nat) : Option State :=
  let c := s.col n
  if !c.slotOk then none
  else
    match cmd with
    | 1 => some (s.drawKey c.kslot.toNat c.kown.toNat)
    | 2 => some (s.setKey c.kslot.toNat {})
    | 3 => some (s.installKey n)
    | _ => none

/-- A KCMD command by a col at monitor privilege. -/
def keyStep (s : State) (cmd : Nat) : Out State :=
  match s.ev with
  | .nat n => if (s.col n).priv = .monitor then .next ((s.kcmd n cmd).getD s) else .next s
  | _ => .next s

def execKeyDraw (s : State) : Out State := keyStep s 1
def execKeyErase (s : State) : Out State := keyStep s 2
def execKeyInstall (s : State) : Out State := keyStep s 3

end Sys2Proof.Machine
end

