-- ==== Sys2Proof/Machine/System.lean ====
section
/-! DEFINITION. The system group 0x8 but for the context images (R307-R327, R344): system registers, system
calls, resumption, returns, breakpoints, mailboxes, TLBINV, KEYSEL and IDLE. -/

namespace Sys2Proof.Machine

/-! ### Handles (R313) -/

structure Hnd where
  ok : Bool
  none_ : Bool
  lane : Nat
  phase : Bool
  core : Nat
  gnum : Nat
  ctx : Nat

def Hnd.of (x : W64) : Hnd :=
  let n := x.toNat
  { ok := bitsOf n 63 38 == 0 && bitsOf n 31 29 == 0, none_ := false, lane := bitsOf n 37 32, phase := n.testBit 28
    core := bitsOf n 27 24, gnum := bitsOf n 23 16, ctx := bitsOf n 15 0 }

/-- A group that a handle names on a ridge: resident, or a phase record of a team. -/
inductive Target where
  | res (g : Group)
  | out (t : Team) (p : PhaseRec)

def State.teamAt (s : State) (ridge : Nat) (h : Hnd) : Option Team :=
  if !h.ok || h.core ≥ 12 then none
  else s.teams.find? fun t => t.ctx == h.ctx && t.core == 12 * ridge + h.core && !t.retired

def State.findTeam (s : State) (ridge : Nat) (h : Hnd) : Option Team :=
  if h.gnum = 0 ∧ !h.phase ∧ h.lane = 0 then s.teamAt ridge h else none

def State.findGroup (s : State) (ridge : Nat) (h : Hnd) : Option Target :=
  if !h.ok then none
  else if h.phase then (s.teamAt ridge h).bind fun t => (t.phases.find? fun p => p.slot == h.gnum).map (Target.out t)
  else (s.groups.find? fun g => g.ctx == h.ctx && g.core == 12 * ridge + h.core && g.gnum == h.gnum && decide (h.core < 12)).map Target.res

/-- A handle that names a context alone. -/
def Hnd.isCtx (h : Hnd) : Bool := h.ok && h.lane == 0 && !h.phase && h.core == 0 && h.gnum == 0

/-! ### The registers (R314) -/

/-- An assigned register. -/
def assigned (bank i : Nat) : Bool :=
  match bank with
  | 0 => decide (i ≤ 6) || (decide (0x10 ≤ i) && decide (i ≤ 0x1F))
  | 1 => decide (i ≤ 8)
  | 2 => decide (i ≤ 0x3F) || (decide (0x41 ≤ i) && decide (i ≤ 0x44)) || i == 0x48 || (decide (0x50 ≤ i) && decide (i ≤ 0xBF))
  | 3 => decide (i ≤ 0xD2)
  | 4 => decide (i ≤ 0xA) || (decide (0x20 ≤ i) && decide (i ≤ 0x3F)) || (decide (0x100 ≤ i) && decide (i ≤ 0x14F)) ||
         (decide (0x150 ≤ i) && decide (i ≤ 0x153))
  | 5 => decide (i ≤ 9)
  | 6 => decide (i ≤ 3) || (decide (0x10 ≤ i) && decide (i ≤ 0x17))
  | 7 => decide (i ≤ 9) || i == 0x20 || (decide (0x100 ≤ i) && decide (i ≤ 0x102))
  | _ => false

/-- The privilege that a bank asks for. -/
def bankOk (p : Priv) (bank : Nat) : Bool :=
  match p with
  | .user => bank == 0
  | .service => bank != 6
  | .monitor => true

def Col.tm (c : Col) : Bool := c.cstat.getLsbD 5

/-- A write of CSTAT: TM is cleared by a 1; PIE, PPRV and IE are set. -/
def Col.writeStatus (c : Col) (x : W32) : Col :=
  { c with cstat := (c.cstat &&& ~~~(0x1D ||| (x &&& 0x20))) ||| (x &&& 0x1D) }

/-- Registers of one bit field and their masks: bits that hold what is written. -/
def low (n : Nat) (x : W64) : W64 := x &&& BitVec.ofNat 64 (2 ^ n - 1)

def State.usrReg (s : State) (a : Agent) (g : Group) (i : Nat) : W64 :=
  let c := s.ctxD (s.ctxOf a)
  match i with
  | 0 => s.mod.modid
  | 1 => BitVec.ofNat 64 (s.ctxOf a)
  | 2 => BitVec.ofNat 64 s.time
  | 3 => c.pbase
  | 4 => c.psize
  | 5 => c.ksize
  | 6 => if isCol a then 0 else BitVec.ofNat 64 (((s.teamOf g).map (·.lent)).getD 0)
  | i =>
    if isCol a then 0
    else ((s.teamOf g).map fun t => BitVec.ofNat 64 ((t.window ((i - 0x10) / 2)).toNat / 2 ^ (64 * (i % 2)))).getD 0

def Col.reg (c : Col) (i : Nat) : W64 :=
  match i with
  | 0 => c.status.setWidth 64
  | 1 => c.cepc | 2 => c.cecode | 3 => c.cvec | 4 => c.cevb | 5 => c.cevr | 6 => c.ctimer | 7 => c.cctx
  | _ => BitVec.ofNat 64 c.ksel

def Col.setReg (c : Col) (i : Nat) (x : W64) : Col :=
  match i with
  | 0 => c.writeStatus (x.setWidth 32)
  | 1 => { c with cepc := x } | 2 => { c with cecode := x } | 3 => { c with cvec := x } | 4 => { c with cevb := x }
  | 5 => { c with cevr := x } | 6 => { c with ctimer := x, timed := false } | 7 => { c with cctx := low 16 x }
  | _ => c

/-- A wait-table slot as it reads: its layout is not stated, so the value of one in use is free. -/
def State.slotReg (s : State) (n i : Nat) : W64 :=
  if s.waiters.any fun w => w.ridge == n && w.slot == some i then Config.random s.tick (1000 + i) else 0

def State.ridgeReg (s : State) (n i : Nat) : W64 :=
  let c := s.col n
  if i ≤ 0x3F then s.slotReg n i
  else
    match i with
    | 0x41 => c.rsoft | 0x42 => c.rslice | 0x43 => c.rsemto | 0x44 => c.rstall | 0x48 => 0
    | i => if i < 0x80 then c.regx.getD (i - 0x50) 0 else c.qdesc.getD (i - 0x80) 0

/-- A write of a ridge register: none where it is refused (R315). -/
def State.setRidge (s : State) (n i : Nat) (x : W64) : Option State :=
  let c := s.col n
  if i ≤ 0x3F then some s
  else
    match i with
    | 0x41 => some (s.setCol n { c with rsoft := low 48 x })
    | 0x42 => if (low 48 x).toNat < 10000 then none else some (s.setCol n { c with rslice := low 48 x })
    | 0x43 => some (s.setCol n { c with rsemto := low 48 x })
    | 0x44 => some (s.setCol n { c with rstall := low 48 x })
    | 0x48 => some (s.mresolve x)
    | i =>
      if i < 0x80 then some (s.setCol n { c with regx := if h : i - 0x50 < 48 then c.regx.set (i - 0x50) x h else c.regx })
      else some (s.setCol n { c with qdesc := if h : i - 0x80 < 64 then c.qdesc.set (i - 0x80) x h else c.qdesc })

/-! ### Teams -/

def Barrier.word (b : Barrier) (w : Nat) : W64 := if w = 0 then b.w0 else if w = 1 then b.w1 else b.w2

/-- The bits of a barrier's words that are not reserved (R284). -/
def barMask (w : Nat) : W64 := if w = 0 then 0x0000FF7EFFFF03FF else if w = 1 then 0xFFFFFFFFFF else 0xFFFFFFFFFFFFFFFF

def Barrier.setWord (b : Barrier) (w : Nat) (x : W64) : Barrier :=
  let y := x &&& barMask w
  if w = 0 then { b with w0 := y } else if w = 1 then { b with w1 := y } else { b with w2 := y, pays := [] }

/-- The bits of a window that are not reserved (R115). -/
def winMask : BitVec 128 := 0x3FFFFF7FFFF0007FFFF0007FFFF

/-- A window may be set: it lies within the team's allocation, at its grain (R114, R115). -/
def Team.winOk (t : Team) (w : BitVec 128) : Bool :=
  winSize w % 128 == 0 && winBase w % 128 == 0 && winScoff w % 4 == 0 && decide (winBase w + winSize w ≤ t.size)

def Team.reg (t : Team) (i : Nat) : W64 :=
  if i < 0x10 then BitVec.ofNat 64 ((t.window (i / 2)).toNat / 2 ^ (64 * (i % 2)))
  else if i < 0xD0 then (t.barriers.getD ((i - 0x10) / 3) {}).word ((i - 0x10) % 3)
  else if i = 0xD0 then BitVec.ofNat 64 (t.tcnt + 256 * t.bcnt)
  else if i = 0xD1 then t.phases.foldl (fun (m : W64) p => m ||| BitVec.ofNat 64 (2 ^ p.slot)) 0
  else 0

/-- A group may be written: parked, halted or hard-stopped (R314). -/
def State.writable (s : State) (g : Group) : Bool :=
  (s.ctxD g.ctx).stop == .stopped || g.halted.isSome || (g.park != .ready && match g.park with
    | .lossless _ => false
    | _ => true)

def State.teamWritable (s : State) (t : Team) : Bool := (s.groupsOf t).all s.writable

def Team.setHalf (t : Team) (i : Nat) (x : W64) : Option Team :=
  let w := t.window (i / 2)
  let w' : BitVec 128 :=
    (if i % 2 = 0 then (w &&& (0xFFFFFFFFFFFFFFFF0000000000000000 : BitVec 128)) ||| x.setWidth 128
     else (w &&& (0xFFFFFFFFFFFFFFFF : BitVec 128)) ||| (x.setWidth 128 <<< 64)) &&& winMask
  if t.winOk w' then some { t with windows := if h : i / 2 < 8 then t.windows.set (i / 2) w' h else t.windows } else none

def State.setTeamReg (s : State) (t : Team) (i : Nat) (x : W64) : Option State :=
  if i = 0xD2 then s.barReinit t x
  else if !s.teamWritable t then none
  else if i < 0x10 then (t.setHalf i x).map s.setTeam
  else if i < 0xD0 then
    let n := (i - 0x10) / 3
    some (s.setTeam { t with barriers := if h : n < 64 then t.barriers.set n ((t.barriers.getD n {}).setWord ((i - 0x10) % 3) x) h else t.barriers })
  else some s

/-! ### Groups -/

/-- GSTATE (R316). -/
def Group.gstate (g : Group) (phase : Bool) : W64 := BitVec.ofNat 64 ((if phase then 14 else g.park.code) + 256 * bit g.halted.isSome)

/-- A register of a group; for a phase record, the registers outside its carry set read as zero (R27). -/
def Group.reg (g : Group) (p : Option PhaseRec) (lane i : Nat) : W64 :=
  let l := g.laneAt lane
  match i with
  | 0 => g.pc.setWidth 64 | 1 => g.gmode.setWidth 64 | 2 => g.fstat.setWidth 64 | 3 => g.mstat.setWidth 64 | 4 => g.fctl.setWidth 64
  | 5 => g.gstate p.isSome | 6 => g.mask | 7 => g.srSeed | 8 => g.srCtr | 9 => BitVec.ofNat 64 g.counters | 10 => g.pri.setWidth 64
  | i =>
    if i < 0x40 then g.getS (i - 0x20)
    else if i < 0x140 then (if (p.map fun x => x.carry.getLsbD (i - 0x100)).getD true then (l.getV (i - 0x100)).setWidth 64 else 0)
    else if i < 0x150 then (if (p.map fun x => x.q).getD true then (l.q.getD (i - 0x140) 0).setWidth 64 else 0)
    else (l.stg.getD (i - 0x150) 0).setWidth 64

/-- A register of a group written by the col; RO fields and GSTATE, which hardware keeps, are left alone. GMODE takes
RND 110 and 111 as they are, which R66 refuses only to SETMODE and to images (assumption 41). -/
def Group.setReg (g : Group) (lane i : Nat) (x : W64) : Group :=
  let w : W32 := x.setWidth 32
  let onLane := fun (fn : Lane → Lane) => { g with lanes := setLane g.lanes lane fn }
  match i with
  | 0 => { g with pc := pcOf x } | 1 => { g with gmode := w &&& modeBits 0 } | 2 => { g with fstat := w &&& modeBits 1 }
  | 3 => { g with mstat := w &&& modeBits 2 } | 4 => { g with fctl := w &&& modeBits 3 } | 6 => { g with mask := x }
  | 7 => { g with srSeed := x } | 8 => { g with srCtr := x } | 10 => { g with pri := x.setWidth 3 }
  | i =>
    if i < 0x20 then g
    else if i < 0x40 then g.putS (i - 0x20) x
    else if i < 0x140 then
      { (onLane fun l => l.setV (i - 0x100) w).mend [.v lane (i - 0x100) 0] with results := g.results.map (Res.without [.v lane (i - 0x100) 0]) }
    else if i < 0x150 then (onLane fun l => l.setQ (i - 0x140) w).mend [.q lane (g.pushes - 1 - (i - 0x140)) 0]
    else onLane fun l => { l with stg := if h : i - 0x150 < 4 then l.stg.set (i - 0x150) w h else l.stg }

def Target.group : Target → Group
  | .res g => g
  | .out _ p => p.grp

def Target.phase : Target → Option PhaseRec
  | .res _ => none
  | .out _ p => some p

/-- The lane of a lane register exists. -/
def laneOk (g : Group) (h : Hnd) (i : Nat) : Bool := decide (i < 0x100) || decide (h.lane < g.width)

def State.setTarget (s : State) (t : Target) (g : Group) : State :=
  match t with
  | .res _ => s.setGroup g
  | .out t p => s.setTeam { t with phases := t.phases.map fun x => if x.slot == p.slot then { x with grp := g } else x }

/-! ### Contexts -/

def Context.reg (c : Context) (i : Nat) : W64 :=
  match i with
  | 0 => c.croot | 1 => c.pbase | 2 => c.psize | 3 => c.ksize | 4 => c.clevel | 5 => 0 | 6 => BitVec.ofNat 64 c.stop.code
  | 7 => c.evring | 8 => c.cflags | _ => BitVec.ofNat 64 c.chome

def Context.setReg (c : Context) (i : Nat) (x : W64) : Context :=
  match i with
  | 0 => { c with croot := x } | 1 => { c with pbase := x } | 2 => { c with psize := x } | 3 => { c with ksize := x }
  | 4 => { c with clevel := low 5 x } | 7 => { c with evring := x } | 8 => { c with cflags := low 2 x }
  | 9 => { c with chome := x.toNat % 2 ^ 16 }
  | _ => c

/-- A context that holds its chip regions: it holds cores, or has teams that are saved or away. -/
def State.keepsChip (s : State) (c : Context) : Bool :=
  s.holdsCores c.ctx || !c.away.isEmpty || s.saved.any fun v => v.ctx == c.ctx

/-- A free region of n bytes of the chip scratchpad for a context, on every die (R117), clear of the regions of some others. -/
def State.freeChip (s : State) (ctx n : Nat) (others : Context → Bool) : Option Nat :=
  let held := s.contexts.filter fun x => x.ctx != ctx && x.ksize != 0 && x.kout.isNone && others x
  ((List.range 512).map (· * 65536)).find? fun k =>
    decide (k + n ≤ Config.chipSpad) && held.all fun x => decide (k + n ≤ x.kbase) || decide (x.kbase + x.ksize.toNat ≤ k)

/-- KSIZE written by the col (R117, R314): a size for which there is no free region is refused (assumption 12). -/
def State.setKsize (s : State) (c : Context) (x : W64) : Option State :=
  (s.freeChip c.ctx x.toNat fun _ => true).map fun k => s.putCtx { c with ksize := x, kbase := k, kout := none }

def State.setCtxReg (s : State) (n ctx i : Nat) (x : W64) : Option State :=
  let c := s.ctxD ctx
  if i = 5 then
    match x.toNat with
    | 1 => some (s.softStop ctx (s.col n).rsoft.toNat)
    | 2 => some (s.hardStop ctx)
    | 3 => some (s.resumeIssue ctx)
    | 4 => some (s.releasePlaces ctx)
    | _ => none
  else if s.holdsCores ctx then none
  else if i = 3 then s.setKsize c x
  else some (s.putCtx (c.setReg i x))

/-! ### The monitor's registers (R312, R342) -/

def State.monReg (s : State) (n i : Nat) : W64 :=
  let c := s.col n
  let k := s.key c.kslot.toNat
  match i with
  | 0 => c.mepc | 1 => c.msave | 2 => c.monvec | 3 => c.mcode | 0x10 => c.kslot
  | 0x15 => if c.slotOk then k.ctr else 0
  | 0x16 => if c.slotOk then BitVec.ofNat 64 (k.owner + bit k.valid * 2 ^ 63) else 0
  | _ => 0

def State.setMon (s : State) (n i : Nat) (x : W64) : Option State :=
  let c := s.col n
  match i with
  | 0 => some (s.setCol n { c with mepc := x }) | 1 => some (s.setCol n { c with msave := x })
  | 2 => some (s.setCol n { c with monvec := x }) | 3 => some (s.setCol n { c with mcode := x })
  | 0x10 => some (s.setCol n { c with kslot := x })
  | 0x11 | 0x12 | 0x13 | 0x14 => some (s.setCol n { c with key := if h : i - 0x11 < 4 then c.key.set (i - 0x11) x h else c.key })
  | 0x16 => some (s.setCol n { c with kown := low 16 x })
  | 0x17 => s.kcmd n x.toNat
  | _ => some s

/-! ### Debug registers (R396) -/

def Debug.zero : Debug := { pcbrk := Vector.replicate 4 0, waddr := Vector.replicate 2 0, wctl := Vector.replicate 2 0 }

def State.dbg (s : State) (core : Nat) : Debug := (s.debug? core).getD Debug.zero

def State.setDbg (s : State) (core : Nat) (d : Debug) : State :=
  { s with trc := { s.trc with debug := (core, d) :: (s.trc.debug).filter fun p => p.1 != core } }

def Debug.reg (d : Debug) (i : Nat) : W64 :=
  if i < 4 then d.pcbrk.getD i 0 else if i < 6 then d.waddr.getD (i - 4) 0 else if i < 8 then d.wctl.getD (i - 6) 0
  else if i = 8 then d.dctl else d.sampint

def Debug.setReg (d : Debug) (i : Nat) (x : W64) : Option Debug :=
  if i < 4 then some { d with pcbrk := if h : i < 4 then d.pcbrk.set i (x &&& 0x1FFFFFFFFFFFFFD) h else d.pcbrk }
  else if i < 6 then
    if (low 57 x).toNat % 2 ^ bitsOf (d.wctl.getD (i - 4) 0).toNat 6 4 ≠ 0 then none
    else some { d with waddr := if h : i - 4 < 2 then d.waddr.set (i - 4) (low 57 x) h else d.waddr }
  else if i < 8 then some { d with wctl := if h : i - 6 < 2 then d.wctl.set (i - 6) (x &&& 0x77) h else d.wctl }
  else if i = 8 then some { d with dctl := low 17 x }
  else if x.toNat % 32 < 4 ∨ x.toNat % 32 > 24 then none
  else some { d with sampint := x &&& 0x11F }

def State.ctxten (s : State) (ctx : Nat) : W64 := ((s.trc.ctxten.find? fun p => p.1 == ctx).map Prod.snd).getD 0

/-! ### Reading and writing (R318, R323) -/

/-- The value of a register: none where the handle is wrong. -/
def State.sysRead (s : State) (a : Agent) (g : Group) (bank i : Nat) (noH : Bool) (x : W64) : Option W64 :=
  let h := Hnd.of x
  let n := match a with
    | .col n => n
    | .group _ => 0
  match bank with
  | 0 => if noH then some (s.usrReg a g i) else none
  | 1 => if noH then some ((s.col n).reg i) else none
  | 2 => if noH then some (s.ridgeReg n i) else none
  | 3 => if noH then none else (s.findTeam n h).map fun t => t.reg i
  | 4 =>
    if noH then none
    else (s.findGroup n h).bind fun t => if laneOk t.group h i then some (t.group.reg t.phase h.lane i) else none
  | 5 => if noH || !h.isCtx then none else some ((s.ctxD h.ctx).reg i)
  | 6 => if noH then some (s.monReg n i) else none
  | _ =>
    if i ≥ 0x100 then (if noH then some (if i = 0x100 then s.trc.tentab else if i = 0x101 then 0 else s.trc.trfull) else none)
    else if noH then none
    else if i = 0x20 then (if h.isCtx then some (s.ctxten h.ctx) else none)
    else (s.findTeam n h).map fun t => (s.dbg t.core).reg i

/-- The state after a write by a col: none where it is refused. -/
def State.sysWrite (s : State) (n : Nat) (bank i : Nat) (noH : Bool) (hx x : W64) : Option State :=
  let h := Hnd.of hx
  match bank with
  | 0 => if noH then some s else none
  | 1 => if noH then some (s.setCol n ((s.col n).setReg i x)) else none
  | 2 => if noH then s.setRidge n i x else none
  | 3 => if noH then none else (s.findTeam n h).bind fun t => s.setTeamReg t i x
  | 4 =>
    if noH then none
    else (s.findGroup n h).bind fun t =>
      let ok := match t with
        | .res g => s.writable g
        | .out _ _ => true
      if ok && laneOk t.group h i then some (s.setTarget t (t.group.setReg h.lane i x)) else none
  | 5 => if noH || !h.isCtx then none else s.setCtxReg n h.ctx i x
  | 6 => if noH then s.setMon n i x else none
  | _ =>
    if i ≥ 0x100 then
      (if !noH then none
       else if i = 0x100 then some { s with trc := { s.trc with tentab := x &&& ~~~63 } }
       else if i = 0x101 then s.tenupd n x
       else if x.toNat < 1 ∨ x.toNat > 10000000 then none else some { s with trc := { s.trc with trfull := x } })
    else if noH then none
    else if i = 0x20 then
      (if h.isCtx then some { s with trc := { s.trc with ctxten := (h.ctx, low 8 x) :: s.trc.ctxten.filter fun p => p.1 != h.ctx } } else none)
    else (s.findTeam n h).bind fun t => ((s.dbg t.core).setReg i x).map fun d => s.setDbg t.core d

/-- The checks of R318 that come before the handle: a register code, or a stop. -/
def sysCheck (s : State) (a : Agent) (g : Group) (bank : Nat) (i : W64) (k : Nat → Out State) : Out State :=
  let n := i.toNat % 2 ^ 32
  if n ≥ 0x400 || !assigned bank n then .next (s.illegal a g)
  else if !bankOk (s.priv a) bank then .next (s.privilege a g (BitVec.ofNat 64 (bank * 0x400 + n)))
  else k n

def execSysrd (f : LF) (s : State) : Out State :=
  startOp s (Wf.sysrd f) f (sSrcs [f.sb, f.sc]) fun a g r =>
    let bank := f.ext.toNat
    sysCheck s a g bank (r.uni 1 f.lit f.sb) fun i =>
      match s.sysRead a g bank i (f.sc == .zero) (r.uni 2 f.lit f.sc) with
      | some x => .next (s.finish a (g.postS f.dst x) f.sw)
      | none => .next (s.sysFault a g (BitVec.ofNat 64 (bank * 0x400 + i)))

/-- An instruction of service privilege (R80). An unchecked read under STRICT is found before the privilege (assumption
41). -/
def serviceOp (s : State) (wf : Bool) (f : LF) (srcs : List (Spec × Nat)) (k : Nat → Agent → Group → Rd → Out State) : Out State :=
  startOp s wf f srcs fun a g r =>
    match a with
    | .group _ => .next (s.privilege a g)
    | .col n => k n a g r

/-- The state in which a col's instruction is complete: what it did to the part is kept. -/
def State.done (s : State) (a : Agent) (sw : Bool) (upd : Group → Group := id) : State :=
  match s.ag? a with
  | some g => s.finish a (upd g) sw
  | none => s

/-- SYSWR. A register that no rule assigns, named at user privilege, is the privilege fault of the instruction (assumption 41). -/
def execSyswr (f : LF) (s : State) : Out State :=
  serviceOp s (Wf.syswr f) f (sSrcs [f.sa, f.sb, f.sc]) fun n a g r =>
    let bank := f.ext.toNat
    sysCheck s a g bank (r.uni 1 f.lit f.sb) fun i =>
      match s.sysWrite n bank i (f.sc == .zero) (r.uni 2 f.lit f.sc) (r.uni 0 f.lit f.sa) with
      | some s => .next (s.done a f.sw)
      | none => .next (s.sysFault a g (BitVec.ofNat 64 (bank * 0x400 + i)))

/-! ### Calls, breakpoints and returns (R310, R311, R320, R322) -/

/-- The tuple of a lane: the call number and its arguments. -/
def Rd.tuple (r : Rd) (f : LF) (lane : Nat) : List W32 :=
  match f.sa with
  | .v n => r.run 0 lane n.val (f.ext.toNat + 1)
  | _ => []

/-- The distinct tuples with their lanes, by lowest lane (R320). -/
def requests (r : Rd) (f : LF) : List Nat → List (List W32 × List Nat)
  | ls => ls.foldl (fun acc l =>
      let t := r.tuple f l
      if acc.any fun p => p.1 == t then acc.map fun p => if p.1 == t then (p.1, p.2 ++ [l]) else p else acc ++ [(t, [l])]) []

/-- A syscall record (R330). -/
def callRecord (g : Group) (k : Nat) (t : List W32) (lanes : W64) : EvRec :=
  let w := fun i => BitVec.ofNat 64 ((t.getD i 0).toNat + (t.getD (i + 1) 0).toNat * 2 ^ 32)
  { g.record 0x10 with lanes := lanes, d32 := BitVec.ofNat 64 ((t.getD 0 0).toNat + k * 2 ^ 32), d40 := w 1, d48 := w 3, d56 := w 5 }

/-- TRAPC's first register and the last one it reads. -/
def trapcOk (f : LF) : Bool :=
  match f.sa with
  | .v n => decide (n.val + f.ext.toNat ≤ 63)
  | _ => false

def groupTrap (s : State) (g : Group) (f : LF) (r : Rd) (lanes : List Nat) : State :=
  let a := Agent.group g.id
  let reqs := requests r f lanes
  -- earlier results are drained before the col receives the requests (R71)
  let s := s.expandAll g
  let g := g.drainResults
  let s := s.park a { g with psw := f.sw, mask := maskOf lanes } (.trapc f.dst)
  let s := s.emitTo (s.tenantNum g.ctx) (srcOf 5 g.ridge 0 0) 0x52 g.trTag.toNat
    (formG g.ctx g.gnum g.root (widthCode g.width) g.pc.toNat reqs.length ((reqs.headD ([], [])).1.headD 0).toNat) (12 * g.ridge) none
  reqs.foldl (fun s p =>
    let m := maskOf p.2
    let s := s.sendRec g.ridge (callRecord g f.ext.toNat p.1 m)
    { s with sys := s.sys ++ [{ gid := g.id, ridge := g.ridge, lanes := m, num := p.1.headD 0, args := p.1.drop 1, since := s.time }] }) s

/-- A monitor call by a col (R310). -/
def colTrap (s : State) (n : Nat) (a : Agent) (g : Group) (f : LF) (r : Rd) : State :=
  let t := r.tuple f 0
  let ie := (s.col n).cstat.getLsbD 0
  let s := s.setAg a g
  let s := s.enterMonitor n (s.cur.next.setWidth 64) 0
  let c := s.col n
  s.setCol n { c with cstat := if ie then c.cstat ||| 1 else c.cstat, call := some { dst := f.dst, num := t.headD 0, args := t.drop 1 } }

def execTrapc (f : LF) (s : State) : Out State :=
  s.withAg fun a g =>
    if !Wf.trapc f || !trapcOk f || s.priv a == .monitor then .next (s.illegal a g)
    else
      let r := s.rd g
      let act := activeOf f r
      if hazardOf f g act [(f.sa, f.ext.toNat + 1)] then .next (s.hazardFault a g)
      else if spoiledOf f g act [(f.sa, f.ext.toNat + 1)] then .next (s.regFault a g)
      else if !g.lsZero then .next (s.park a g (.drain .ls))
      else if g.late then .next (s.park a g (.drain .results))
      else
        let lanes := lanesOf g.width act
        if lanes.isEmpty then .next (s.finish a g f.sw)
        else
          match a with
          | .group _ => .next (groupTrap s g f r lanes)
          | .col n => .next (colTrap s n a g f r)

/-- BRK: the instruction completes, and the group halts at the next one; a col enters its handler. -/
def execBrk (f : LF) (s : State) : Out State :=
  startOp s (Wf.brk f) f [] fun a g _ =>
    let n := f.ext.toNat
    match a with
    | .group id =>
      let s := s.finish a g f.sw
      match s.group? id with
      | some g => .next (s.halt g .brk 1 n { g.record 0x11 with cause := n })
      | none => .next s
    | .col c => .next ((s.finish a g f.sw).raiseCol c (s.cur.next.setWidth 64) 0x11)

/-- CSTAT as a saved copy restores it: PRV 10 stays monitor, any other value is service (R308, R311). -/
def restoreStatus (saved : W64) : W32 :=
  let x := saved.setWidth 32
  (x &&& 0x3D) ||| (if x.extractLsb' 8 2 = 2 then 0x200 else 0x100)

def execRetx (f : LF) (s : State) : Out State :=
  serviceOp s (Wf.retx f) f [] fun n a g _ =>
    let c := s.col n
    if c.priv = .monitor then
      .next (s.setCol n { c with cstat := restoreStatus c.msave, call := none, g := { g with pc := pcOf c.mepc, stage := 0, redo := none } })
    else if c.cstat.extractLsb' 2 2 ≠ 1 then .next (s.illegal a g)
    else
      let st := (c.cstat &&& ~~~1) ||| (if c.cstat.getLsbD 4 then 1 else 0)
      .next (s.setCol n { c with cstat := st, g := { g with pc := pcOf c.cepc, stage := 0, redo := none } })

/-! ### RESUME (R321) -/

/-- The slots that an instruction pushes when its destination is 0x40 (R60). -/
def Peek.slots (p : Peek) (w : Nat) : Nat :=
  if !isPush p.f.dst then 0
  else if p.short then (if p.f.ty.wide then 2 else 1)
  else
    match p.grp, p.fn with
    | 5, 0x0B | 5, 0x0C | 5, 0x0D => max 1 (atomSize p.f / 4)
    | 5, 0x02 => nregOf (fragWords p.f.ty) w
    | 5, _ => p.f.nreg
    | 6, 0x04 => nregOf (drainWords p.f.ty) w
    | 6, 0x06 => 2
    | 3, 0x10 => 1
    | 4, 0x01 => 1
    | 4, 0x02 => runLen (packCount p.f.sty) p.f.ty
    | 4, 0x0E => 2
    | _, _ => if p.f.ty.wide then 2 else 1

/-- The instruction acts on each lane of its active set by itself, and not once for the group: a uniform result, PUT,
MATCH, SCAN and REDUX are of the group (R242, R245, R246). -/
def Peek.perLane (p : Peek) : Bool :=
  !p.f.dst.isS && (p.short || (match p.grp with
    | 2 | 3 => true
    | 4 => p.fn != 0x09 && p.fn < 0x0E
    | 5 => decide (p.fn ≤ 0x0F) && p.fn != 2
    | _ => false))

/-- The push that a `.skip` makes (R321): every lane's staging registers, up to four slots; or the slots that the
instruction has already reserved, for the named lanes. -/
def Group.skipPush (g : Group) (k : Nat) (lanes : W64) : Group :=
  let k := min k 4
  if k = 0 then g
  else if 0 < g.reserved then
    g.landAll ((lanesOf g.width lanes).flatMap fun l =>
      (List.range (min k g.reserved)).map fun j => .q l (g.pushes - g.reserved + j) ((g.laneAt l).stg.getD j 0))
  else
    let g' := g.pushZeros k
    g'.landAll ((List.range g.width).flatMap fun l => (List.range k).map fun j => .q l (g.pushes + j) ((g.laneAt l).stg.getD j 0))

/-- `.ret`: the named pending lanes of a TRAPC receive a result (R320). -/
def State.retLanes (s : State) (id : Nat) (named : W64) (x : W64) : State :=
  match s.group? id with
  | none => s
  | some g =>
    match g.park with
    | .trapc d =>
      let m : W64 := named &&& g.mask
      let ws := match d with
        | .v n => (lanesOf g.width m).flatMap fun l => [Write.v l n.val (x.setWidth 32), .v l (n.val + 1) ((x >>> 32).setWidth 32)]
        | _ => []
      let g := { g.landAll ws with results := g.results.map (Res.without ws), mask := g.mask &&& ~~~m }
      let s := { s with sys := (s.sys.map fun (q : SysReq) => if q.gid == id then { q with lanes := q.lanes &&& ~~~m } else q).filter fun (q : SysReq) => q.lanes != 0 }
      if g.mask == (0 : W64) then s.finishParked (.group id) g else s.setGroup g
    | _ => s

/-- `.replay` of a group in state 13: the instruction is issued again, for the named lanes. -/
def State.replayHeld (s : State) (g : Group) (r : EvRec) (m : W64) : State :=
  let part := ((s.peek g).map Peek.perLane).getD false
  let left := g.mask &&& ~~~m
  if part && m == 0 then s
  else if part && left != 0 then s.wake (.group g.id) { g with redo := some m, rest := some (left, r, g.pushes - g.reserved), mask := 0, noBreak := true }
  else s.wake (.group g.id) { g with redo := if part then some g.mask else none, mask := 0, noBreak := true }

/-- `.skip` of a group in state 13. -/
def State.skipHeld (s : State) (g : Group) (m : W64) : State :=
  let k := ((s.peek g).map fun p => p.slots g.width).getD 0
  let left := g.mask &&& ~~~m
  let g := if 0 < g.reserved then g.skipPush k m else g
  if left != 0 then s.setGroup { g with mask := left }
  else
    let g := if 0 < g.reserved then g else g.skipPush k m
    let g := match g.parkOp with
      | some o => g.complete o
      | none => g
    s.finishParked (.group g.id) { g with psw := false, watched := none, raced := none }

/-- The effect of RESUME on a resident group: none where its state does not allow the mode. -/
def State.resumeGroup (s : State) (g : Group) (mode : Nat) (m x : W64) : Option State :=
  let a := Agent.group g.id
  match mode, g.park, g.halted with
  | 0, .trapc _, _ => some (s.retLanes g.id m x)
  | 1, .held r, none => some (s.replayHeld g r (m &&& g.mask))
  | 1, .ready, some .pcBreak => some (s.setAg a { g with halted := none, noBreak := true })
  | 2, .held _, none => some (s.skipHeld g (m &&& g.mask))
  | 2, _, some .brk | 2, _, some .watch | 2, _, some .race => some (s.setAg a { g with halted := none })
  | _, _, _ => none

def execResume (f : LF) (s : State) : Out State :=
  serviceOp s (Wf.resume f) f (sSrcs [f.sa, f.sb, f.sc]) fun n a g r =>
    if !g.lsZero then .next (s.park a g (.drain .ls))
    else
      let hx := r.uni 0 f.lit f.sa
      match s.findGroup n (Hnd.of hx) with
      | some (.res t) =>
        if (s.ctxD t.ctx).stop = .stopped then .next (s.sysFault a g hx)
        else
          match s.resumeGroup t f.ext.toNat (r.uni 1 f.lit f.sb) (r.uni 2 f.lit f.sc) with
          | some s => .next (s.done a f.sw)
          | none => .next (s.sysFault a g hx)
      | _ => .next (s.sysFault a g hx)

/-! ### Mailboxes (R324, R325) -/

def execMsend (f : LF) (s : State) : Out State :=
  serviceOp s (Wf.msend f) f (sSrcs [f.sa] ++ sRun f.sb 8) fun n a g r =>
    if !g.lsZero then .next (s.park a g (.drain .ls))
    else
      let dest := (r.uni 0 f.lit f.sa).toNat
      let m := r.sregs 8 f.sb 8
      let w0 : W64 := ((m.headD 0) &&& 0x00FFFFFFFFFFFFFF) ||| BitVec.ofNat 64 (2 ^ 63 + n * 2 ^ 56)
      if dest > 47 then .next (s.finish a (g.putD f.dst 2) f.sw)
      else if 64 ≤ (s.col dest).mailbox.length then .next (s.finish a (g.putD f.dst 1) f.sw)
      else
        let s := s.finish a (g.putD f.dst 0) f.sw
        let c := s.col dest
        .next (s.setCol dest { c with mailbox := c.mailbox ++ [w0 :: m.drop 1] })

/-- The eight s registers of a message. -/
def Group.putRun (g : Group) (x : Spec) (vals : List W64) : Group :=
  (vals.mapIdx fun i v => (snum x + i, v)).foldl (fun g p => g.putS p.1 p.2) g

def execMrecv (f : LF) (s : State) : Out State :=
  serviceOp s (Wf.mrecv f) f [] fun n a g _ =>
    match (s.col n).mailbox with
    | m :: rest =>
      let s := s.setCol n { s.col n with mailbox := rest }
      .next (s.finish a (g.putRun f.dst m) f.sw)
    | [] =>
      if f.ext.toNat = 1 then .next (s.finish a (g.putRun f.dst (List.replicate 8 0)) f.sw)
      else .next (s.park a g .mrecv)

/-! ### TLBINV, KEYSEL, IDLE (R326, R327, R344) -/

/-- Merge entries removed with their translations: what waits on them goes on and faults again. -/
def State.dropMerges (s : State) (gone : Merge → Bool) : State :=
  (s.merges.filter gone).foldl (fun s m => s.resolve m.num false) s

def execTlbinv (f : LF) (s : State) : Out State :=
  serviceOp s (Wf.tlbinv f) f (sSrcs [f.sa, f.sb]) fun _ a _ r =>
    let va := (r.uni 0 f.lit f.sa).toNat
    let ctx := (r.uni 1 f.lit f.sb).toNat % 2 ^ 16
    -- accesses that were translated through the old entries take their places first (R129)
    let s := (if f.ext.toNat < 2 then s.finishLdfs ctx else s.contexts.foldl (fun s c => s.finishLdfs c.ctx) s).placeAll
    match f.ext.toNat with
    | 0 =>
      let hit := fun (t : TlbEnt) => t.ctx == ctx && decide (t.va ≤ va) && decide (va < t.va + t.size)
      let old := s.tlb.filter hit
      let s := { s with tlb := s.tlb.filter fun t => !hit t }
      .next ((s.dropMerges fun m => m.ctx == ctx && (m.page == va / 4096 || old.any fun t => decide (t.va ≤ m.page * 4096) && decide (m.page * 4096 < t.va + t.size))).done a f.sw)
    | 1 =>
      let s := { s with tlb := s.tlb.filter fun (t : TlbEnt) => t.ctx != ctx }
      .next ((s.dropMerges fun m => m.ctx == ctx).done a f.sw)
    | _ => .next ((({ s with tlb := [] } : State).dropMerges fun _ => true).done a f.sw)

/-- KEYSEL's effect on a slot: the counter's new value and the slot then selected; none where it is refused. -/
def State.keysel (s : State) (n mode slot : Nat) : Option (W64 × State) :=
  let c := s.col n
  let k := s.key slot
  let sel := fun (s : State) (x : Nat) => s.setCol n { s.col n with ksel := x }
  if slot > 1023 then none
  else if slot = 0 then (if mode = 2 ∧ c.ksel ≠ 0 then none else some (0, if mode = 2 then s else sel s 0))
  else if !k.valid then none
  else
    match mode with
    | 3 => some (0, sel s 0)
    | 0 => some (k.ctr + 1, sel (s.setKey slot { k with ctr := k.ctr + 1 }) slot)
    | 1 => some (k.ctr, sel s slot)
    | _ => if c.ksel ≠ slot then none else some (k.ctr + 1, s.setKey slot { k with ctr := k.ctr + 1 })

def execKeysel (f : LF) (s : State) : Out State :=
  serviceOp s (Wf.keysel f) f (sSrcs [f.sa]) fun n a g r =>
    let x := r.uni 0 f.lit f.sa
    match s.keysel n f.ext.toNat x.toNat with
    | some (v, s) => .next (s.done a f.sw (·.putD f.dst v))
    | none => .next (s.sysFault a g x)

/-- An event is pending at a col (R308, R309). -/
def Col.pending (c : Col) : Bool := c.ev || !c.mailbox.isEmpty || c.tm

def execIdle (f : LF) (s : State) : Out State :=
  serviceOp s (Wf.idle f) f [] fun n a g _ =>
    if (s.col n).pending then .next (s.finish a g f.sw) else .next (s.park a { g with psw := f.sw } .idle)

/-- The cols whose wait is over: a message for MRECV, an event for IDLE. -/
def State.wakeCols (s : State) : State :=
  (List.range 48).foldl (fun s n =>
    let c := s.col n
    match c.g.park with
    | .mrecv => if c.mailbox.isEmpty then s else s.wake (.col n) c.g
    | .idle => if c.pending then s.finishParked (.col n) c.g else s
    | _ => s) s

/-! ### Entry by an event (R309) -/

/-- The col enters its handler at the boundary before its next instruction. -/
def State.takesEvent (s : State) (n : Nat) : Bool :=
  let c := s.col n
  c.run == .running && c.g.park == .ready && c.priv != .monitor && c.ie && c.pending

/-- An agent's next boundary is an entry by an event. -/
def State.entersFirst (s : State) : Agent → Bool
  | .group _ => false
  | .col n => s.takesEvent n

def State.enterNow (s : State) (a : Agent) (g : Group) : State :=
  match a with
  | .group _ => s
  | .col n => s.enterHandler n (g.pc.setWidth 64) 0x30

def execColHandlerEntry (s : State) : Out State :=
  match s.ev with
  | .nat n => if decide (n < 48) && s.takesEvent n then .next (s.enterHandler n ((s.col n).g.pc.setWidth 64) 0x30) else .next s
  | _ => .next s

/-- Module time reaches CTIMER (R308). -/
def State.timerDue (s : State) (n : Nat) : Bool :=
  let c := s.col n
  c.run == .running && !c.timed && decide (c.ctimer.toNat ≤ s.time)

def execCtimerExpiry (s : State) : Out State :=
  match s.ev with
  | .nat n =>
    if decide (n < 48) && s.timerDue n then .next (s.setCol n { s.col n with cstat := (s.col n).cstat ||| 0x20, timed := true }) else .next s
  | _ => .next s

/-- A held record is written once CEVR has freed a slot (R329). -/
def State.flushRec (s : State) (n : Nat) : State :=
  match (s.col n).held with
  | [] => s
  | r :: rest =>
    match s.writeRec n r with
    | some s => s.setCol n { s.col n with held := rest }
    | none => s

def execEventRingRecordWrite (s : State) : Out State :=
  match s.ev with
  | .nat n => .next (s.flushRec n)
  | _ => .next s

end Sys2Proof.Machine
end

