-- ==== Sys2Proof/Machine/Image.lean ====
section
/-! DEFINITION. Context images (R301, R328, R337-R345): the bodies of the four kinds of section, their
headers and seals, and SAVEG and LOADG. -/

namespace Sys2Proof.Machine

/-! ### A group's record (R301, R340) -/

/-- The words of a list, little-endian. -/
def wordsLE (ws : List W32) : List Byte := ws.flatMap fun w => toLE 4 w.toNat

/-- The s registers that an instruction of the group wrote. -/
def Group.allS (g : Group) : List Byte := g.sregs.toList.flatMap fun x => toLE 8 x.toNat

/-- A record of R301: the label, the carry mask, whether the queue is carried, barrier and generation. -/
def recordBytes (g : Group) (pc : Pc) (carry : W64) (q : Bool) (bar gen : Nat) : List Byte :=
  let regs := (List.range 64).filter fun i => carry.getLsbD i
  let body :=
    toLE 8 pc.toNat ++ toLE 8 carry.toNat ++ toLE 4 g.gmode.toNat ++ toLE 4 g.fstat.toNat ++ toLE 4 g.mstat.toNat ++ toLE 4 g.fctl.toNat ++
    toLE 1 g.pri.toNat ++ toLE 1 (widthCode g.width + 8 * bit q) ++ toLE 1 bar ++ toLE 1 gen ++ toLE 4 g.home ++
    toLE 8 g.srSeed.toNat ++ toLE 8 g.srCtr.toNat ++ toLE 8 g.counters ++ toLE 2 g.seqCpy.toNat ++ toLE 2 g.seqMtx.toNat ++ toLE 2 g.seqNet.toNat ++
    toLE 2 g.root ++ toLE 48 g.shape.toNat ++ toLE 8 0 ++ g.allS ++
    regs.flatMap (fun r => wordsLE (g.lanes.map fun l => l.getV r)) ++
    (if q then (List.range 16).flatMap fun k => wordsLE (g.lanes.map fun l => l.q.getD k 0) else [])
  body ++ List.replicate (phaseSize g.width carry q - body.length) 0

/-- The index of register r among those of a carry mask. -/
def carryIndex (carry : W64) (r : Nat) : Nat := popc 64 (carry.toNat % 2 ^ r)

/-- A tensor shape from its bytes: its reserved bits read as zero (R6, R266). -/
def shapeOf (x : Nat) : BitVec 384 := BitVec.ofNat 384 (x % 2 ^ 304)

/-- The group that a record describes, with zeros elsewhere (R27). -/
def groupOfRecord (b : List Byte) : Group :=
  let carry := BitVec.ofNat 64 (field b 8 8)
  let w := widthOf (field b 33 1 % 8)
  let q := (field b 33 1).testBit 3
  let qAt := 384 + 4 * w * popc 64 carry.toNat
  { pc := pcOf (BitVec.ofNat 64 (field b 0 8)), gmode := BitVec.ofNat 32 (field b 16 4), fstat := BitVec.ofNat 32 (field b 20 4) &&& modeBits 1
    mstat := BitVec.ofNat 32 (field b 24 4) &&& modeBits 2, fctl := BitVec.ofNat 32 (field b 28 4) &&& modeBits 3, pri := BitVec.ofNat 3 (field b 32 1), home := field b 36 4
    srSeed := BitVec.ofNat 64 (field b 40 8), srCtr := BitVec.ofNat 64 (field b 48 8), seqCpy := BitVec.ofNat 16 (field b 64 2)
    seqMtx := BitVec.ofNat 16 (field b 66 2), seqNet := BitVec.ofNat 16 (field b 68 2), root := field b 70 2 % 32
    shape := shapeOf (field b 72 48), sregs := Vector.ofFn fun i => BitVec.ofNat 64 (field b (128 + 8 * i.val) 8)
    lanes := (List.range w).map fun l =>
      { v := Vector.ofFn fun r => if carry.getLsbD r.val then BitVec.ofNat 32 (field b (384 + 4 * w * carryIndex carry r.val + 4 * l) 4) else 0
        q := Vector.ofFn fun k => if q then BitVec.ofNat 32 (field b (qAt + 4 * w * k.val + 4 * l) 4) else 0
        stg := Vector.replicate 4 0 } }

/-! ### Matrix operation blocks (R251, R340): this layout is the model's (assumption 27) -/

/-- The slots above an operation's first push, when its late result is a push. -/
def Group.pushPos (g : Group) (op : Nat) : Nat :=
  match (g.results.find? fun r => r.op == some op).bind fun r => r.writes.head? with
  | some (.q _ p _) => g.pushes - p
  | _ => 0

def mtxBytes (g : Group) (m : MtxOp) : List Byte :=
  let b :=
    wordsLE ((encode m.i ++ [0, 0]).take 3) ++ toLE 4 m.home ++ toLE 8 m.rcd.pc.toNat ++ toLE 2 m.rcd.seq ++ toLE 2 m.a.length ++ toLE 2 m.b.length ++
    toLE 2 m.sa.length ++ toLE 2 (m.bias.getD []).length ++ toLE 2 m.sv.length ++
    toLE 1 (bit m.sb.isSome + 2 * bit m.bias.isSome + 4 * bit m.sampled) ++ toLE 1 (widthCode m.width) ++ toLE 2 0 ++ toLE 4 m.gmode.toNat ++ toLE 4 (m.sb.getD 0).toNat ++
    toLE 8 m.srSeed.toNat ++ toLE 8 m.srCtr.toNat ++ toLE 48 m.shape.toNat ++ toLE 2 m.audTag ++ toLE 4 m.audOrd ++ toLE 2 (g.pushPos m.op) ++ toLE 8 m.op
  b ++ wordsLE m.a ++ wordsLE m.b ++ wordsLE m.sa ++ wordsLE (m.bias.getD []) ++ m.sv.flatMap fun x => toLE 8 x.toNat

def wordsAt (b : List Byte) (off n : Nat) : List W32 := (List.range n).map fun i => BitVec.ofNat 32 (field b (off + 4 * i) 4)

/-- The length of a block. -/
def mtxLen (b : List Byte) : Nat := 128 + 4 * (field b 26 2 + field b 28 2 + field b 30 2 + field b 32 2) + 8 * field b 34 2

/-- The tile and the window of a matrix instruction. -/
def mtxFields (i : Instr) : Option LF := i.long?.map fun p => p.2.2

/-- An operation from its block, for a group at its new place. -/
def mtxOf (s : State) (g : Group) (op : Nat) (b : List Byte) : Option MtxOp :=
  match decodeWords (wordsAt b 0 3) with
  | .error _ => none
  | .ok i =>
    (mtxFields i).map fun f =>
      let na := field b 26 2
      let nb := field b 28 2
      let ns := field b 30 2
      let nc := field b 32 2
      let sv := (List.range (field b 34 2)).map fun k => BitVec.ofNat 64 (field b (128 + 4 * (na + nb + ns + nc) + 8 * k) 8)
      let rcd := { g.record 0x20 with cls := 2, seq := field b 24 2, pc := BitVec.ofNat 64 (field b 16 8) }
      let key := (s.teamOf g).map fun t => spadKey t.core (t.base + winBase (t.window (vnum f.dst)) + (sv.headD 0).toNat % 2 ^ 32)
      { op := op, ctx := g.ctx, tlin := g.tlin, core := g.core, quad := g.quad, tile := some f.tile, width := widthOf (field b 37 1 % 8), home := field b 12 4, rcd := rcd, was := some (field b 120 8)
        trTag := 0, i := i, a := wordsAt b 128 na, b := wordsAt b (128 + 4 * na) nb, sa := wordsAt b (128 + 4 * (na + nb)) ns
        sb := if (field b 36 1).testBit 0 then some (BitVec.ofNat 32 (field b 44 4)) else none
        bias := if (field b 36 1).testBit 1 then some (wordsAt b (128 + 4 * (na + nb + ns)) nc) else none
        sv := sv, shape := shapeOf (field b 64 48), gmode := BitVec.ofNat 32 (field b 40 4), srSeed := BitVec.ofNat 64 (field b 48 8)
        srCtr := BitVec.ofNat 64 (field b 56 8), keys := [key], audTag := field b 112 2, audOrd := field b 114 4, sampled := false }

/-- An operation is issued again: counted, queued, its late result outstanding (R251); once for the groups of a split that all
count it. -/
def State.reissue (s : State) (g : Group) (b : List Byte) : Group × State :=
  let shared := s.mtx.find? fun m => m.ctx == g.ctx && m.tlin == g.tlin && m.was == some (field b 120 8)
  let (op, s) := match shared with
    | some m => (m.op, s)
    | none => s.fresh
  match mtxOf s g op b with
  | none => (g, s)
  | some m =>
    let s := if shared.isSome then s else { s with mtx := s.mtx ++ [m] }
    let s := if (field b 36 1).testBit 2 && shared.isNone then s.countSlot m 816 else s
    let run := fun (f : LF) (words : Nat) =>
      (g.raise 6 op g.live).postLate (runWrites g f.dst (g.pushes - field b 118 2) words fun _ => 0) op
    match m.i with
    | .mdrain f => (run f (drainWords f.ty), s)
    | .mrows f => (run f (2 * g.width), s)
    | _ => (g.raise 6 op g.live, s)

/-- The blocks of a group section, in order: the fuel bounds their number. -/
def State.reissueAll (s : State) (g : Group) : Nat → List Byte → Group × State
  | 0, _ => (g, s)
  | n + 1, b =>
    let (g, s) := s.reissue g b
    State.reissueAll s g n (b.drop (mtxLen b))

/-! ### Park blocks (R340) -/

/-- The offset of a future cell in its space (R290): of a team's scratchpad (path 2), or cluster-shared. -/
def State.cellOffset (s : State) (g : Group) (key path : Nat) : Nat :=
  match s.teamOf g with
  | none => 0
  | some t =>
    if path = 2 then key - spadKey t.core t.base
    else
      match s.teams.find? fun x => x.ctx == g.ctx && x.launch == t.launch && x.clu == t.clu && decide (spadKey x.core x.lentBase ≤ key) && decide (key < spadKey x.core x.lentBase + t.lent) with
      | some x => x.idx * t.lent + (key - spadKey x.core x.lentBase)
      | none => 0

/-- The wait address and the wait operand of a park state. -/
def State.waitWords (s : State) (g : Group) : Nat × Nat :=
  match g.park with
  | .waitc p t => (p, t)
  | .sleep ns _ => (0, ns)
  | .fuse _ tag _ _ => (0, tag.toNat)
  | .barwait _ gen _ | .phase _ gen _ _ _ => (0, gen)
  | .barpay b _ _ =>
    (0, ((s.teamOf g).bind fun t => ((t.bar b).pays.find? fun p => p.1 == g.home).map fun p => p.2.toNat).getD 0)
  | .fwait key path _ => (s.cellOffset g key path, path - 2)
  | .semwait _ | .nwaitn _ =>
    match s.waiters.find? fun w => w.gid == some g.id with
    | some w => (w.va, w.n.toNat)
    | none => (0, 0)
  | .held r => (r.d32.toNat, r.d40.toNat)
  | .transl _ | .retry _ => (g.faultVa, 0)
  | _ => (0, 0)

/-- Barrier and generation of a wait. -/
def Park.barGen : Park → Nat × Nat
  | .barwait b g _ | .barpay b g _ => (b, g)
  | .phase b g _ _ _ => (b, g)
  | _ => (0, 0)

def Halt.code : Halt → Nat
  | .brk => 0x11 | .pcBreak => 0x12 | .watch => 0x13 | .race => 0x14

/-- The fault code that a park block records: of state 13, or of a halt. -/
def Group.blockCode (g : Group) : Nat :=
  match g.halted, g.park with
  | some h, _ => h.code
  | none, .held r => r.code
  | _, _ => 0

/-- The word of a park block that describes the open attempt of a group in FUSE; in state 13 it holds the record's cause and
merge entry, and in state 12 the order in which the waiter registered (assumption 27). -/
def State.waitWord (s : State) (g : Group) : Nat :=
  match g.park with
  | .held r => r.cause + r.merge * 2 ^ 32
  | .semwait _ | .nwaitn _ => ((s.waiters.find? fun w => w.gid == some g.id).map fun w => w.was.getD w.order).getD 0
  | _ => 0

def State.fuseWord (s : State) (g : Group) : Option Nat :=
  (s.fuses.find? fun x => x.arrived.any fun p => p.1 == g.id).map fun x =>
    let map := x.arrived.foldl (fun (m : Nat) p => match s.group? p.1 with
      | some h => m ||| ((2 ^ h.slices - 1) * 2 ^ (h.slice0 - x.first))
      | none => m) 0
    x.code + 8 * bit x.strict + x.first * 256 + map % 2 ^ 16 * 2 ^ 16

def parkBlock (s : State) (g : Group) (code n : Nat) : List Byte :=
  let (addr, opnd) := s.waitWords g
  let fw := s.fuseWord g
  toLE 1 code ++ toLE 1 (bit g.halted.isSome + 2 * bit (n != 0) + 4 * bit fw.isSome) ++ toLE 1 (g.quad + g.core % 12 * 16) ++ toLE 1 g.slice0 ++
  toLE 2 n ++ toLE 2 0 ++ toLE 8 g.mask.toNat ++ toLE 8 (g.srHeld.getD g.srCtr).toNat ++ toLE 8 addr ++ toLE 8 opnd ++ toLE 8 (fw.getD (s.waitWord g)) ++
  toLE 1 g.reserved ++ toLE 1 g.blockCode ++ toLE 78 0

/-- The cancelled operations of a group, in tile order. -/
def State.cancelled (s : State) (g : Group) : List MtxOp :=
  s.mtx.filter fun m => (g.ops.any fun o => o.op == m.op) && s.cancellable m.op

/-- A group section's body. -/
def State.groupBody (s : State) (g : Group) : List Byte :=
  let ms := s.cancelled g
  let (b, gen) := g.park.barGen
  let pc := match g.park with
    | .fence _ _ => g.pnext
    | .phase _ _ label _ _ => label
    | _ => g.pc
  let rec_ := match g.park with
    | .phase _ _ _ carry q => recordBytes g pc carry q b gen
    | _ => recordBytes g pc (BitVec.allOnes 64) true b gen
  -- an instruction that is to be issued again for some lanes only is replayed for them, as state 4 is
  let block := match g.redo with
    | some m => parkBlock s { g with mask := m ||| (g.rest.map Prod.fst).getD 0 } (if g.park.code ≤ 1 then 4 else g.park.code) ms.length
    | none => parkBlock s g g.park.code ms.length
  block ++ rec_ ++ ms.flatMap (mtxBytes g)

/-- A phase record as a section, with its cancelled operations (R251). -/
def State.phaseBody (s : State) (p : PhaseRec) : List Byte :=
  let ms := s.cancelled p.grp
  parkBlock s { p.grp with park := .ready } 14 ms.length ++ recordBytes p.grp p.grp.pc p.carry p.q p.bar p.gen ++ ms.flatMap (mtxBytes p.grp)

/-! ### Team, context and chip bodies (R338, R339) -/

def State.teamBody (s : State) (t : Team) (lent : Nat) : List Byte :=
  toLE 4 t.pos ++ toLE 1 t.idx ++ toLE 11 0 ++
  (List.range 4).flatMap (fun q => toLE 8 ((t.tiles.filter fun x => x.quad == q && (x.err || x.bad)).foldl (fun (m : Nat) x => m ||| 2 ^ x.num) 0)) ++ toLE 80 0 ++
  t.windows.toList.flatMap (fun w => toLE 16 w.toNat) ++
  t.barriers.toList.flatMap (fun b => toLE 8 b.w0.toNat ++ toLE 8 b.w1.toNat ++ toLE 8 b.w2.toNat) ++
  (List.range t.tcnt).flatMap (fun n => (List.range 4).flatMap fun q => wordsLE (t.tile q n).words.toList) ++
  readBytes s.mem (spadKey t.core t.base) t.size ++ readBytes s.mem (spadKey t.core t.lentBase) lent

def State.ctxBody (s : State) (c : Context) : List Byte :=
  let ts := s.teams.filter fun t => t.ctx == c.ctx && !t.retired
  let gs := (s.groups.filter fun g => g.ctx == c.ctx).length + ts.foldl (fun n t => n + t.phases.length) 0
  toLE 8 (2 * bit (c.cflags.getLsbD 0)) ++ toLE 1 c.rwidth ++ toLE 1 c.nroot ++ toLE 1 c.cx ++ toLE 1 c.cy ++ toLE 4 c.alloc ++ toLE 4 c.lent ++
  toLE 4 c.clusters ++ toLE 8 0 ++ toLE 8 0 ++ toLE 1 c.tcnt ++ toLE 1 c.bcnt ++ toLE 1 c.gpri ++ toLE 1 0 ++ toLE 4 ts.length ++ toLE 4 gs ++
  toLE 4 (bit (c.ksize != 0)) ++ toLE 4 c.psize.toNat ++ toLE 4 c.kreq ++ toLE 256 0

def State.chipBody (s : State) (c : Context) : List Byte :=
  (List.range 4).flatMap fun d => readBytes s.mem (chipKey d c.kbase) c.ksize.toNat

/-! ### Sections (R337, R343) -/

def magic : Nat := 0x47434E45

def sectionHead (kind body index ctr ctx slot : Nat) (sealed : Bool) (hnd : W64) : List Byte :=
  toLE 4 magic ++ toLE 1 kind ++ toLE 1 1 ++ toLE 2 (bit sealed) ++ toLE 4 body ++ toLE 4 index ++ toLE 8 (if sealed then ctr else 0) ++ toLE 2 ctx ++
  toLE 2 (if sealed then slot else 0) ++ toLE 4 0 ++ toLE 8 hnd.toNat ++ toLE 24 0

def nonce (ctr index : Nat) : List Byte := toLE 8 ctr ++ toLE 4 index

/-- A section as it is written: sealed under the slot's key, or in the clear with a zero tag. -/
def State.sectionBytes (s : State) (kind index ctx slot : Nat) (hnd : W64) (body : List Byte) : List Byte :=
  let sealed := s.protected? ctx
  let k := s.key slot
  let h := sectionHead kind body.length index k.ctr.toNat ctx slot sealed hnd
  if sealed then
    let (c, tag) := gcmSeal k.key (nonce k.ctr.toNat index) h body
    h ++ c ++ tag
  else h ++ body ++ List.replicate 16 0

/-- R345: the selected slot is not the context's. -/
def State.slotBad (s : State) (n ctx : Nat) : Bool :=
  let k := (s.col n).ksel
  if s.protected? ctx then k == 0 || (s.key k).owner != ctx else k != 0

/-! ### The col's accesses (R328) -/

/-- The keys of n bytes from an address, or the state in which the col has taken the fault. -/
inductive Run where
  | ok (keys : List Nat) (s : State)
  | stop (s : State)

/-- The page of a col's access has PCTX = 0. -/
def State.openPage (s : State) (n va : Nat) : Bool :=
  match s.walk ((s.col n).cctx.toNat % 2 ^ 16) va with
  | .leaf _ e _ => !ptePctx e
  | .fail _ => false

/-- The image lies in pages of a protected context, or not. -/
def State.imageRun (s : State) (n : Nat) (a : Agent) (g : Group) (acc : Acc) (prot : Bool) (va len : Nat) : Run :=
  let lines := (List.range ((va % 128 + len + 127) / 128)).map fun i => va / 128 * 128 + 128 * i
  let (ks, bad, s) := lines.foldl (fun (x : List Nat × Option (State → State) × State) l =>
    match x.2.1 with
    | some _ => x
    | none =>
      match x.2.2.colTranslate n acc l with
      | (.ok k e, s) =>
        if prot && !ptePctx e then (x.1, some fun s => s.transFault a g 1 [(l, 6)], s)
        else match (if acc = .read then s.poisoned k 128 else none) with
          | some p => (x.1, some fun s => s.mediaFault a g p, s)
          | none => (x.1 ++ [k], none, s)
      | (.fail c, s) =>
        -- the check of a protected context comes before those of reading and writing (R127)
        let c := if prot && (c == 2 || c == 3) && s.openPage n l then 6 else c
        (x.1, some fun s => s.transFault a g 1 [(l, c)], s)
      | (.priv, s) => (x.1, some fun s => s.privilege a g, s)) ([], none, s)
  match bad with
  | some fn => .stop (fn s)
  | none => .ok ks s

/-- Bytes stored by lines from a line's start. -/
def State.storeLines (s : State) (a : Agent) : List Nat → List Byte → State
  | [], _ => s
  | k :: ks, b => State.storeLines (s.storeBytes a true k (b.take 128)) a ks (b.drop 128)

def State.readLines (s : State) (ks : List Nat) (len : Nat) : List Byte := (ks.flatMap fun k => readBytes s.mem k 128).take len

/-! ### SAVEG -/

/-- The teams of a context on the part, and its groups and phase records by team and home lane: their order numbers
the sections of an image after its header (assumption 27). -/
def State.imgTeams (s : State) (ctx : Nat) : List Team :=
  sortBy (fun x y => decide (x.pos < y.pos) || (x.pos == y.pos && decide (x.tlin ≤ y.tlin))) (s.teams.filter fun t => t.ctx == ctx && !t.retired)

def State.imgGroups (s : State) (ctx : Nat) : List (Nat × Nat) :=
  (s.imgTeams ctx).flatMap fun t =>
    sortBy (fun x y => decide (x.2 ≤ y.2)) ((s.groupsOf t).map (fun g => (t.tlin, g.home)) ++ t.phases.map fun p => (t.tlin, p.grp.home))

def State.teamIndex (s : State) (t : Team) : Nat := 1 + ((s.imgTeams t.ctx).findIdx fun x => x.tlin == t.tlin)

def State.groupIndex (s : State) (g : Group) : Nat :=
  1 + (s.imgTeams g.ctx).length + (s.imgGroups g.ctx).findIdx fun x => x.1 == g.tlin && x.2 == g.home

/-- What SAVEG writes: the section's index, its context and its body; none for a wrong handle. -/
def State.saveObject (s : State) (n kind : Nat) (h : Hnd) : Option (Nat × Nat × List Byte) :=
  match kind with
  | 0 => if h.isCtx then some (0, h.ctx, s.ctxBody (s.ctxD h.ctx)) else none
  | 1 => (s.findTeam n h).map fun t => (s.teamIndex t, t.ctx, s.teamBody t t.lent)
  | 2 => (s.findGroup n h).map fun t => match t with
    | .res g => (s.groupIndex g, g.ctx, s.groupBody g)
    | .out t p => (s.groupIndex p.grp, t.ctx, s.phaseBody p)
  | _ => if h.isCtx then some (1 + (s.imgTeams h.ctx).length + (s.imgGroups h.ctx).length, h.ctx, (s.ctxD h.ctx).kout.getD (s.chipBody (s.ctxD h.ctx))) else none

/-- The record of a section that fails (R331). -/
def imageRecord (ctx cause index time : Nat) : EvRec :=
  { code := 0x0D, cause := cause, ctx := ctx, d32 := BitVec.ofNat 64 index, d56 := BitVec.ofNat 64 time }

/-- An image-integrity fault at a col (R331): its record, and the handler. -/
def State.imageFault (s : State) (n : Nat) (a : Agent) (g : Group) (ctx cause index : Nat) : State :=
  (s.sendRec n { imageRecord ctx cause index s.time with pc := g.pc.setWidth 64 }).raise a g { code := 0x0D }

/-- A SAVE or RESTORE record (R388). -/
def State.traceImage (s : State) (n kind ctx result sections ctr : Nat) : State :=
  s.traceCol ctx n kind (toLE 2 ctx ++ toLE 1 result ++ toLE 1 0 ++ toLE 4 sections ++ toLE 8 ctr)

/-- The sections of a context's image. -/
def headSections (b : List Byte) : Nat := 1 + field b 44 4 + field b 48 4 + field b 52 4

def execSaveg (f : LF) (s : State) : Out State :=
  serviceOp s (Wf.saveg f) f (sSrcs [f.sa, f.sb]) fun n a g r =>
    let hx := r.uni 0 f.lit f.sa
    let va := (r.uni 1 f.lit f.sb)
    let kind := f.ext.toNat
    match s.saveObject n kind (Hnd.of hx) with
    | none => .next (s.sysFault a g hx)
    | some (index, ctx, body) =>
      if (s.ctxD ctx).stop ≠ .stopped then .next (s.sysFault a g hx)
      else if va.toNat % 128 ≠ 0 then .next (s.misaligned a g 1 va)
      else if s.slotBad n ctx then .next ((s.traceImage n 0x53 ctx 4 0 (s.key (s.col n).ksel).ctr.toNat).imageFault n a g ctx 4 index)
      else
        let slot := (s.col n).ksel
        let b := s.sectionBytes (kind + 1) index ctx slot hx body
        match s.imageRun n a g .write (s.protected? ctx) va.toNat b.length with
        | .stop s => .next s
        | .ok ks s =>
          let s := s.storeLines a ks b
          let s := if kind = 0 then s.traceImage n 0x53 ctx 0 (headSections body) (s.key slot).ctr.toNat else s
          .next (s.done a f.sw (·.putD f.dst (BitVec.ofNat 64 b.length)))

/-! ### LOADG (R328, R336, R341) -/

/-- The placement of a team's storage on a core: the first free run of bytes of the scratchpad, a multiple of 512, that
leaves room for the phase records (R301). -/
def State.freeSpad (s : State) (core n : Nat) : Option Nat :=
  let used := ((s.teams.filter fun t => t.core == core && !t.retired).map fun t => (t.base, t.size)) ++ s.lentParts core
  if s.reserveFree core < n then none
  else
    ((List.range 513).map (· * 512)).find? fun b => decide (b + n ≤ Config.coreSpad) && used.all fun u => u.2 == 0 || decide (b + n ≤ u.1) || decide (u.1 + u.2 ≤ b)

/-- The counts of tiles and barriers fit on a core (R249, R283). -/
def State.countsFit (s : State) (core tcnt bcnt : Nat) : Bool :=
  let ts := s.teams.filter fun t => t.core == core && !t.retired
  decide (ts.foldl (fun n t => n + t.tcnt) tcnt ≤ 64) && decide (ts.foldl (fun n t => n + t.bcnt) bcnt ≤ 64)

/-- A team first placed on a core: its storage, uninitialised barriers and zero tiles (R114, R249, R283). -/
def freshTeam (c : Context) (num pos core base lentBase : Nat) : Team :=
  { ctx := c.ctx, tlin := num, pos := pos, idx := pos % max 1 (c.cx * c.cy), clu := pos / max 1 (c.cx * c.cy), core := core
    cx := c.cx, cy := c.cy, lent := c.lent, rwidth := c.rwidth, base := base, size := c.alloc, lentBase := lentBase
    windows := (Vector.replicate 8 0).set 0 (BitVec.ofNat 128 (c.alloc * 2 ^ 32)), barriers := Vector.replicate 64 {}
    tcnt := c.tcnt, bcnt := c.bcnt }

/-- The storage of a new team of a context on a core. -/
def State.teamRoom (s : State) (c : Context) (core : Nat) : Option (Nat × Nat) :=
  if !s.countsFit core c.tcnt c.bcnt then none
  else (s.freeSpad core (c.alloc + c.lent)).map fun b => (b, b + c.alloc)

/-- The team of a section, on the col's chosen core. -/
def teamOfBody (t : Team) (b : List Byte) : Team :=
  { t with
    idx := field b 4 1
    windows := Vector.ofFn fun i => BitVec.ofNat 128 (field b (128 + 16 * i.val) 16) &&& winMask
    barriers := Vector.ofFn fun i =>
      { w0 := BitVec.ofNat 64 (field b (256 + 24 * i.val) 8) &&& barMask 0, w1 := BitVec.ofNat 64 (field b (264 + 24 * i.val) 8) &&& barMask 1
        w2 := BitVec.ofNat 64 (field b (272 + 24 * i.val) 8) }
    tiles := (List.range t.tcnt).flatMap fun n => (List.range 4).map fun q =>
      { quad := q, num := n, err := (field b (16 + 8 * q) 8).testBit n
        words := Vector.ofFn fun k => BitVec.ofNat 32 (field b (1792 + 4096 * n + 1024 * q + 4 * k.val) 4) } }

/-- The windows of a team's section lie within its allocation (R114). -/
def Team.winsOk (t : Team) : Bool := t.windows.toList.all t.winOk

/-- The teams of a cluster know the cores and the lent parts of each other (R116). The part of a team that was not placed has a
place of the model (assumption 1). -/
def State.linkCluster (s : State) (ctx launch clu : Nat) : State :=
  let same := fun (t : Team) => t.ctx == ctx && t.launch == launch && t.clu == clu && !t.retired
  let ts := s.teams.filter same
  -- a place of its own for the part of a team that has no core
  let none_ := fun (i : Nat) => (1024, 2 ^ 60 + (16 * ts.foldl (fun m t => min m t.tlin) ((ts.head?.map (·.tlin)).getD 0) + i) * 2 ^ 18)
  { s with teams := s.teams.map fun t =>
      if same t then
        { t with parts := (List.range (t.cx * t.cy)).map fun i =>
            ((ts.find? fun x => x.idx == i).map fun x => (x.core, x.lentBase)).getD (t.parts.getD i (none_ i)) }
      else t }

/-- A team's section placed on a core; none where it does not fit there, or a window does not fit it (assumption 27). -/
def State.placeTeam (s : State) (c : Context) (core : Nat) (b : List Byte) : Option (Team × State) :=
  match s.teamRoom c core with
  | none => none
  | some (base, lent) =>
    let (n, s) := s.placeAll.fresh
    let t := teamOfBody (freshTeam c n (field b 0 4) core base lent) b
    if !t.winsOk then none
    else
    let data := b.drop (1792 + 4096 * c.tcnt)
    let m := writeBytes (zeroBytes s.mem (spadKey core base) c.alloc) (spadKey core base) (data.take c.alloc)
    let m := writeBytes (zeroBytes m (spadKey core lent) c.lent) (spadKey core lent) ((data.drop c.alloc).take c.lent)
    some (t, { s with mem := m, teams := s.teams ++ [t] })

def State.setIsland (s : State) (i : Nat) (f : Island → Island) : State :=
  if h : i < 640 then { s with mod := { s.mod with islands := s.mod.islands.set i (f s.mod.islands[i]) h } } else s

/-- The islands that a core's teams use: its own, its ridge's fabric and the L2 slices of its die (R419). -/
def islandsOf (core : Nat) : List Nat := [core, 576 + core / 12] ++ (List.range 4).map fun k => 624 + core / 144 * 4 + k

/-- A placement ends the measurements of the islands that it needs (R422). -/
def State.useIsland (s : State) (core : Nat) : State :=
  (islandsOf core).foldl (fun s i => s.setIsland i fun x => { x with measuring := none }) s

/-- No team is placed on a fenced core (R422). -/
def State.fencedCore (s : State) (core : Nat) : Bool := (s.mod.islands.toList[core]?.map (·.fenced)).getD true

/-- LOADG `.team`: a team that had left the part is again one of its packet. -/
def State.loadTeam (s : State) (c : Context) (core : Nat) (b : List Byte) : Option State :=
  ((s.useIsland core).placeTeam c core b).map fun (t, s) =>
    match c.away.find? fun p => p.1 == t.pos with
    | some p => ((s.setTeam { t with launch := p.2.1, pktQueue := p.2.2.1, pktIdx := p.2.2.2 }).putCtx { c with away := c.away.erase p }).linkCluster c.ctx p.2.1 t.clu
    | none => s.linkCluster c.ctx t.launch t.clu

def ctxOfBody (c : Context) (b : List Byte) : Context :=
  { c with
    rwidth := field b 8 1, nroot := field b 9 1, cx := field b 10 1, cy := field b 11 1, alloc := field b 12 4, lent := field b 16 4
    clusters := field b 20 4, tcnt := field b 40 1, bcnt := field b 41 1, gpri := field b 42 1, psize := BitVec.ofNat 64 (field b 56 4)
    kreq := max c.kreq (field b 60 4) }

/-- A context header's content: counts and sizes in range, and zeros where the layout has them (R338). -/
def ctxBodyOk (b : List Byte) : Bool :=
  decide (field b 0 8 < 4) && decide (field b 8 1 ≤ 4) && decide (1 ≤ field b 10 1) && decide (1 ≤ field b 11 1) && field b 12 4 % 512 == 0 &&
  field b 16 4 % 4096 == 0 && decide (field b 16 4 ≤ 131072) && decide (field b 40 1 ≤ 64) && decide (field b 41 1 ≤ 64) && field b 43 1 == 0 &&
  decide (field b 42 1 < 8) && decide (field b 52 4 < 2) && field b 56 4 % 4 == 0 && decide (bitsOf (field b 32 4) 6 4 < 6) && decide (field b 32 4 < 2 ^ 17)

/-- A group body's content (R66, R341). -/
def groupBodyOk (b : List Byte) : Bool :=
  let r := b.drop 128
  let gm := field r 16 4
  decide (bitsOf gm 6 4 < 6) && decide (gm < 2 ^ 17) && decide (field b 0 1 ≤ 16) && field b 0 1 != 16 && field b 6 2 == 0

/-- A load or store whose misaligned accesses the service kernel emulates (R136). -/
def Peek.emulable (p : Peek) : Bool :=
  match p.i with
  | .ld _ | .st _ | .lds _ | .sts _ | .ldc _ | .stc _ | .ldp _ | .stp _ | .ldk _ | .stk _ => true
  | _ => false

/-- The tag of the trace records of the access of an instruction through a buffer record (R390). -/
def State.peekTag (s : State) (g : Group) (p : Peek) : Option Nat :=
  match p.i with
  | .ld f | .st f | .atom f | .discard f | .semsig f | .semwait f | .rngres f | .rngpub f | .ldf f => some (((s.rd g).rcd f.sa).traceTag g)
  | _ => none

/-- The wait that a park block restores, with what the instruction at the PC gives: its destination, its marker
and the address after it. -/
def State.parkOf (s : State) (g : Group) (b : List Byte) (p : Option Peek) : Park :=
  let d := (p.map fun x => x.f.dst).getD .zero
  let addr := field b 24 8
  let op := field b 32 8
  let r := b.drop 128
  match field b 0 1 with
  | 2 => .waitc addr op
  | 3 => .sleep op (s.time + 16 * op)
  | 4 | 5 => .transl []
  | 6 => .trapc d
  | 7 => .fuse (field b 40 8 % 8) (BitVec.ofNat 64 op) ((field b 40 8).testBit 3) d
  | 8 => .barwait (field r 34 1) (field r 35 1) d
  | 9 => .barpay (field r 34 1) (field r 35 1) d
  | 10 => .teambar
  | 11 => .fwait (if op = 0 then ((s.teamOf g).map fun t => spadKey t.core (t.base + addr)).getD 0 else s.cluAt g.ctx g.tlin addr) (2 + op) d
  | 12 => match p with
    | some x => if x.grp = 9 then .nwaitn d else .semwait d
    | none => .semwait d
  | 13 => .held { g.record (field b 49 1) with
      mine := field b 49 1 == 9 && p.any Peek.emulable, cause := field b 40 1, merge := field b 44 4, lanes := g.mask, d32 := BitVec.ofNat 64 addr, d40 := BitVec.ofNat 64 op }
  | 15 => .phase (field r 34 1) (field r 35 1) g.pc (BitVec.ofNat 64 (field r 8 8)) ((field r 33 1).testBit 3)
  | _ => .ready

def haltOf : Nat → Option Halt
  | 0x11 => some .brk | 0x12 => some .pcBreak | 0x13 => some .watch | 0x14 => some .race | _ => none

/-- The address after the instruction at a group's PC. -/
def State.peekNext (s : State) (g : Group) : Pc :=
  match (s.fetchLine (.group g.id) g.pc.toNat).1 with
  | .ok ws => BitVec.ofNat 57 (nextPc ws g.pc.toNat (walkLen (lineWord ws (g.pc.toNat / 4 % 32))))
  | _ => g.pc + 4

/-- A group that waits is registered again (R37, R334): on its counter or ring, in its fuse attempt, at its barrier. The window of
the attempt is that of the first of its groups to be loaded (assumption 32). -/
def State.rejoin (s : State) (g : Group) (b : List Byte) : State :=
  let a := Agent.group g.id
  match g.park with
  | .semwait _ | .nwaitn _ =>
    let va := field b 24 8
    let ring := match g.park with
      | .nwaitn _ => true
      | _ => false
    let key := match (s.trans a .atomic va).1 with
      | .ok k _ => k
      | _ => 0
    s.addWaiter { gid := some g.id, ridge := g.ridge, ctx := g.ctx, va := va, key := key, n := BitVec.ofNat 64 (field b 32 8), ring := ring, slot := none
                  order := 0, was := some (field b 40 8), since := 0, scope := ((s.peek g).map fun p => p.f.ext.toNat).getD 0 }
  | .waitc p t => if g.counter p ≤ t then s.finishParked a (g.observe (· == p)) else s
  | .fwait key _ d =>
    if readLE s.mem (key + 8) 8 % 2 = 1 then s.finishParked a (g.postS d (BitVec.ofNat 64 (readLE s.mem key 8))) else s
  | .fuse code tag strict _ =>
    let len := 2 ^ code
    let first := g.slice0 / len * len
    let same := fun (x : Fuse) => x.core == g.core && x.quad == g.quad && x.first == first && x.len == len && x.tag == tag && x.strict == strict
    match s.fuses.find? same with
    | some _ => { s with fuses := s.fuses.map fun x => if same x then { x with arrived := x.arrived ++ [(g.id, g.sregs)] } else x }
    | none =>
      let (n, s) := s.fresh
      { s with fuses := s.fuses ++ [{ num := n, core := g.core, quad := g.quad, first := first, len := len, code := code, tag := tag, strict := strict
                                      since := s.time, fwin := bitsOf g.fctl.toNat 19 0, arrived := [(g.id, g.sregs)] }] }
  | .barwait n gen d =>
    match s.teamOf g with
    | some t => if (t.bar n).gen = gen then s else s.finishParked a (g.postS d (BitVec.ofNat 64 ((t.bar n).lstat + gen * 256)))
    | none => s
  | .trapc _ =>
    -- the calls that are still to be completed (R334); no record is sent again
    match s.peek g with
    | some p =>
      (requests (s.rd g) p.f (lanesOf g.width g.mask)).foldl (fun (s : State) q =>
        { s with sys := s.sys ++ [{ gid := g.id, ridge := g.ridge, lanes := maskOf q.2, num := q.1.headD 0, args := q.1.drop 1, since := s.time }] }) s
    | none => s
  | .barpay n gen d =>
    match s.teamOf g with
    | some t =>
      let x := t.bar n
      if x.gen ≠ gen then
        -- the result of a phase that was released while the group was saved; where the team was saved after it, the image does not
        -- hold it: it is free
        s.finishParked a (g.postS d (((x.outs.find? fun p => p.1 == gen).map Prod.snd).getD (Config.random s.tick 6)))
      else if x.pval then s.setTeam (t.setBar n { x with pays := x.pays ++ [(g.home, BitVec.ofNat 64 (field b 32 8))] }) else s
    | none => s
  | .phase n gen _ _ _ =>
    -- its phase has ended: it is ready for re-admission (R303)
    if ((s.teamOf g).map fun t => (t.bar n).gen) = some gen then s else s.setGroup { g with stage := 1 }
  | _ => s

/-- A group of a section on the place that a handle names: core, quadrant and first slice context. -/
def State.loadGroup (s : State) (t : Team) (quad slice0 : Nat) (b : List Byte) : State :=
  let r := b.drop 128
  let (id, s) := (s.nextGroup, { s with nextGroup := s.nextGroup + 1 })
  let g : Group := { groupOfRecord r with
    id := id, ctx := t.ctx, tlin := t.tlin, core := t.core, quad := quad, slice0 := slice0, launch := t.launch, pktQueue := t.pktQueue, pktIdx := t.pktIdx
    mask := BitVec.ofNat 64 (field b 8 8), reserved := field b 48 1, faultVa := field b 24 8, halted := if (field b 1 1).testBit 0 then haltOf (field b 49 1) else none
    srHeld := if field b 16 8 = field (b.drop 128) 48 8 then none else some (BitVec.ofNat 64 (field b 16 8)), pushes := 64 }
  let p := s.peek g
  let g := { g with park := s.parkOf g b p, pnext := s.peekNext g, psw := (p.map fun x => x.f.sw).getD false, accTag := if field b 0 1 = 4 ∨ field b 0 1 = 5 ∨ field b 0 1 = 12 then p.bind (s.peekTag g) else none }
  let (g, s) := s.reissueAll g (field b 4 2) (r.drop (phaseSize g.width (BitVec.ofNat 64 (field r 8 8)) ((field r 33 1).testBit 3)))
  let s := ({ s with groups := s.groups ++ [g] } : State).returnStreams g.id
  -- its PLACE comes before the record of a wait that is over (R386)
  ((s.claim g).tracePlace g 2).rejoin g b

/-- A phase record of a section, in a slot of its team (R303), with its operations, on the tiles of the quadrant that it left. -/
def State.loadPhase (s : State) (t : Team) (slot : Nat) (b : List Byte) : State :=
  let r := b.drop 128
  let carry := BitVec.ofNat 64 (field r 8 8)
  let q := (field r 33 1).testBit 3
  let g : Group := { groupOfRecord r with ctx := t.ctx, tlin := t.tlin, core := t.core, launch := t.launch, pktQueue := t.pktQueue, pktIdx := t.pktIdx
                                          quad := field b 2 1 % 4, slice0 := field b 3 1 }
  let n := field r 34 1
  let gen := field r 35 1
  let size := phaseSize g.width carry q
  let (g, s) := s.reissueAll g (field b 4 2) (r.drop size)
  let p : PhaseRec := { slot := slot, grp := g, carry := carry, q := q, bar := n, gen := gen, size := size
                        ended := if (t.bar n).gen = gen then none else some 0 }
  s.setTeam { t with phases := t.phases ++ [p] }

/-- The place named by a group's handle is free and fits (R22, R177). -/
def State.placeOk (s : State) (t : Team) (quad slice0 n saved : Nat) : Bool :=
  decide (quad < 4) && slice0 % max 1 n == 0 && decide (slice0 + n ≤ 64) && (s.freeSlices t.core quad n).contains slice0 &&
  rootAligned t.rwidth slice0 saved

/-- What loading a checked body does, in which issue has not started for the context (R336): none where the section does not fit its place. -/
def State.loadBody (s : State) (n kind : Nat) (h : Hnd) (b : List Byte) : Option State :=
  match kind with
  | 0 => some (s.putCtx { ctxOfBody (s.ctxD h.ctx) b with stop := .stopped })
  | 1 => s.loadTeam (s.ctxD h.ctx) (12 * n + h.core) b
  | 2 =>
    (s.teamAt n h).bind fun t =>
      let w := widthOf (field (b.drop 128) 33 1 % 8)
      if h.phase then
        let size := phaseSize w (BitVec.ofNat 64 (field (b.drop 128) 8 8)) ((field (b.drop 128) 33 1).testBit 3)
        if size ≤ s.reserveFree t.core ∧ h.gnum < 64 ∧ !(t.phases.any fun p => p.slot == h.gnum) then some (s.loadPhase t h.gnum b)
        else none
      else if s.placeOk t (h.gnum / 64) (h.gnum % 64) (w / 4) (field b 3 1) then some (s.loadGroup t (h.gnum / 64) (h.gnum % 64) b) else none
  | _ =>
    let c := s.ctxD h.ctx
    some { s with mem := (List.range 4).foldl (fun m d => writeBytes m (chipKey d c.kbase) ((b.drop (d * c.ksize.toNat)).take c.ksize.toNat)) s.mem }

/-- The object of LOADG stands as R328 requires. -/
def State.loadOk (s : State) (n kind : Nat) (h : Hnd) : Bool :=
  match kind with
  | 0 => h.isCtx && !s.holdsCores h.ctx
  | 1 => h.ok && decide (h.core < 12) && !s.fencedCore (12 * n + h.core) && h.gnum == 0 && !h.phase && h.lane == 0 && (s.teamAt n h).isNone
  | 2 => (s.teamAt n h).isSome
  | _ => h.isCtx && (s.ctxD h.ctx).ksize != 0 && (s.ctxD h.ctx).kout.isNone

/-- The length of a body fits its kind and the context's header (R338-R340); that of a group section depends on its content
too. -/
def lengthOk (c : Context) (kind len : Nat) : Bool :=
  match kind with
  | 0 => len == 320
  | 1 => len == 1792 + 4096 * c.tcnt + c.alloc + c.lent
  | 2 => decide (512 ≤ len)
  | _ => len == 4 * c.ksize.toNat

/-- A group section holds its record. -/
def groupLenOk (b : List Byte) : Bool :=
  let r := b.drop 128
  decide (128 + phaseSize (widthOf (field r 33 1 % 8)) (BitVec.ofNat 64 (field r 8 8)) ((field r 33 1).testBit 3) ≤ b.length)

/-- The first three checks of R341, on a section's header: the cause of a failing one. -/
def State.headCause (s : State) (n kind : Nat) (c : Context) (b : List Byte) : Option Nat :=
  let sealed := field b 6 2 == 1
  if field b 0 4 != magic || field b 4 1 != kind + 1 || field b 5 1 != 1 || decide (field b 6 2 > 1) || field b 28 4 != 0 || field b 40 24 != 0 ||
      sealed != s.protected? c.ctx || !lengthOk c kind (field b 8 4) then some 3
  else if s.slotBad n c.ctx then some 4
  else if sealed && field b 16 8 != (s.key (s.col n).ksel).ctr.toNat then some 1
  else none

/-- The checks of R341 on a section's bytes: its opened body, or the cause. -/
def State.openSection (s : State) (n kind : Nat) (c : Context) (b : List Byte) : Except Nat (List Byte) :=
  let len := field b 8 4
  let body := (b.drop 64).take len
  let tag := (b.drop (64 + len)).take 16
  match s.headCause n kind c b with
  | some e => .error e
  | none =>
    let plain := if field b 6 2 == 1 then gcmOpen (s.key (s.col n).ksel).key (nonce (field b 16 8) (field b 12 4)) (b.take 64) body tag
      else if tag.all (· == 0) then some body else none
    match plain with
    | none => .error 2
    | some p => if (kind == 2 && !(groupLenOk p && groupBodyOk p)) || (kind == 0 && !ctxBodyOk p) then .error 3 else .ok p

/-- A failed LOADG writes DST with 0 and raises the image-integrity fault. -/
def State.loadFails (s : State) (n : Nat) (a : Agent) (f : LF) (h : Hnd) (cause : Nat) (b : List Byte) : State :=
  let s := s.traceImage n 0x54 h.ctx cause 0 (field b 16 8)
  match s.ag? a with
  | some g => (s.setAg a (g.putD f.dst 0)).imageFault n a (g.putD f.dst 0) h.ctx cause (field b 12 4)
  | none => s

def execLoadg (f : LF) (s : State) : Out State :=
  serviceOp s (Wf.loadg f) f (sSrcs [f.sa, f.sb]) fun n a g r =>
    let hx := r.uni 0 f.lit f.sa
    let h := Hnd.of hx
    let va := r.uni 1 f.lit f.sb
    let kind := f.ext.toNat
    let c := s.ctxD h.ctx
    if !s.loadOk n kind h then .next (s.sysFault a g hx)
    else if va.toNat % 128 ≠ 0 then .next (s.misaligned a g 1 va)
    else
      match s.imageRun n a g .read (s.protected? h.ctx) va.toNat 64 with
      | .stop s => .next s
      | .ok ks s =>
        let hd := s.readLines ks 64
        match s.headCause n kind c hd with
        | some e => .next (s.loadFails n a f h e hd)
        | none =>
          let len := 80 + field hd 8 4
          match s.imageRun n a g .read (s.protected? h.ctx) va.toNat len with
          | .stop s => .next s
          | .ok ks s =>
            let b := s.readLines ks len
            match s.openSection n kind c b with
            | .error e => .next (s.loadFails n a f h e b)
            | .ok p =>
              match s.loadBody n kind h p with
              | none => .next (s.loadFails n a f h 5 b)
              | some s =>
                let s := if kind = 0 then s.traceImage n 0x54 h.ctx 0 (headSections p) (field b 16 8) else s
                .next (s.done a f.sw (·.putD f.dst (Config.random s.tick 5)))

end Sys2Proof.Machine
end

