-- ==== Sys2Proof/Machine/Syscall.lean ====
section
/-! DEFINITION. The service kernel as the groups find it: the system calls (R332, R333), the completions of
storage devices, the other Ethernet traffic (R351) and the servo of module time (R381, R382). Files, sockets and
their devices lie outside the part (assumption 13). -/

namespace Sys2Proof.Machine

/-! ### The service kernel's accesses to a context's memory -/

/-- The keys of n bytes of a context's memory that its groups may access so: none where a page is not mapped or
lacks the permission, or a line is uncorrectable. -/
def State.userKeys (s : State) (ctx : Nat) (acc : Acc) (va n : Nat) : Option (List Nat × State) :=
  (List.range n).foldl (fun x i => x.bind fun (ks, s) =>
    match s.translate ctx true acc (va + i) with
    | (.ok k _, s) => if acc = .read ∧ (s.poisoned k 1).isSome then none else some (ks ++ [k], s)
    | _ => none) (some ([], s))

/-- Bytes stored by a col at keys, coherently. -/
def State.storeKeys (s : State) (n : Nat) (ks : List Nat) (bs : List Byte) : State :=
  (ks.zip bs).foldl (fun s p => s.storeBytes (.col n) true p.1 [p.2]) s

def State.readKeys (s : State) (ks : List Nat) : List Byte := ks.map (readByte s.mem)

/-! ### Requests -/

/-- The word ai of a request, 0 where it is missing; and the 64-bit value whose low word is ai. -/
def SysReq.arg (q : SysReq) (i : Nat) : Nat := (q.args.getD i 0).toNat
def SysReq.arg64 (q : SysReq) (i : Nat) : Nat := q.arg i + 2 ^ 32 * q.arg (i + 1)

/-- The calls of R332. -/
def knownCall (n : Nat) : Bool :=
  [0x01, 0x02, 0x03, 0x10, 0x11, 0x12, 0x13, 0x14, 0x15, 0x20, 0x21, 0x22, 0x23, 0x24, 0x30, 0x31, 0x40, 0x41, 0x42, 0x43].contains n

/-- The result of a request reaches its lanes by RESUME.ret. -/
def State.answer (s : State) (q : SysReq) (x : Int) : State := s.retLanes q.gid q.lanes (BitVec.ofInt 64 x)

/-- Pages of a context are being moved. -/
def State.moves (s : State) (ctx : Nat) : Bool := s.moving.any fun m => m.ctx == ctx

/-- The service kernel takes up a request that no device serves: its group is resident and not stopped, and none of its
context's pages is being moved. An unknown call is answered by whichever step takes it up. -/
def callStep (num : Nat) (s : State) (k : SysReq → Group → Context → State → Option State) : Out State :=
  match s.ev with
  | .nat r =>
    match s.sys[r]? with
    | none => .next s
    | some q =>
      match s.group? q.gid with
      | none => .next s
      | some g =>
        if (s.ctxD g.ctx).stop = .stopped || q.dev.isSome || s.moves g.ctx then .next s
        else if !knownCall q.num.toNat then .next (s.answer q (-1))
        else if q.num.toNat = num then .next ((k q g (s.ctxD g.ctx) s).getD s)
        else .next s
  | _ => .next s

/-! ### Memory (R332, R125) -/

/-- The leaves of a page table and the pages that they map, by the entries that memory lists (R124-R126). -/
def leavesOf (m : Memory) : Nat → Nat → List (Nat × Nat × W64)
  | lvl, table =>
    let n := if lvl = 3 then 2 ^ 18 else 512
    let idx := ((m.filter fun c => decide (table ≤ c.1) && decide (c.1 < table + 8 * n)).map fun c => (c.1 - table) / 8).eraseDups
    idx.flatMap fun i =>
      let e := BitVec.ofNat 64 (readLE m (table + 8 * i) 8)
      if !pteV e then []
      else if pteLeaf e then (if lvl = 0 ∧ ptePS e = 1 then [(ptePfn e / 65536 * 65536, 65536, e)] else [(ptePfn e, 2 ^ (12 + 9 * lvl), e)])
      else
        match lvl with
        | 0 => []
        | l + 1 => leavesOf m l (ptePfn e)

/-- The frames that the tables below a table occupy, with their sizes. -/
def tablesOf (m : Memory) : Nat → Nat → List (Nat × Nat)
  | lvl, table =>
    let n := if lvl = 3 then 2 ^ 18 else 512
    (table, 8 * n) ::
    match lvl with
    | 0 => []
    | l + 1 =>
      (((m.filter fun c => decide (table ≤ c.1) && decide (c.1 < table + 8 * n)).map fun c => (c.1 - table) / 8).eraseDups).flatMap fun i =>
        let e := BitVec.ofNat 64 (readLE m (table + 8 * i) 8)
        if pteV e && !pteLeaf e then tablesOf m l (ptePfn e) else []

/-- What the kernel has in use: the tables of the contexts, the pages that they map, and both places of pages that move. -/
def State.usedFrames (s : State) : List (Nat × Nat) :=
  (s.contexts.flatMap fun c => tablesOf s.mem 3 (ptePfn c.croot) ++ (leavesOf s.mem 3 (ptePfn c.croot)).map fun p => (p.1, p.2.1)) ++
  s.moving.flatMap fun x => [(x.old, x.size), (ptePfn x.leaf / x.size * x.size, x.size)]

/-- A page of a tier that the kernel chooses, freely. -/
def freePage (tick pos tier : Nat) : Nat :=
  if tier = 1 then 0x10000000000 + Config.choose tick pos % 0x20000000 * 4096 else Config.choose tick pos % 0xC000000 * 4096

/-- A frame of a size in a tier that is not in use: the one chosen, or the first one beyond all that are; none when the tier has no
room there. -/
def State.freeFrame (s : State) (pos tier size : Nat) : Option Nat :=
  let us := s.usedFrames
  let free := fun (p : Nat) => us.all fun u => decide (p + size ≤ u.1) || decide (u.1 + u.2 ≤ p)
  let p := freePage s.tick pos tier / size * size
  let base := if tier = 1 then 0x10000000000 else 0
  let end_ := if tier = 1 then 0x30000000000 else 0xC000000000
  let top := (us.foldl (fun m u => if base ≤ u.1 ∧ u.1 < end_ then max m (u.1 + u.2) else m) base + size - 1) / size * size
  if free p && decide (base ≤ p) then some p else if free top && decide (top + size ≤ end_) then some top else none

/-- The leaf of a page that MEMMAP's flags describe. -/
def leafOf (flags : Nat) (prot : Bool) (pa : Nat) : Nat :=
  0x93 + 0x20 * bit (flags.testBit 0) + 0x40 * bit (flags.testBit 1) + pa + 2 ^ 54 * bit (flags.testBit 2) +
  2 ^ 56 * bit (!flags.testBit 3) + 2 ^ 57 * bit prot

/-- The address of the level-0 entry of va, with tables made where there are none: none below a large page, or without a frame for
a table. -/
def State.tableFor (s : State) (va pos : Nat) : Nat → Nat → Option (Nat × State)
  | 0, table => some (table + 8 * (va / 4096 % 512), s)
  | l + 1, table =>
    let ea := table + 8 * (if l + 1 = 3 then bitsOf va 56 39 else va / 2 ^ (12 + 9 * (l + 1)) % 512)
    let e := BitVec.ofNat 64 (readLE s.mem ea 8)
    if pteV e then (if pteLeaf e then none else State.tableFor s va pos l (ptePfn e))
    else
      match s.freeFrame (pos + l + 1) 0 4096 with
      | none => none
      | some t => State.tableFor { s with mem := writeBytes (zeroBytes s.mem t 4096) ea (toLE 8 (t + 1)) } va pos l t

/-- A page mapped at va. -/
def State.mapPage (s : State) (c : Context) (flags va pos : Nat) : Option State :=
  (s.tableFor va pos 3 (ptePfn c.croot)).bind fun (ea, s) =>
    (s.freeFrame pos (bit (flags.testBit 2)) 4096).map fun pa =>
      { s with mem := writeBytes s.mem ea (toLE 8 (leafOf flags (c.cflags.getLsbD 0) pa)) }

/-- Pages mapped from va upwards. -/
def State.mapPages (s : State) (c : Context) (flags va n : Nat) : Option State :=
  (List.range n).foldl (fun x i => x.bind fun (s : State) => s.mapPage c flags (va + 4096 * i) (100 + 4 * i)) (some s)

def State.unmapped (s : State) (ctx va : Nat) : Bool :=
  match s.walk ctx va with
  | .fail 0 => !(s.moving.any fun m => m.ctx == ctx && decide (m.va ≤ va) && decide (va < m.va + m.size))
  | _ => false

def execMemmap (s : State) : Out State :=
  callStep 0x01 s fun q _ c s =>
    let n := (q.arg64 0 + 4095) / 4096
    let va := Config.choose s.tick 99 % 2 ^ 45 * 4096
    if q.arg64 0 = 0 ∨ q.arg 2 ≥ 16 then some (s.answer q (-2))
    else if va < 2 ^ 20 ∨ va + 4096 * n > 2 ^ 57 ∨ !((List.range n).all fun i => s.unmapped c.ctx (va + 4096 * i)) then some (s.answer q (-4))
    else
      match s.mapPages c (q.arg 2) va n with
      | some t => some (t.answer q va)
      | none => some (s.answer q (-4))

/-- The leaves that cover a range, from its start; none where an address is not mapped or a leaf reaches beyond. -/
def State.leaves (s : State) (ctx last : Nat) : Nat → Nat → Option (List (Nat × Nat × W64 × Nat))
  | 0, _ => some []
  | n + 1, va =>
    if va ≥ last then some []
    else
      match s.walk ctx va with
      | .leaf size e at_ => if va % size ≠ 0 ∨ va + size > last then none else (State.leaves s ctx last n (va + size)).map ((va, size, e, at_) :: ·)
      | .fail _ => none

/-- The addresses of the entries of a leaf: sixteen for a 64-KiB page (R125). -/
def leafEntries (size at_ : Nat) : List Nat := if size = 65536 then (List.range 16).map fun i => at_ / 128 * 128 + 8 * i else [at_]

/-- The cached translations of a range leave the TLBs, with their merge entries (R129, R326). -/
def State.invalidate (s : State) (ctx va n : Nat) : State :=
  { s with tlb := s.tlb.filter fun (t : TlbEnt) => !(t.ctx == ctx && decide (t.va < va + n) && decide (va < t.va + t.size)) }.dropMerges
    fun m => m.ctx == ctx && decide (va ≤ m.page * 4096) && decide (m.page * 4096 < va + n)

/-- Pages of a range unmapped; those that are not mapped stay so, and a large page that reaches beyond stays. -/
def State.unmapRange (s : State) (ctx va n : Nat) : State :=
  let s := (s.finishLdfs ctx).placeAll
  let s := (List.range ((n + 4095) / 4096)).foldl (fun (s : State) i =>
    match s.walk ctx (va + 4096 * i) with
    | .leaf size _ at_ =>
      if (va + 4096 * i) % size = 0 ∧ 4096 * i + size ≤ (n + 4095) / 4096 * 4096 then
        { s with mem := (leafEntries size at_).foldl (fun m ea => writeBytes m ea (toLE 8 0)) s.mem }
      else s
    | .fail _ => s) s
  s.invalidate ctx va n

def execMemunmap (s : State) : Out State :=
  callStep 0x02 s fun q _ c s =>
    let va := q.arg64 0
    if va % 4096 ≠ 0 ∨ q.arg64 2 = 0 ∨ va + q.arg64 2 > 2 ^ 57 then some (s.answer q (-2))
    else some ((s.unmapRange c.ctx va (q.arg64 2)).answer q 0)

/-! ### Pages that move (R135) -/

/-- A mapping is revoked before its page is copied: the entries go, and every access by them has its place. -/
def State.revoke (s : State) (m : Move) : State :=
  let s := (s.finishLdfs m.ctx).placeAll
  let s : State := { s with mem := (leafEntries m.size m.at_).foldl (fun x ea => writeBytes x ea (toLE 8 0)) s.mem, moving := s.moving ++ [m] }
  s.invalidate m.ctx m.va m.size

/-- A key of a page as it is after a move. -/
def Move.key (m : Move) (k : Nat) : Nat := if m.old ≤ k ∧ k < m.old + m.size then k - m.old + ptePfn m.leaf / m.size * m.size else k

/-- A leaf with another page, of a tier. -/
def withPage (e : W64) (pa tier : Nat) : W64 := (e &&& 0xFF30000000000FFF) ||| BitVec.ofNat 64 (pa + tier * 2 ^ 54)

/-- A page that holds uncorrectable data cannot be copied: it stays where it is (R425). -/
def State.moveLeaf (s : State) (m : Move) : W64 :=
  if (s.poisoned m.old m.size).isSome then withPage m.leaf m.old ((tierOf m.old).getD 0) else m.leaf

/-- The page is copied, with all that is known of its bytes, and mapped again; what waited for it goes on. -/
def State.finishMove (s : State) (m : Move) : State :=
  let leaf := s.moveLeaf m
  let new := ptePfn leaf / m.size * m.size
  let free := fun (k : Nat) => !(decide (new ≤ k) && decide (k < new + m.size))
  let x := if new = m.old then s.mem else writeBytes (zeroBytes s.mem new m.size) new (readBytes s.mem m.old m.size)
  let s : State := if new = m.old then s else
    { s with poison := s.poison.filter free, waiters := s.waiters.map fun (w : Waiter) => { w with key := m.key w.key }
             streams := { s.streams with hist := (s.streams.hist.filter fun v => free v.addr).map fun (v : SVal) => { v with addr := m.key v.addr }
                                         tags := (s.streams.tags.filter fun t => free t.1).map fun t => (m.key t.1, t.2) } }
  let s : State := { s with mem := (leafEntries m.size m.at_).foldl (fun x ea => writeBytes x ea (toLE 8 leaf.toNat)) x, moving := s.moving.filter (· != m) }
  s.dropMerges fun e => e.ctx == m.ctx && decide (m.va ≤ e.page * 4096) && decide (e.page * 4096 < m.va + m.size)

def State.finishMoves (s : State) (ctx : Nat) : State := (s.moving.filter fun m => m.ctx == ctx).foldl State.finishMove s

/-- The service kernel begins to move a page, between tiers or within one: freely chosen. -/
def State.migrate (s : State) (ctx va pos : Nat) : State :=
  match s.walk ctx va with
  | .fail _ => s
  | .leaf size e at_ =>
    let old := ptePfn e / size * size
    let tier := Config.choose s.tick (pos + 1) % 2
    match s.freeFrame pos tier size with
    | none => s
    | some new =>
      if tierOf old = some 0 ∨ tierOf old = some 1 then
        s.revoke { ctx := ctx, va := va / size * size, size := size, at_ := at_, old := old, leaf := withPage e new tier }
      else s

/-- A leaf under new flags; where the tier changes, its data moves to a page of that tier, if there is one. -/
def State.reprotect (s : State) (c : Context) (flags : Nat) (l : Nat × Nat × W64 × Nat) (pos : Nat) : State :=
  let (va, size, e, at_) := l
  let old := ptePfn e / size * size
  let x := fun (pa : Nat) (flags : Nat) => (BitVec.ofNat 64 (leafOf flags (c.cflags.getLsbD 0) pa)) ||| (e &&& 0xFC00000000000C00)
  match if bit (flags.testBit 2) ≠ pteTier e then s.freeFrame pos (bit (flags.testBit 2)) size else none with
  | some pa => s.revoke { ctx := c.ctx, va := va, size := size, at_ := at_, old := old, leaf := x pa flags }
  | none =>
    let y := withPage (x old flags) old (pteTier e)
    { s with mem := (leafEntries size at_).foldl (fun m ea => writeBytes m ea (toLE 8 y.toNat)) s.mem }

def execMemprot (s : State) : Out State :=
  callStep 0x03 s fun q _ c s =>
    let va := q.arg64 0
    let n := q.arg64 2
    let last := va + (n + 4095) / 4096 * 4096
    if va % 4096 ≠ 0 ∨ n = 0 ∨ last > 2 ^ 57 ∨ q.arg 4 ≥ 16 then some (s.answer q (-2))
    else
      match s.leaves c.ctx last ((n + 4095) / 4096) va with
      | none => some (s.answer q (-7))
      | some ls =>
        let s := (s.finishLdfs c.ctx).placeAll
        let s := (ls.mapIdx fun i l => (i, l)).foldl (fun s p => s.reprotect c (q.arg 4) p.2 (100 + p.1)) s
        some ((s.invalidate c.ctx va n).answer q 0)

/-! ### Files (assumption 13) -/

/-- An NVSUB or NVCOMP record (R388) of a command: its link, submission queue and opcode are free, and the same in both. -/
def State.traceNvme (s : State) (ctx kind n sct sc : Nat) : State :=
  let pick := fun (i k : Nat) => Config.choose 0 (2000000 + 4 * n + i) % k
  s.emitTo (s.tenantNum ctx) (0x9000 + pick 0 4) kind 0
    (toLE 2 ctx ++ toLE 2 (pick 1 65536) ++ toLE 2 (n % 65536) ++ toLE 1 (pick 2 256) ++ toLE 1 sct ++ toLE 2 sc ++
      (if kind = 0x80 then toLE 6 (pick 3 (2 ^ 48)) else toLE 6 0)) 0 none

/-- What a command tells the device: its number, the call, the file by the command that opened it, the file offset, the length and
the data (assumption 13). -/
def SysReq.command (q : SysReq) (n file : Nat) (data : List Byte) : List Byte :=
  toLE 4 n ++ toLE 1 q.num.toNat ++ toLE 4 file ++ toLE 8 (q.arg64 4) ++ toLE 4 (q.arg 3) ++ data

/-- A request goes to a storage device. -/
def State.submit (s : State) (q : SysReq) (ctx : Nat) (file : Nat := 0) (data : List Byte := []) : State :=
  let (n, s) := s.fresh
  let s := { s with
    sys := s.sys.map fun (x : SysReq) => if x.gid == q.gid && x.lanes == q.lanes then { x with dev := some n } else x
    mod := { s.mod with nvme := s.mod.nvme ++ [(n, ctx)], replies := s.mod.replies ++ [(8, q.command n file data)] } }
  s.traceNvme ctx 0x80 n 0 0

def Context.desc? (c : Context) (n : Nat) : Option Desc := c.descs.find? fun d => d.num == n

/-- A descriptor number not in use, freely chosen. -/
def Context.freshDesc (c : Context) (tick : Nat) : Nat :=
  let n := Config.choose tick 98 % 2 ^ 31
  if (c.desc? n).isSome then ((List.range (c.descs.length + 1)).find? fun i => (c.desc? i).isNone).getD 0 else n

def State.addDesc (s : State) (c : Context) (d : Desc) : State := s.putCtx { c with descs := c.descs ++ [d] }

/-- The bytes of a path, up to its zero byte: a bound on its length is the kernel's. -/
def State.pathBytes (s : State) (ctx : Nat) : Nat → Nat → Option (List Byte)
  | 0, _ => some []
  | n + 1, va =>
    match (s.translate ctx true .read va).1 with
    | .ok k _ => if readByte s.mem k == 0 then some [] else (State.pathBytes s ctx n (va + 1)).map (readByte s.mem k :: ·)
    | _ => none

def execFopen (s : State) : Out State :=
  callStep 0x10 s fun q _ c s =>
    if q.arg 2 ≥ 4 then some (s.answer q (-2))
    else
      match s.pathBytes c.ctx 4096 (q.arg64 0) with
      | none => some (s.answer q (-7))
      | some p => some (s.submit q c.ctx 0 (toLE 1 (q.arg 2) ++ p))

/-- A file descriptor of a request. -/
def Context.file? (c : Context) (q : SysReq) : Option Desc := (c.desc? (q.arg 0)).filter fun d => !d.socket

def execFclose (s : State) : Out State :=
  callStep 0x11 s fun q _ c s =>
    match c.file? q with
    | none => some (s.answer q (-6))
    | some d => some ((s.putCtx { c with descs := c.descs.filter fun x => x.num != d.num }).answer q 0)

/-- A transfer between a file and a buffer, checked and submitted. -/
def transfer (num : Nat) (acc : Acc) (len : SysReq → Nat) (s : State) : Out State :=
  callStep num s fun q _ c s =>
    match c.file? q with
    | none => some (s.answer q (-6))
    | some d =>
      if num = 0x13 ∧ !d.write then some (s.answer q (-6))
      else
        match s.userKeys c.ctx acc (q.arg64 1) (len q) with
        | none => some (s.answer q (-7))
        | some (ks, _) => some (s.submit q c.ctx d.file (if num = 0x13 then s.readKeys ks else []))

def execFread (s : State) : Out State := transfer 0x12 .write (fun q => q.arg 3) s
def execFwrite (s : State) : Out State := transfer 0x13 .read (fun q => q.arg 3) s
def execFinfo (s : State) : Out State := transfer 0x14 .write (fun _ => 64) s
def execFsync (s : State) : Out State := transfer 0x15 .read (fun _ => 0) s

/-- What a device's completion does for the request that waits for it: the data reaches the buffer before the
result is returned (R333). -/
def State.deviceDone (s : State) (q : SysReq) (g : Group) (ok : Bool) (d : List Byte) : State :=
  let c := s.ctxD g.ctx
  let put := fun (bs : List Byte) (x : Int) =>
    match s.userKeys g.ctx .write (q.arg64 1) bs.length with
    | some (ks, s) => (s.storeKeys g.ridge ks bs).answer q x
    | none => s.answer q (-7)
  if !ok then s.answer q (-5)
  else
    match q.num.toNat with
    | 0x10 =>
      if d.isEmpty ∧ q.arg 2 < 2 then s.answer q (-3)
      else
        let n := c.freshDesc s.tick
        (s.addDesc c { num := n, socket := false, write := (q.arg 2).testBit 0, file := q.dev.getD 0 }).answer q n
    | 0x12 => put (d.take (q.arg 3)) (d.take (q.arg 3)).length
    | 0x13 => s.answer q (q.arg 3)
    | 0x14 => put (d.take 64 ++ List.replicate (64 - d.length) 0) 0
    | _ => s.answer q 0

/-- A completion for a stopped context is held for it (R41). -/
def State.holdDevice (s : State) (x : NvmeDone) : State :=
  if s.mod.nvmeHeld.contains x then s else { s with mod := { s.mod with nvmeHeld := s.mod.nvmeHeld ++ [x] } }

def execNvmeCompletion (s : State) : Out State :=
  match s.ev with
  | .nvme x =>
    match s.mod.nvme.find? fun p => p.1 == x.cmd with
    | none => .next s
    | some (n, ctx) =>
      let done := fun (s : State) => ({ s with mod := { s.mod with nvme := s.mod.nvme.filter fun p => p.1 != n, nvmeHeld := s.mod.nvmeHeld.filter fun y => y.cmd != n } } : State).traceNvme ctx 0x81 n (x.sct % 8) (x.sc % 65536)
      match s.sys.find? fun q => q.dev == some n with
      | none => if s.saved.any fun t => t.groups.any fun g => g.calls.any fun q => q.dev == some n then .next (s.holdDevice x) else .next (done s)
      | some q =>
        match s.group? q.gid with
        | none => .next (done s)
        | some g =>
          if (s.ctxD g.ctx).stop = .stopped then .next (s.holdDevice x)
          else .next (((done s).finishMoves g.ctx).deviceDone q g (x.sct == 0 && x.sc == 0) x.data)
  | _ => .next s

/-! ### Sockets (assumption 13) -/

def Context.sock? (c : Context) (q : SysReq) : Option Desc := (c.desc? (q.arg 0)).filter (·.socket)

def execSkopen (s : State) : Out State :=
  callStep 0x20 s fun q _ c s =>
    if q.arg 0 > 1 ∨ q.arg 1 ≥ 65536 then some (s.answer q (-2))
    else
      let n := c.freshDesc s.tick
      some ((s.addDesc c { num := n, socket := true, write := true, kind := q.arg 0, port := q.arg 1 }).answer q n)

def execSkconn (s : State) : Out State :=
  callStep 0x21 s fun q _ c s =>
    match c.sock? q with
    | none => some (s.answer q (-6))
    | some d =>
      if q.arg 3 ≥ 65536 then some (s.answer q (-2))
      else
        match s.userKeys c.ctx .read (q.arg64 1) 16 with
        | none => some (s.answer q (-7))
        | some (ks, s) =>
          -- a TCP peer may not answer
          if d.kind = 1 ∧ Config.choose s.tick 97 % 2 = 1 then some (s.answer q (-3))
          else
            let peer := (leBytes (s.readKeys ks).reverse, q.arg 3)
            some ((s.putCtx { s.ctxD c.ctx with descs := c.descs.map fun (x : Desc) => if x.num == d.num then { x with peer := some peer } else x }).answer q 0)

def execSksend (s : State) : Out State :=
  callStep 0x22 s fun q _ c s =>
    match c.sock? q with
    | none => some (s.answer q (-6))
    | some d =>
      if d.peer.isNone then some (s.answer q (-3))
      else
        match s.userKeys c.ctx .read (q.arg64 1) (q.arg 3) with
        | none => some (s.answer q (-7))
        | some (ks, s) =>
          -- what the transport takes at once
          let n := Config.choose s.tick 96 % (q.arg 3 + 1)
          if n = 0 ∧ q.arg 3 ≠ 0 then some (s.answer q (-8))
          else some (({ s with mod := { s.mod with replies := s.mod.replies ++ [(3, (s.readKeys ks).take n)] } } : State).answer q n)

def execSkrecv (s : State) : Out State :=
  callStep 0x23 s fun q g c s =>
    match c.sock? q with
    | none => some (s.answer q (-6))
    | some _ =>
      if (s.userKeys c.ctx .write (q.arg64 1) (q.arg 3)).isNone then some (s.answer q (-7))
      else
        -- the frames that the transport has matched to this descriptor, if any
        let k := Config.choose s.tick 95 % (s.net.frames.length + 1)
        match s.net.frames[k]? with
        | none => some (s.answer q (-8))
        | some f =>
          if f.kind ≠ .socket then some (s.answer q (-8))
          else
            let bs := f.bytes.take (q.arg 3)
            match s.userKeys c.ctx .write (q.arg64 1) bs.length with
            | none => some (s.answer q (-7))
            | some (ks, s) =>
              let s := { s with net := { s.net with frames := s.net.frames.eraseIdx k } }
              some ((s.storeKeys g.ridge ks bs).answer q bs.length)

def execSkclose (s : State) : Out State :=
  callStep 0x24 s fun q _ c s =>
    match c.sock? q with
    | none => some (s.answer q (-6))
    | some d => some ((s.putCtx { c with descs := c.descs.filter fun x => x.num != d.num }).answer q 0)

/-- Received traffic that is not Pyxlink goes to the service kernel (R351). -/
def execEthernetOtherFrame (s : State) : Out State :=
  match s.ev with
  | .frame f => .next { s with net := { s.net with frames := s.net.frames ++ [f] } }
  | _ => .next s

/-! ### Time -/

/-- Module time less the UTC offset beyond 37 s (R332). -/
def State.utcTime (s : State) : W64 := BitVec.ofInt 64 ((s.time : Int) - 16 * 1000000000 * ((s.mod.utc.getD 37 : Nat) - 37 : Int))

def execTimeget (s : State) : Out State :=
  callStep 0x30 s fun q _ _ s =>
    match q.arg 0 with
    | 0 => some (s.retLanes q.gid q.lanes (BitVec.ofNat 64 s.time))
    | 1 => some (s.retLanes q.gid q.lanes s.utcTime)
    | _ => some (s.answer q (-2))

/-- A TIMEWAIT's time has passed. -/
def State.waitOver (s : State) (q : SysReq) : Bool := decide (s.time ≥ q.since + 16 * q.arg64 0)

def execTimewait (s : State) : Out State :=
  callStep 0x31 s fun q _ _ s => if s.waitOver q then some (s.answer q 0) else none

/-- A TIME record, to every tenant that admits it (R387, R388). -/
def State.traceTime (s : State) (event : Nat) (x : Int) : State :=
  s.trc.tenants.foldl (fun s t => s.emitTo t.num 0xB000 0x04 0 (toLE 1 event ++ toLE 7 0 ++ toLE 8 (wrapTo 64 x)) 0 none) s

/-- The epoch of module time, in ns from that of IEEE 1588 (R381). -/
def epoch : Nat := 1704067200000000000

/-- The servo locks to a grandmaster (R382): the first lock steps module time forward, never back. -/
def execGrandmasterLock (s : State) : Out State :=
  match s.ev with
  | .lock t utc =>
    let off : Int := ((t : Int) - epoch) * 16 - s.time
    let step := !s.mod.lockedOnce && decide (0 < off)
    let s := { s with time := if step then (t - epoch) * 16 else s.time, mod := { s.mod with locked := true, lockedOnce := true, utc := utc } }
    let s := if step then s.traceTime 3 off else s
    .next (s.traceTime 1 (if step then 0 else off))
  | _ => .next s

/-- The master is lost: module time continues in holdover (R382). -/
def execGrandmasterLoss (s : State) : Out State :=
  if s.mod.locked then .next (({ s with mod := { s.mod with locked := false } } : State).traceTime 2 0) else .next s

/-! ### The context's objects -/

def execEvring (s : State) : Out State :=
  callStep 0x40 s fun q _ c s =>
    let va := q.arg64 0
    if va % 16 ≠ 0 then some (s.answer q (-2))
    else
      match s.userKeys c.ctx .read va 16 with
      | none => some (s.answer q (-7))
      | some (ks, s) =>
        let h := Hdr.of (leBytes (s.readKeys ks))
        if !h.ok || h.logs != 6 then some (s.answer q (-2))
        else some ((s.putCtx { s.ctxD c.ctx with evring := BitVec.ofNat 64 va }).answer q 0)

/-- A window that WINSET describes (R115). -/
def winOf (base size attrs scoff : Nat) : BitVec 128 :=
  BitVec.ofNat 128 (base + size * 2 ^ 32 + scoff * 2 ^ 64 + bitsOf attrs 31 16 * 2 ^ 84 + bitsOf attrs 5 4 * 2 ^ 100 + bitsOf attrs 3 0 * 2 ^ 102)

def execWinset (s : State) : Out State :=
  callStep 0x41 s fun q g _ s =>
    match s.teamOf g with
    | none => none
    | some t =>
      let n := q.arg 0
      let w := winOf (q.arg 1) (q.arg 2) (q.arg 3) (q.arg 4)
      if n = 0 ∨ n > 7 ∨ q.arg 1 ≥ 2 ^ 19 ∨ q.arg 2 ≥ 2 ^ 19 ∨ bitsOf (q.arg 3) 15 6 ≠ 0 ∨ q.arg 4 ≥ 2 ^ 19 ∨ !fmtOk (bitsOf (q.arg 3) 3 0) ∨
          bitsOf (q.arg 3) 5 4 = 3 ∨ !t.winOk w then some (s.answer q (-2))
      else some ((s.setTeam { t with windows := if h : n < 8 then t.windows.set n w h else t.windows }).answer q 0)

/-- A group of a context in state 13, by its group number and core. -/
def State.heldGroup (s : State) (ctx gnum core : Nat) : Option (Group × EvRec) :=
  (s.groups.find? fun g => g.ctx == ctx && g.gnum == gnum && g.core == core).bind fun g =>
    match g.park, g.halted with
    | .held r, none => some (g, r)
    | _, _ => none

/-- GRPCTL's actions (R333): replay, skip with zeros pushed, end. -/
def State.grpctl (s : State) (g : Group) (r : EvRec) (action : Nat) : State :=
  match action with
  | 0 => s.replayHeld g r g.mask
  | 1 => s.skipHeld { g with lanes := g.lanes.map fun (l : Lane) => { l with stg := Vector.replicate 4 0 } } g.mask
  | _ => s.endGroup g

def execGrpctl (s : State) : Out State :=
  callStep 0x42 s fun q g _ s =>
    match s.heldGroup g.ctx (q.arg 0) (q.arg 1), decide (q.arg 2 ≤ 2) with
    | some (h, r), true => some ((s.grpctl h r (q.arg 2)).answer q 0)
    | _, _ => some (s.answer q (-2))

end Sys2Proof.Machine
end

