-- ==== Sys2Proof/Machine/Network.lean ====
section
/-! DEFINITION. The network engine as sender (R351-R358, R367-R379): the instructions of group 0x9, connections,
transmission and retransmission, and the ends of operations. Other modules lie outside the part (assumption 17). -/

namespace Sys2Proof.Machine

/-! ### Times, in 1/16 ns -/

def us : Nat := 16000

/-! ### Packets (R352, R353) -/

/-- A packet with every field zero. -/
def NetPkt.blank (kind : PktKind) (port : Nat) : NetPkt :=
  { port := port, kind := kind, retrans := false, sig := false, done := false, ce := false, path := 0, optTy := 0, optOp := 0, dconn := 0, msn := 0
    pidx := 0, pcnt := 1, win := 0, status := 0, gen := 0, key := 0, plen := 0, roff := 0, ext0 := 0, ext1 := 0, payload := [] }

def fieldBE (b : List Byte) (off n : Nat) : Nat := leBytes ((b.drop off).take n).reverse

/-- The code of a packet kind (R353). -/
def pktCode : PktKind → Nat
  | .put => 1 | .puti => 2 | .add => 3 | .getreq => 4 | .getrsp => 5 | .atomreq => 6 | .atomrsp => 7 | .ack => 8 | .nak => 9 | .busy => 10
  | .openReq => 11 | .openack => 12

def pktKindOf (code : Nat) : Option PktKind :=
  ([.put, .puti, .add, .getreq, .getrsp, .atomreq, .atomrsp, .ack, .nak, .busy, .openReq, .openack] : List PktKind)[code - 1]?.filter fun k => pktCode k == code

/-- The length of the extension of a kind (R353). -/
def extLen : PktKind → Nat
  | .puti | .getreq | .atomrsp | .openack => 8
  | .atomreq | .openReq => 16
  | _ => 0

/-- A packet as the payload of its datagram (R352, R353). -/
def NetPkt.bytes (p : NetPkt) : List Byte :=
  toBE 1 (16 + pktCode p.kind) ++ toBE 1 (bit p.retrans + 2 * bit p.sig + 4 * bit p.done + 8 * bit p.ce) ++ toBE 1 p.path ++ toBE 1 (p.optTy + 16 * p.optOp) ++
  toBE 4 p.dconn ++ toBE 4 p.msn ++ toBE 2 p.pidx ++ toBE 2 p.pcnt ++ toBE 1 p.win ++ toBE 1 p.status ++ toBE 2 p.gen ++ toBE 2 p.key ++ toBE 2 p.plen ++
  toBE 8 p.roff ++ (toBE 8 p.ext0 ++ toBE 8 p.ext1).take (extLen p.kind) ++ p.payload

/-- The packet of a payload, as it arrives at a port: none for another version or kind, or where FLAGS or PATH has a bit that
is marked zero (R353). CE is the mark that it arrives with. -/
def pktOf (port addr src : Nat) (ce : Bool) (b : List Byte) : Option NetPkt :=
  (pktKindOf (fieldBE b 0 1 % 16)).bind fun k =>
    let n := extLen k
    if b.length < 32 + n || fieldBE b 0 1 / 16 != 1 || decide (16 ≤ fieldBE b 1 1) || decide (16 ≤ fieldBE b 2 1) then none
    else
      some { NetPkt.blank k port with
        retrans := (fieldBE b 1 1).testBit 0, sig := (fieldBE b 1 1).testBit 1, done := (fieldBE b 1 1).testBit 2, ce := ce, path := fieldBE b 2 1
        optTy := fieldBE b 3 1 % 16, optOp := fieldBE b 3 1 / 16, dconn := fieldBE b 4 4, msn := fieldBE b 8 4, pidx := fieldBE b 12 2
        pcnt := fieldBE b 14 2, win := fieldBE b 16 1, status := fieldBE b 17 1, gen := fieldBE b 18 2, key := fieldBE b 20 2, plen := fieldBE b 22 2
        roff := fieldBE b 24 8, ext0 := if 8 ≤ n then fieldBE b 32 8 else 0, ext1 := if n = 16 then fieldBE b 40 8 else 0, payload := b.drop (32 + n)
        srcAddr := addr, srcPort := src }

/-- The port of a loopback connection, which passes through none (R358). -/
def loopPort : Nat := 16

/-- The UDP destination port of Pyxlink packets, unless a table's entry gives another (R351, R356). -/
def pyxPort : Nat := 49817

/-- A packet leaves to an address and UDP port; its source port is the connection's base plus its path (R351). -/
def State.postTo (s : State) (addr port base : Nat) (p : NetPkt) : State :=
  if p.port = loopPort then { s with net := { s.net with loop := s.net.loop ++ [p] } }
  else { s with net := { s.net with out := s.net.out ++ [{ addr := addr, port := port, src := base + p.path, pkt := p }] } }

/-- A packet leaves towards a rank of a context's process group. -/
def State.post (s : State) (ctx rank base : Nat) (p : NetPkt) : State :=
  let to_ := (((s.ctx? ctx).bind fun c => c.members[rank]?).map fun m => (m.addr, m.port)).getD (0, pyxPort)
  s.postTo to_.1 to_.2 base p

/-- The port of a path of a connection: freely chosen, once for all. -/
def State.portOf (s : State) (ctx rank path : Nat) : Nat :=
  if ((s.ctx? ctx).map (·.rank)).getD 0 = rank then loopPort else Config.choose 0 (1000000 + (ctx * 65536 + rank) * 16 + path) % 16

/-- The source of a transmit-side record: the port of a path (R384); of a loopback, any, fixed by the operation. -/
def State.netSource (s : State) (o : NetOp) (path : Nat) : Nat :=
  let port := s.portOf o.ctx o.rank path
  0x7000 + (if port = loopPort then o.op % 16 else port)

/-- A trace record of the transmit side (R386, R387), at the port of the path that the operation begins on. -/
def State.traceNet (s : State) (o : NetOp) (kind x path : Nat) : State :=
  s.emitTo (s.tenantNum o.ctx) (s.netSource o path) kind o.trTag
    (formG o.ctx o.rcd.gnum o.rcd.root (o.rcd.flags % 8) o.rcd.pc.toNat x (o.rcd.seq + o.rank % 2 ^ 16 * 2 ^ 16)) o.core none

/-- A response to a GETREQ. -/
def NetOp.isRsp (o : NetOp) : Bool := o.kind == .getrsp

/-! ### Connections (R358) -/

def State.connOf (s : State) (ctx rank : Nat) : Option Conn := s.net.conns.find? fun c => c.ctx == ctx && c.rank == rank

def State.conn? (s : State) (n : Nat) : Option Conn := s.net.conns.find? fun c => c.num == n

def State.setConn (s : State) (c : Conn) : State :=
  { s with net := { s.net with conns := s.net.conns.map fun x => if x.num == c.num then c else x } }

/-- OPEN: the sender's identifier stands in DCONN; the extension names the module, both contexts and the paths. -/
def State.sendOpen (s : State) (c : Conn) (retrans : Bool) : State :=
  let m := ((s.ctx? c.ctx).bind fun x => x.members[c.rank]?)
  let rctx := (m.map (·.ctx)).getD c.ctx
  s.post c.ctx c.rank c.udpBase { NetPkt.blank .openReq (s.portOf c.ctx c.rank 0) with
    dconn := c.num, retrans := retrans, ext0 := s.mod.modid.toNat, ext1 := c.ctx * 2 ^ 48 + rctx * 2 ^ 32 + c.paths * 2 ^ 24 }

/-- The connection towards a rank, opened at the first operation of a col's ridge, and again after an OPEN that nobody
answered (R355). -/
def State.openConn (s : State) (ctx rank home : Nat) : Nat × State :=
  match s.connOf ctx rank with
  | some c =>
    if c.peer.isNone && decide (8 ≤ c.tx.attempts) && s.net.ops.all fun o => o.conn != c.num || o.ended.isSome || o.isRsp then
      let c := { c with tx := { at_ := s.time }, lastBusy := none }
      (c.num, (s.setConn c).sendOpen c false)
    else (c.num, s)
  | none =>
    let (n, s) := s.fresh
    let paths := (((s.ctx? ctx).bind fun x => x.members[rank]?).map (·.paths)).getD 1
    let c : Conn := { num := n, ctx := ctx, rank := rank, tx := { at_ := s.time }, paths := max 1 paths, home := home
                      udpBase := Config.choose s.tick 52 % 65521 }
    (n, ({ s with net := { s.net with conns := s.net.conns ++ [c] } }).sendOpen c false)

/-! ### Operations -/

def State.setOp (s : State) (o : NetOp) : State :=
  { s with net := { s.net with ops := s.net.ops.map fun x => if x.op == o.op then o else x } }

/-- Some result of an operation is outstanding at a group or col; under late, one that it has not produced. -/
def State.awaits (s : State) (op : Nat) (late : Bool) : Bool :=
  let has := fun (g : Group) => g.results.any fun r => r.op == some op && (!late || r.late)
  s.groups.any has || s.cols.toList.any fun c => has c.g

/-- The old value of an atomic becomes an outstanding result as any other (R373). -/
def State.landNet (s : State) (o : NetOp) (val : Nat) : State :=
  let ws := match o.dst with
    | .s n => [Write.s n.val (BitVec.ofNat 64 val)]
    | _ => []
  match o.who with
  | .group _ => s.landOp o.op 0 ws 0
  | .col n => s.setCol n { s.col n with g := (s.col n).g.landOp o.op 0 ws 0 }

/-- The operation is complete (R148, R375): NDONE, the counter, and the engine fault of a status other than 0 (R379). An
atomic's old value is written before. -/
def State.finishOp (s : State) (o : NetOp) (status val : Nat) : State :=
  if o.isRsp then { s with net := { s.net with ops := s.net.ops.filter fun x => x.op != o.op } }
  else if s.awaits o.op true then (s.landNet o val).setOp { o with ended := some (status, val) }
  else if s.awaits o.op false then s.setOp { o with ended := some (status, val) }
  else
    let s := { s with net := { s.net with ops := s.net.ops.filter fun x => x.op != o.op } }
    let paths := ((s.conn? o.conn).map (·.paths)).getD 1
    let s := (s.traceNet o 0x71 status (o.msn % max 1 paths)).completeAll o.op
    let s := match o.who with
      | .group _ => s
      | .col n => (s.setCol n { s.col n with g := (s.col n).g.complete o.op }).settle o.who
    if status = 0 then s
    else s.sendRec (o.core / 12 % 48) { o.rcd with code := 0x20, cls := 3, cause := status, d56 := BitVec.ofNat 64 s.time }

/-- The source of an operation's records. -/
def State.firstSource (s : State) (o : NetOp) : Nat := s.netSource o (o.msn % max 1 (((s.conn? o.conn).map (·.paths)).getD 1))

/-- The end of an operation waits for room for its record (R393). -/
def State.netHeld (s : State) (o : NetOp) : Bool :=
  !o.isRsp && s.blocked o.ctx (s.firstSource o) 0x71 o.trTag

/-- An operation ends; where a lossless tenant has no room for its record, its completion waits (R393). -/
def State.endOp (s : State) (o : NetOp) (status : Nat) (val : Nat := 0) : State :=
  if s.netHeld o then s.setOp { o with ended := some (status, val) } else s.finishOp o status val

/-- The completions that waited for room, or for their results to arrive. -/
def State.endDeferred (s : State) : State :=
  s.net.ops.foldl (fun s o => match o.ended with
    | some (st, v) => if s.netHeld o then s else s.finishOp o st v
    | none => s) s

/-! ### The instructions NPUT, NGET, NPUTI, NPUTA, NATOM (R367-R370) -/

/-- The record in which an operation of an agent is named. -/
def State.netRecord (s : State) (a : Agent) (g : Group) : EvRec :=
  match a with
  | .group _ => { g.record 0x20 with cls := 3, seq := g.seqNet.toNat }
  | .col _ => { code := 0x20, ctx := s.ctxOf a, pc := g.pc.setWidth 64, cls := 3, seq := g.seqNet.toNat }

/-- The packets of a message (R353). -/
def packetsOf (len : Nat) : Nat := max 1 ((len + 4095) / 4096)

/-- The ranks of the process group. -/
def Context.ranks (c : Context) : Nat := max 1 c.members.length

/-- The checks of R369 step 2 on the reference and the message record. -/
def refBad (c : Context) (ref : Nat) (m : List W64) (lo hi : Nat) : Bool :=
  let w := fun i => (m.getD i 0).toNat
  let len := bitsOf (w 1) 31 0
  bitsOf ref 23 16 != 0 || bitsOf (w 1) 63 32 != 0 || bitsOf (w 2) 63 48 != 0 || decide (bitsOf ref 15 0 ≥ c.ranks) || decide (len < lo) ||
  decide (hi < len) || decide (w 2 + len > 2 ^ 48)

/-- An operation of a group or col, by its kind and FN. -/
def netOp (wf : Bool) (f : LF) (s : State) (kind : PktKind) (fn : Nat) : Out State :=
  let atom := fn == 4
  startVec s wf f ((if atom then [] else sRun f.sa 4) ++ sSrcs [f.sb] ++ sRun f.sc 4) {} fun a g r lanes =>
    if lanes.isEmpty then .next (s.finish a g f.sw)
    else if g.counter 7 ≥ 63 then .next (s.parkRoom a g 7)
    else
      let c := s.ctxD (s.ctxOf a)
      let ref := (r.uni 1 f.lit f.sb).toNat
      let m := r.sregs 12 f.sc 4
      let len := bitsOf (m.getD 1 0).toNat 31 0
      let roff := (m.getD 2 0).toNat
      let loff := signed 64 (m.getD 0 0).toNat
      let lend : CopyEnd := if atom then { space := 0, rc := [] } else { space := 0, rc := r.sregs 8 f.sa 4, size := (r.rcd f.sa).extent }
      let unit := if fn = 3 ∨ fn = 4 then f.ty.size else 1
      let inside := atom || len == 0 || lend.holds loff (loff + len)
      if refBad c ref m (if fn = 2 ∨ fn = 4 then 0 else 1) (if atom then 0 else 4194304) then .next (s.bounds a g g.allLanes (BitVec.ofNat 64 ref))
      else if len % unit ≠ 0 ∨ roff % unit ≠ 0 then .next (s.misaligned a g g.allLanes (BitVec.ofNat 64 roff))
      else if !atom && len != 0 && !lend.rcd.valid 0 then .next (s.bounds a g g.allLanes (m.getD 0 0))
      else if !inside && lend.strict then .next (s.bounds a g g.allLanes (m.getD 0 0))
      else
        let (op, s) := s.fresh
        let (conn, s) := s.openConn c.ctx (bitsOf ref 15 0) (s.ridge a)
        let o : NetOp :=
          { op := op, who := a, ctx := c.ctx, core := if isCol a then 12 * s.ridge a else g.core, rcd := s.netRecord a g, trTag := g.trTag.toNat, fn := fn
            kind := kind, conn := conn, rank := bitsOf ref 15 0, win := bitsOf ref 31 24, gen := bitsOf ref 47 32, key := bitsOf ref 63 48, ty := f.ty
            aop := f.mod.toNat % 16, sig := fn == 2 && f.mod.getLsbD 0, lend := lend, loff := loff, len := len, roff := roff, imm := (m.getD 3 0).toNat
            cmp := (m.getD 0 0).toNat, dst := if atom then f.dst else .zero, total := if fn = 1 ∨ fn = 4 then 1 else packetsOf len, since := s.time
            fence := (g.ops.filter fun o => o.path ≤ 4 && !o.done).map (·.op) }
        let s := { s with net := { s.net with ops := s.net.ops ++ [o] } }
        let g := { g.raise 7 op g.live with seqNet := g.seqNet + 1, mstat := if inside then g.mstat else g.mstat ||| 1 }
        let g := if atom then (match f.dst with
            | .s n => g.postLate [.s n.val 0] op
            | _ => g) else g.postS f.dst (BitVec.ofNat 64 o.rcd.seq)
        .next (s.finish a g f.sw)

def execNput (f : LF) (s : State) : Out State := netOp (Wf.nput f) f s .put 0
def execNget (f : LF) (s : State) : Out State := netOp (Wf.nget f) f s .getreq 1
def execNputi (f : LF) (s : State) : Out State := netOp (Wf.nputi f) f s .puti 2
def execNputa (f : LF) (s : State) : Out State := netOp (Wf.nputa f) f s .add 3
def execNatom (f : LF) (s : State) : Out State := netOp (Wf.natom f) f s .atomreq 4

/-! ### NWAITN (R374) -/

def execNwaitn (f : LF) (s : State) : Out State :=
  startOp s (Wf.nwaitn f) f (sSrcs [f.sa]) fun a g r =>
    if g.counter 1 ≥ 63 then .next (s.parkRoom a g 1)
    else
      let w := r.uni 0 f.lit f.sa
      let ctx := s.ctxOf a
      let va := (((s.ctx? ctx).bind fun c => c.wins.find? fun x => x.idx == w.toNat).map (·.notif)).getD 0
      if w.toNat > 255 then .next (s.bounds a g g.allLanes w)
      else
        match s.testRing a ctx w.toNat (f.mod.getLsbD 0) fun _ => true with
        | .trans va c s => .next (s.transFault a g 1 [(va, c)])
        | .fault x s => .next (s.tstFault a g x)
        | .done vals s =>
          let (op, s) := s.fresh
          let key := match (s.trans a .atomic va).1 with
            | .ok k _ => k
            | _ => 0
          .next (s.finishMem a ((s.watchRing a (g.raise 1 op g.live) key va vals).postRegs f.dst vals (some op)) f.sw)
        | .wait k s =>
          -- a col keeps testing: it does not use the wait table
          if isCol a then .next s
          else
            let (op, s) := s.fresh
            let g := (g.raise 1 op g.live).complete op
            let s := s.park a { g with psw := f.sw } (.nwaitn f.dst)
            .next (s.addWaiter { gid := some g.id, ridge := g.ridge, ctx := ctx, va := va, key := k, n := w, ring := true, slot := none, order := 0, since := 0 })

/-- A network operation that is complete as it issues is counted on NET behind those before it (R148, R375). -/
def State.countNet (s : State) (g : Group) : Group × State :=
  let (op, s) := s.fresh
  ((g.raise 7 op g.live).complete op, s)

/-! ### Windows (R360-R363) -/

/-- The generation after a change (R360). -/
def nextGen (g : Nat) : Nat := if (g + 1) % 2 ^ 16 = 0 then 2 else (g + 1) % 2 ^ 16

def Context.win? (c : Context) (i : Nat) : Option Win := c.wins.find? fun w => w.idx == i

def Context.setWin (c : Context) (w : Win) : Context := { c with wins := w :: c.wins.filter fun x => x.idx != w.idx }

/-- NWOPEN's descriptor is well formed (R362 step 1). -/
def descOk (d : List W64) : Bool :=
  let w := fun i => (d.getD i 0).toNat
  bitsOf (w 0) 63 57 == 0 && bitsOf (w 1) 63 59 == 0 && bitsOf (w 2) 63 57 == 0 && bitsOf (w 3) 63 57 == 0 && bitsOf (w 1) 47 0 != 0 &&
  bitsOf (w 1) 58 56 != 0 && decide (w 0 + bitsOf (w 1) 47 0 ≤ 2 ^ 57)

def execNwopen (f : LF) (s : State) : Out State :=
  startOp s (Wf.nwopen f) f (sSrcs [f.sa] ++ sRun f.sb 4) fun a g r =>
    let d := r.sregs 12 f.sb 4
    let w := fun i => (d.getD i 0).toNat
    if g.counter 7 ≥ 63 then .next (s.parkRoom a g 7)
    else if !descOk d then .next (s.bounds a g g.allLanes (d.getD 1 0))
    else if w 2 % 16 ≠ 0 then .next (s.misaligned a g g.allLanes (d.getD 2 0))
    else if w 3 % 8 ≠ 0 then .next (s.misaligned a g g.allLanes (d.getD 3 0))
    else if !g.lsZero then .next (s.park a g (.drain .ls))
    else
      let c := s.ctxD (s.ctxOf a)
      let idx := bitsOf (w 1) 55 48
      let old := c.win? idx
      let gen := (old.map (·.gen)).getD 0
      let (g, s) := s.countNet g
      if gen % 2 = 1 || (old.any fun x => x.infl != 0) then .next (s.finish a (g.postS f.dst 0) f.sw)
      else
        let k := (r.uni 0 f.lit f.sa).toNat % 2 ^ 16
        let key := if k ≠ 0 then k else (Config.random s.tick 20).toNat % 65535 + 1
        let x : Win := { idx := idx, base := w 0, len := bitsOf (w 1) 47 0, perm := bitsOf (w 1) 58 56, key := key, gen := nextGen gen, notif := w 2, sem := w 3 }
        let ref := key * 2 ^ 48 + x.gen * 2 ^ 32 + idx * 2 ^ 24 + c.rank
        .next ((s.putCtx (c.setWin x)).finish a (g.postS f.dst (BitVec.ofNat 64 ref)) f.sw)

def execNwrev (f : LF) (s : State) : Out State :=
  startOp s (Wf.nwrev f) f (sSrcs [f.sa]) fun a g r =>
    let w := r.uni 0 f.lit f.sa
    if g.counter 7 ≥ 63 then .next (s.parkRoom a g 7)
    else if w.toNat > 255 then .next (s.bounds a g g.allLanes w)
    else
      let c := s.ctxD (s.ctxOf a)
      let none_ := fun (_ : Unit) =>
        let (g, s) := s.countNet g
        .next (s.finish a (g.postS f.dst 0) f.sw)
      match c.win? w.toNat with
      | none => none_ ()
      | some x =>
        if x.closed then none_ ()
        else
          let x := { x with gen := nextGen x.gen }
          let s := s.putCtx (c.setWin x)
          let g' := g.postS f.dst (BitVec.ofNat 64 x.gen)
          if x.infl = 0 then
            let (g, s) := (s.placeIf fun w => w.cls == 3).countNet g'
            .next (s.finish a g f.sw)
          else
            let (op, s) := s.fresh
            let o : NetOp :=
              { op := op, who := a, ctx := c.ctx, core := if isCol a then 12 * s.ridge a else g.core, rcd := s.netRecord a g, trTag := g.trTag.toNat
                fn := 7, kind := .ack, conn := 0, rank := c.rank, win := x.idx, gen := x.gen, key := 0, ty := .i32, aop := 0, sig := false
                lend := { space := 0 }, loff := 0, len := 0, roff := 0, imm := 0, cmp := 0, dst := .zero, total := 0, since := s.time }
            .next ({ s with net := { s.net with ops := s.net.ops ++ [o] } }.finish a (g'.raise 7 op g.live) f.sw)

/-- A message accepted by a window has finished or been abandoned; a revocation ends at INFL 0 (R363). -/
def State.lowerInfl (s : State) (ctx win : Nat) : State :=
  match s.ctx? ctx with
  | none => s
  | some c =>
    match c.win? win with
    | none => s
    | some w =>
      let s := s.setCtx (c.setWin { w with infl := w.infl - 1 })
      -- what its messages wrote has its place when the revocation ends (R153, R363)
      if w.infl ≤ 1 then (s.net.ops.filter fun o => o.fn == 7 && o.ctx == ctx && o.win == win).foldl (fun s o => (s.placeIf fun w => w.cls == 3).endOp o 0) s else s

/-! ### Transmission (R354, R355) -/

/-- Why an access of the network engine does not take place: a page to wait for, or a status. -/
inductive NetStop where
  | page (va cause : Nat)
  | status (st : Nat)

/-- Causes that are failed checks of a present page (R365). -/
def permCause (c : Nat) : Bool := c == 2 || c == 3 || c == 4 || c == 5 || c == 6 || c == 9

/-- The key of a byte for the network engine. -/
def State.netKey (s : State) (ctx : Nat) (acc : Acc) (va : Nat) : Except NetStop (Nat × Bool) × State :=
  match s.engineAt ctx acc va with
  | (.ok k e, s) => (.ok (k, pteCoh e), s)
  | (.fault va c, s) => (.error (if mediaCause ≤ c then .status 8 else if permCause c then .status 7 else .page va c), s)

/-- The keys of the addresses of a list; an uncorrectable line among them stops unless clean lets it pass. -/
def State.netKeys (s : State) (ctx : Nat) (acc : Acc) (vas : List Nat) (clean : Nat → Bool) : Except NetStop (List (Nat × Bool)) × State :=
  vas.foldl (fun (x : Except NetStop (List (Nat × Bool)) × State) va =>
    match x.1 with
    | .error e => (.error e, x.2)
    | .ok ks =>
      match x.2.netKey ctx acc va with
      | (.error e, s) => (.error e, s)
      | (.ok k, s) => if (s.poisoned k.1 1).isSome && !clean va then (.error (.status 8), s) else (.ok (ks ++ [k]), s)) (.ok [], s)

/-- n local source bytes from an offset: zero out of bounds (R278). -/
def State.localRead (s : State) (o : NetOp) (first : Int) (n : Nat) : Except NetStop (List Byte) × State :=
  let offs := (List.range n).map fun i => first + (i : Int)
  match s.netKeys o.ctx .read ((offs.filter o.lend.has).map fun d => (o.lend.addr d).toNat % 2 ^ 64) fun _ => false with
  | (.error e, s) => (.error e, s)
  | (.ok ks, s) =>
    let vals := (offs.filter o.lend.has).zip (ks.map fun k => readByte s.mem k.1)
    (.ok (offs.map fun d => ((vals.find? fun p => p.1 == d).map Prod.snd).getD 0), s)

/-- The bytes of packet j (R353). -/
def NetOp.plen (o : NetOp) (j : Nat) : Nat := min 4096 (o.len - 4096 * j)

/-- The bytes that packet j carries: read now, or as a response was read. -/
def State.packetData (s : State) (o : NetOp) (j : Nat) : Except NetStop (List Byte) × State :=
  match o.kind with
  | .put | .puti | .add => s.localRead o (o.loff + 4096 * j) (o.plen j)
  | .getrsp =>
    if j < o.pkts.length then (.ok ((o.data.drop (4096 * j)).take (o.plen j)), s)
    else
      match s.netKeys o.ctx .read ((List.range (o.plen j)).map fun i => o.loff.toNat + 4096 * j + i) fun _ => false with
      | (.error e, s) => (.error e, s)
      | (.ok ks, s) => (.ok (ks.map fun k => readByte s.mem k.1), s)
  | _ => (.ok [], s)

/-- Packet j of an operation, sent for the n-th time, to the identifier of its peer. -/
def NetOp.packet (o : NetOp) (peer port paths j n : Nat) (bs : List Byte) : NetPkt :=
  let carries := o.kind == .add || o.kind == .atomreq
  { NetPkt.blank o.kind port with
    retrans := decide (1 < n), sig := o.sig, path := (o.msn + j + (n - 1)) % max 1 paths, optTy := if carries then o.ty.code else 0
    optOp := if o.kind = .atomreq then o.aop else 0, dconn := peer, msn := o.msn, pidx := j, pcnt := o.total, win := o.win, gen := o.gen, key := o.key
    plen := bs.length, roff := o.roff + 4096 * j
    ext0 := match o.kind with
      | .puti => o.imm
      | .getreq => o.len
      | .atomreq => o.imm
      | _ => 0
    ext1 := if o.kind = .atomreq then o.cmp else 0, payload := bs }

/-- A page fault of an operation's local access (R134): in the merge table, told to a ridge's col. -/
def State.netWait (s : State) (o : NetOp) (va cause : Nat) : State :=
  let n := o.core / 12 % 48
  let (e, recd, s) := s.joinMerge (n / 12) o.ctx va cause n none
  let s := match recd with
    | none => s
    | some joins => s.sendRec n { o.rcd with code := 0x0B, cause := cause, merge := e.getD 0, d32 := BitVec.ofNat 64 va
                                             flags := o.rcd.flags % 8 + (if joins then 16 else 0), d56 := BitVec.ofNat 64 s.time }
  s.setOp { o with wait := e }

/-- The peer, rank, paths and source ports of an operation's connection. -/
def State.peerOf (s : State) (o : NetOp) : Option (Nat × Nat × Nat × Nat) :=
  if o.isRsp then (s.net.rx.find? fun c => c.num == o.conn).map fun c => (c.senderId, c.rank, c.paths, c.udpBase)
  else (s.conn? o.conn).bind fun c => c.peer.map fun p => (p, c.rank, c.paths, c.udpBase)

/-- A record of the receive side (R388). -/
def State.traceRx (s : State) (kind : Nat) (p : NetPkt) (ctx rank code : Nat) : State :=
  s.emitTo (s.tenantNum ctx) (0x8000 + p.port % 16) kind 0
    (toLE 2 ctx ++ toLE 1 p.win ++ toLE 1 code ++ toLE 2 rank ++ toLE 2 p.pcnt ++ toLE 4 p.msn ++ toLE 4 p.dconn) 0 none

/-- A response that ends with a status is refused to its requester, and its message is over. -/
def State.refuseRsp (s : State) (o : NetOp) (st : Nat) : State :=
  match s.net.rx.find? fun c => c.num == o.conn with
  | none => s.finishOp o st 0
  | some c =>
    let s := s.finishOp o st 0
    let p : NetPkt := { NetPkt.blank .nak (s.portOf c.ctx c.rank 0) with dconn := c.senderId, msn := o.msn, win := o.win, status := st }
    let s := (s.traceRx 0x7A { p with dconn := c.num } c.ctx c.rank st).post c.ctx c.rank c.udpBase p
    let s := { s with net := { s.net with
      reasm := s.net.reasm.filter fun r => !(r.conn == c.num && r.msn == o.msn)
      rx := s.net.rx.map fun (x : RxConn) => if x.num == c.num then { x with failed := (o.msn, st) :: x.failed } else x } }
    s.lowerInfl o.ctx o.win

/-- An operation or a response ends with a status. -/
def State.failOp (s : State) (o : NetOp) (st : Nat) : State := if o.isRsp then s.refuseRsp o st else s.endOp o st

/-- A message of the receiver is complete: it no longer counts for INFL, and its number is recorded (R376). -/
def RxConn.isDone (c : RxConn) (msn : Nat) : Bool :=
  let d := (c.low + 2 ^ 32 - msn) % 2 ^ 32
  (d != 0 && decide (d ≤ 2 ^ 31)) || c.finished.contains msn

/-- The low mark passes the numbers recorded at it: the fuel bounds how many. -/
def RxConn.advance : Nat → RxConn → RxConn
  | 0, c => c
  | n + 1, c => if c.finished.contains c.low then RxConn.advance n { c with low := (c.low + 1) % 2 ^ 32, finished := c.finished.filter (· != c.low) } else c

def RxConn.record (c : RxConn) (msn : Nat) : RxConn := RxConn.advance (c.finished.length + 1) { c with finished := msn :: c.finished }

/-- The receiver's message finishes. -/
def State.finishMessage (s : State) (r : Reasm) (p : NetPkt) : State :=
  let s := { s with net := { s.net with
    reasm := s.net.reasm.filter fun x => x.num != r.num
    rx := s.net.rx.map fun (c : RxConn) => if c.num == r.conn then c.record r.msn else c } }
  (s.lowerInfl r.ctx r.win).traceRx 0x79 p r.ctx r.rank (pktCode p.kind)

/-- A response has been read whole: its GETREQ is performed and acknowledged (R355). -/
def State.rspRead (s : State) (o : NetOp) : State :=
  match s.net.rx.find? fun c => c.num == o.conn with
  | none => s
  | some c =>
    let p : NetPkt := { NetPkt.blank .getreq (s.portOf c.ctx c.rank 0) with dconn := c.num, msn := o.msn, win := o.win }
    let s := match s.net.reasm.find? fun r => r.conn == c.num && r.msn == o.msn with
      | some r => s.finishMessage r p
      | none => s
    s.post c.ctx c.rank c.udpBase { NetPkt.blank .ack p.port with dconn := c.senderId, msn := o.msn, win := o.win, done := true, ce := o.ce }

/-- Packet j of an operation goes out, for the n-th time, by the port of its path (R354). -/
def State.sendPacket (s : State) (o : NetOp) (j n : Nat) (bs : List Byte) : State :=
  match s.peerOf o with
  | none => s
  | some (peer, rank, paths, base) => s.post o.ctx rank base (o.packet peer (s.portOf o.ctx rank ((o.msn + j + (n - 1)) % max 1 paths)) paths j n bs)

/-- The next packet of an operation is sent for the first time. -/
def State.sendNext (s : State) (o : NetOp) : State :=
  match o.lost with
  | some _ => s.failOp o 7
  | none =>
    let j := o.pkts.length
    -- a message takes its number when it is first transmitted
    let (o, s) :=
      if j = 0 ∧ !o.isRsp then
        match s.conn? o.conn with
        | some c => ({ o with msn := c.nextMsn }, s.setConn { c with nextMsn := (c.nextMsn + 1) % 2 ^ 32 })
        | none => (o, s)
      else (o, s)
    match s.packetData o j with
    | (.error (.page va c), s) => s.netWait o va c
    | (.error (.status st), s) => s.failOp o st
    | (.ok bs, s) =>
      let o' := { o with pkts := o.pkts ++ [{ at_ := s.time }], data := if o.isRsp then o.data ++ bs else o.data }
      let s := if j = 0 ∧ !o.isRsp then s.traceNet o 0x70 o.fn (o.msn % max 1 (((s.conn? o.conn).map (·.paths)).getD 1)) else s
      let s := (s.setOp o').sendPacket o j 1 bs
      if o.isRsp && o'.pkts.length == o.total then s.rspRead o' else s

/-- The operation has packets that have not been sent, and may send them. -/
def NetOp.pending (o : NetOp) : Bool := o.fn != 7 && o.ended.isNone && o.wait.isNone && decide (o.pkts.length < o.total)

/-- An LS operation is complete wherever it is counted: its accesses have their places (R148). -/
def State.lsDone (s : State) (op : Nat) : Bool :=
  let open_ := fun (g : Group) => g.ops.any fun o => o.op == op && !o.done
  !(s.groups.any open_ || s.cols.toList.any (fun c => open_ c.g) || s.opLate op)

/-- The operation has acted as FENCE.ls.net (R151, R369): the LS accesses before it have their places, at whatever scope. -/
def State.fenced (s : State) (o : NetOp) : Bool := o.fence.all s.lsDone

/-- The messages of a connection that are outstanding. -/
def State.outstanding (s : State) (conn : Nat) : Nat := (s.net.ops.filter fun o => o.conn == conn && o.fn != 7 && !o.pkts.isEmpty).length

/-- The source of the record that an operation makes when its first packet goes out, with the number that its message gets. -/
def State.sendSource (s : State) (o : NetOp) : Nat := s.firstSource { o with msn := ((s.conn? o.conn).map (·.nextMsn)).getD o.msn }

/-- The operation of a connection that transmits next: in order of issue, with at most 64 messages outstanding. -/
def State.transmits (s : State) (conn : Nat) : Option NetOp :=
  match s.net.ops.find? fun o => o.conn == conn && o.pending with
  | none => none
  | some o =>
    let open_ := o.isRsp || ((s.conn? conn).any fun c => c.peer.isSome)
    if open_ && s.fenced o && (!o.pkts.isEmpty || decide (s.outstanding conn < 64)) && (o.isRsp || !o.pkts.isEmpty || !s.blocked o.ctx (s.sendSource o) 0x70 o.trTag) && !s.engineHeld o.core 3 then some o else none

def execMessageTransmit (s : State) : Out State :=
  match s.ev with
  | .nat conn =>
    match s.transmits conn with
    | some o => .next (s.sendNext o)
    | none => .next s
  | _ => .next s

/-- A packet that waits for its acknowledgement. -/
def NetOp.waitsAck (o : NetOp) (j : Nat) : Option TxPkt := if o.ended.isSome then none else (o.pkts[j]?).filter fun p => !p.acked

def NetOp.setTx (o : NetOp) (j : Nat) (p : TxPkt) : NetOp := { o with pkts := o.pkts.mapIdx fun i x => if i == j then p else x }

/-- The wait for an acknowledgement has passed: 64 µs, doubled after each attempt (R355). -/
def State.ackDue (s : State) (p : TxPkt) : Bool := p.busyUntil.isNone && decide (s.time ≥ p.at_ + 64 * us * 2 ^ (p.attempts - 1))

/-- A packet is sent again. -/
def State.resend (s : State) (o : NetOp) (j : Nat) (p : TxPkt) : State :=
  match s.packetData o j with
  | (.error (.page va c), s) => s.netWait o va c
  | (.error (.status st), s) => s.failOp o st
  | (.ok bs, s) => (s.setOp (o.setTx j p)).sendPacket o j p.attempts bs

/-- The connection of an operation whose OPEN is still unanswered: packet position 1024 names it. -/
def State.opening (s : State) (o : NetOp) : Option Conn := (s.conn? o.conn).filter fun c => c.peer.isNone && !o.isRsp && o.fn != 7

def execRetransmitTimeout (s : State) : Out State :=
  match s.ev with
  | .nat2 op j =>
    match s.net.ops.find? fun o => o.op == op with
    | none => .next s
    | some o =>
      match s.opening o, o.waitsAck j with
      | some c, _ =>
        if j ≠ 1024 ∨ !s.ackDue c.tx then .next s
        else if 8 ≤ c.tx.attempts then .next (s.endOp o 10)
        else .next ((s.setConn { c with tx := { c.tx with attempts := c.tx.attempts + 1, at_ := s.time } }).sendOpen c true)
      | none, some p =>
        if !s.ackDue p || o.wait.isSome then .next s
        else if o.lost.isSome then .next (s.failOp o 7)
        else if 8 ≤ p.attempts then .next (if o.isRsp then s.finishOp o 10 0 else s.endOp o 10)
        else .next (s.resend o j { p with attempts := p.attempts + 1, at_ := s.time })
      | none, none => .next s
  | _ => .next s

/-- 16 µs have passed since a BUSY (R355). -/
def State.busyOver (s : State) (p : TxPkt) : Bool :=
  match p.busyUntil with
  | some t => decide (s.time ≥ t)
  | none => false

def execBusyRetry (s : State) : Out State :=
  match s.ev with
  | .nat2 op j =>
    match s.net.ops.find? fun o => o.op == op with
    | none => .next s
    | some o =>
      match s.opening o, o.waitsAck j with
      | some c, _ =>
        if j = 1024 ∧ s.busyOver c.tx then .next ((s.setConn { c with tx := { c.tx with busyUntil := none, at_ := s.time } }).sendOpen c true) else .next s
      | none, some p =>
        if s.busyOver p && o.wait.isNone then
          (if o.lost.isSome then .next (s.failOp o 7) else .next (s.resend o j { p with busyUntil := none, at_ := s.time }))
        else .next s
      | none, none => .next s
  | _ => .next s

/-! ### The network deadline (R355) -/

def State.deadlineDue (s : State) (o : NetOp) : Bool := decide (o.fn ≤ 4) && !o.isRsp && o.ended.isNone && decide (s.time ≥ o.since + s.net.deadline)

/-- The status of an operation that misses its deadline, by the last reply. -/
def busyStatus : Option Nat → Nat
  | some 1 => 1
  | some 2 => 2
  | some 3 => 9
  | _ => 10

def execNetworkDeadline (s : State) : Out State :=
  match s.ev with
  | .nat op =>
    match s.net.ops.find? fun o => o.op == op with
    | some o =>
      if s.deadlineDue o then
        .next (s.endOp o (busyStatus (match s.opening o with
          | some c => c.lastBusy
          | none => o.lastBusy)))
      else .next s
    | none => .next s
  | _ => .next s

end Sys2Proof.Machine
end

