-- ==== Sys2Proof/Machine/NetRx.lean ====
section
/-! DEFINITION. The network engine as receiver (R353, R358, R359, R363-R366, R371-R377), and what the sender does
with replies. -/

namespace Sys2Proof.Machine

/-! ### Arrival -/

/-- The kinds whose packets carry data. -/
def pktData (k : PktKind) : Bool := k == .put || k == .puti || k == .add || k == .getrsp

/-- A packet of a kind with every field in its range, and zero where R352 and R353 mark it so. -/
def pktOk (p : NetPkt) (k : PktKind) : Bool :=
  p.kind == k && decide (p.path < 16) && decide (p.pidx < p.pcnt) && decide (p.pcnt ≤ 1024) && p.plen == p.payload.length && decide (p.plen ≤ 4096) &&
  (pktData k || p.plen == 0) && (!p.sig || k == .puti) && (!p.done || k == .ack) && (p.status == 0 || k == .nak || k == .busy) &&
  (p.optTy == 0 || k == .add || k == .atomreq) && (p.optOp == 0 || k == .atomreq) && decide (p.optTy < 16) && decide (p.optOp < 16) &&
  decide (p.dconn < 2 ^ 32) && decide (p.msn < 2 ^ 32) && decide (p.win < 256) && decide (p.status < 256) && decide (p.gen < 2 ^ 16) &&
  decide (p.key < 2 ^ 16) && decide (p.roff < 2 ^ 64) && decide (p.ext0 < 2 ^ 64) && decide (p.ext1 < 2 ^ 64) && (k != .getreq || decide (p.ext0 ≤ 4194304))

def State.dropPacket (s : State) : State := { s with net := { s.net with dropped := s.net.dropped + 1 } }

/-- A packet of a kind is processed: one that waited here, one whose access was declared unrecoverable, or one
that arrives at a port, as a packet or as the bytes of a datagram. -/
def rxEvent (k : PktKind) (s : State) (go lost : NetPkt → State → State) : Out State :=
  match s.ev with
  | .udp port addr src ce b after =>
    match pktOf port addr src ce b with
    | none => .next s.dropPacket
    | some p =>
      if p.kind ≠ k then .next s else if !pktOk p k then .next s.dropPacket else if port ≥ loopPort then .next s
      else .next (go { p with after := after } s)
  | .pkt p =>
    if !pktOk p k then .next s.dropPacket
    else if s.net.loop.contains p then .next (go p { s with net := { s.net with loop := s.net.loop.erase p } })
    else if s.net.refused.contains p then .next (lost p { s with net := { s.net with refused := s.net.refused.erase p } })
    else if p.port ≥ loopPort then .next s
    else .next (go p s)
  | _ => .next s

/-- A received packet that is no valid Pyxlink packet (R353). -/
def execPyxlinkPacketDropped (s : State) : Out State := .next s.dropPacket

/-! ### Replies -/

/-- A reply to a packet of a connection, by the packet's port and path; where no member of a process group is known, to
the address that the packet came from (R359). -/
def State.reply (s : State) (c : RxConn) (p : NetPkt) (k : PktKind) (fn : NetPkt → NetPkt) : State :=
  let q := fn { NetPkt.blank k p.port with dconn := c.senderId, msn := p.msn, pidx := p.pidx, pcnt := p.pcnt, win := p.win, path := p.path }
  if ((s.ctx? c.ctx).bind fun x => x.members[c.rank]?).isSome then s.post c.ctx c.rank c.udpBase q else s.postTo p.srcAddr pyxPort c.udpBase q

def State.sendAck (s : State) (c : RxConn) (p : NetPkt) (done : Bool) : State := s.reply c p .ack fun x => { x with done := done, ce := p.ce }
def State.sendBusy (s : State) (c : RxConn) (p : NetPkt) (reason : Nat) : State := s.reply c p .busy fun x => { x with status := reason }
def State.sendNak (s : State) (c : RxConn) (p : NetPkt) (st : Nat) : State :=
  (s.traceRx 0x7A p c.ctx c.rank st).reply c p .nak fun x => { x with status := st }

/-! ### Reassembly (R376) -/

def State.setReasm (s : State) (r : Reasm) : State :=
  { s with net := { s.net with reasm := s.net.reasm.map fun x => if x.num == r.num then r else x } }

/-- The message ends with a status: its later packets are answered with it. -/
def State.dropMessage (s : State) (r : Reasm) (st : Nat) : State :=
  ({ s with net := { s.net with
      reasm := s.net.reasm.filter fun x => x.num != r.num
      rx := s.net.rx.map fun (c : RxConn) => if c.num == r.conn then { c with failed := (r.msn, st) :: c.failed } else c } }).lowerInfl r.ctx r.win

/-- A packet waits for a page of a context (R134), in the merge table, told to a col. -/
def State.rxPark (s : State) (ctx n : Nat) (rcd : EvRec) (p : NetPkt) (va cause : Nat) : State :=
  let (e, recd, s) := s.joinMerge (n / 12) ctx va cause n none
  let s := match recd with
    | none => s
    | some joins => s.sendRec n { rcd with code := 0x0B, cause := cause, flags := rcd.flags % 8 + (if joins then 16 else 0), merge := e.getD 0
                                           d32 := BitVec.ofNat 64 va, d56 := BitVec.ofNat 64 s.time }
  match e with
  | some e => { s with net := { s.net with waits := s.net.waits ++ [{ pkt := p, entry := e }] } }
  | none => { s with net := { s.net with loop := s.net.loop ++ [p] } }

/-- A packet waits for a page of the target (R365), told to the page's home col (R349). -/
def State.rxWait (s : State) (c : RxConn) (p : NetPkt) (va cause : Nat) : State :=
  s.rxPark c.ctx ((va / 2 ^ 21 + c.ctx) % 48) { code := 0x0B, ctx := c.ctx, cls := 3 } p va cause

/-- The operation of a connection's message, when it is under way. -/
def State.opOf (s : State) (conn msn : Nat) : Option NetOp :=
  s.net.ops.find? fun o => o.conn == conn && o.msn == msn && !o.pkts.isEmpty && o.ended.isNone && o.fn != 7

/-- The number under which a message writes: a loopback sender's operation, or the message's own. -/
def State.nameFor (s : State) (c : RxConn) (n : Nat) (p : NetPkt) : Nat :=
  if p.port = loopPort then ((s.opOf c.senderId p.msn).map (·.op)).getD n else n

/-- Bytes of a notification, which carry the message's data to their reader (R153, R377). -/
def State.notifyStore (s : State) (op : Nat) (coh : Bool) (key : Nat) (bs : List Byte) : State :=
  let s := s.put (netAgent op) coh key bs
  if s.streams.hist.isEmpty then s
  else
    let w : Party := { who := netAgent op, core := s.coreOf (netAgent op), ridge := 0 }
    { s with streams := s.streams.tag key bs.length [{ party := w, writer := w.who, ver := s.streams.ver, scope := 6 }] }

/-- The packet is refused; what its message has done stays done, and it never notifies (R364). -/
def State.refuse (s : State) (c : RxConn) (r : Reasm) (p : NetPkt) (st : Nat) : State := (s.setReasm { r with refused := true }).sendNak c p st

/-! ### Notification (R372) -/

inductive Notif where
  | done (s : State)
  | full
  | page (va cause : Nat) (s : State)
  | bad

/-- A stop of an access of the notification. -/
def notifStop (e : NetStop) (s : State) : Notif :=
  match e with
  | .page va c => .page va c s
  | .status _ => .bad

/-- The signal of the window's semaphore, after the ring entry. -/
def notifSem (r : Reasm) (op : Nat) (sig : Bool) (s : State) (ring : State → State) : Notif :=
  if !sig then .done (ring s)
  else if r.sem % 8 ≠ 0 then .bad
  else
    match s.netKeys r.ctx .atomic [r.sem] fun _ => false with
    | (.error e, s) => notifStop e s
    | (.ok ks, s) =>
      let (k, coh) := ks.headD (0, true)
      let s := ring s
      .done (s.notifyStore op coh k (toLE 8 (readLE s.mem k 8 + 1)))

/-- The notification of a message that is complete, after its data (R153). -/
def State.notify (s : State) (c : RxConn) (r : Reasm) (p : NetPkt) : Notif :=
  let op := r.name
  let data := fun (s : State) => s.placeIf fun w => w.cls == 3 && w.msg == some (c.num, r.msn)
  if (r.ring = 0 ∧ r.sem = 0) ∨ (p.sig ∧ r.sem = 0) then .bad
  else if r.ring = 0 then notifSem r op p.sig s data
  else if r.ring % 16 ≠ 0 then .bad
  else
    match s.netKeys r.ctx .atomic [r.ring] fun _ => false with
    | (.error e, s) => notifStop e s
    | (.ok ks, s) =>
      let (k, coh) := ks.headD (0, true)
      let h := Hdr.of (readLE s.mem k 16)
      if !h.ok || h.logs != 4 then .bad
      else if 2 ^ h.logn ≤ h.used then .full
      else
        match s.netKeys r.ctx .write [r.ring + h.slotOff h.res] fun _ => false with
        | (.error e, s) => notifStop e s
        | (.ok qs, s) =>
          let (q, qc) := qs.headD (0, true)
          notifSem r op p.sig s fun s =>
            let s := (data s).notifyStore op qc (q + 4) (toLE 4 r.bytes ++ toLE 8 p.ext0)
            let s := s.notifyStore op qc q (toLE 4 (h.phase h.res + r.rank % 2 ^ 16 * 2 ^ 16))
            s.notifyStore op coh k (toLE 16 { h with res := (h.res + 1) % 2 ^ 32 }.enc)

/-- Every packet of the message has been performed. -/
def State.complete (s : State) (c : RxConn) (r : Reasm) (p : NetPkt) : State :=
  if p.kind ≠ .puti then (s.finishMessage r p).sendAck c p true
  else if r.refused then (s.dropMessage r 11).sendNak c p 11
  else
    match s.notify c r p with
    | .done s => (s.finishMessage r p).sendAck c p true
    | .full => s.setReasm { r with held := some (s.time, p) }
    | .page va cause s => s.rxWait c p va cause
    | .bad => (s.dropMessage r 9).sendNak c p 9

/-- A packet has been performed. -/
def State.rxDone (s : State) (c : RxConn) (r : Reasm) (p : NetPkt) : State :=
  let r := { r with got := p.pidx :: r.got, bytes := r.bytes + p.plen }
  let s := s.setReasm r
  if r.got.length = r.pcnt then s.complete c r p else s.sendAck c p false

/-! ### Performing an accepted packet (R365, R370, R371, R373) -/

/-- The line of an address lies in the packet, or in it and packets of its message already written. -/
def wholeLine (base : Nat) (r : Reasm) (p : NetPkt) (sofar : Bool) (va : Nat) : Bool :=
  let lo := base + p.roff
  let has := fun (i : Nat) => !sofar || r.got.contains i
  let lo' := if p.pidx ≠ 0 ∧ has (p.pidx - 1) then lo - 4096 else lo
  let hi' := if p.pidx + 1 < p.pcnt ∧ has (p.pidx + 1) then lo + p.plen + 127 else lo + p.plen
  decide (lo' ≤ va / 128 * 128) && decide (va / 128 * 128 + 128 ≤ hi')

def State.stopRx (s : State) (c : RxConn) (r : Reasm) (p : NetPkt) (e : NetStop) : State :=
  match e with
  | .page va cause => s.rxWait c p va cause
  | .status st => s.refuse c r p st

/-- The bytes of a PUT or PUTI. -/
def State.rxWrite (s : State) (c : RxConn) (r : Reasm) (p : NetPkt) : State :=
  let vas := (List.range p.plen).map fun i => r.base + p.roff + i
  match s.netKeys r.ctx .write vas (wholeLine r.base r p false) with
  | (.error e, s) => s.stopRx c r p e
  | (.ok ks, s) =>
    let s := s.engineWrite 3 r.name 0 ((ks.zip p.payload).map fun x => (x.1.1, x.1.2, x.2)) (some (c.num, r.msn))
    let clean := ((vas.zip ks).filter fun x => wholeLine r.base r p true x.1).map fun x => x.2.1 / 128 * 128
    let s := if s.poison.isEmpty then s else { s with poison := s.poison.filter fun l => !clean.contains (l / 128 * 128) }
    s.rxDone c r p

/-- The elements of an ADD, in ascending order. -/
def State.rxAdd (s : State) (c : RxConn) (r : Reasm) (p : NetPkt) : State :=
  let t := Ty.ofCode p.optTy
  let z := if t = .b16 then 2 else 4
  let va := r.base + p.roff
  if va % z ≠ 0 ∨ p.plen % z ≠ 0 then s.refuse c r p 7
  else
    match s.netKeys r.ctx .atomic ((List.range (p.plen / z)).map fun i => va + z * i) fun _ => false with
    | (.error e, s) => s.stopRx c r p e
    | (.ok ks, s) =>
      let s := (ks.mapIdx fun i k => (i, k)).foldl (fun s (x : Nat × Nat × Bool) =>
        s.engineAct { cls := 3, op := r.name, who := netAgent r.name, msg := some (c.num, r.msn), coh := x.2.2, key := x.2.1
                      deed := .atom z 8 t (field p.payload (z * x.1) z) 0 }) s
      s.rxDone c r p

/-- The one atomic of an ATOMREQ, its old value recorded and returned. -/
def State.rxAtom (s : State) (c : RxConn) (r : Reasm) (p : NetPkt) : State :=
  let t := Ty.ofCode p.optTy
  let z := t.size
  let va := r.base + p.roff
  if va % z ≠ 0 then s.refuse c r p 7
  else
    match s.netKeys r.ctx .atomic [va] fun _ => false with
    | (.error e, s) => s.stopRx c r p e
    | (.ok ks, s) =>
      let (k, coh) := ks.headD (0, true)
      let old := readLE s.mem k z
      let s := s.engineStore coh k (toLE z (atomNew p.optOp t old (p.ext0 % 2 ^ (8 * z)) (p.ext1 % 2 ^ (8 * z))))
      let s := { s with net := { s.net with rx := s.net.rx.map fun (x : RxConn) => if x.num == c.num then { x with atoms := (p.msn, old) :: x.atoms } else x } }
      (s.rxDone c r p).reply c p .atomrsp fun x => { x with ext0 := old }

/-- A GETREQ: the response's packets are read and sent in turn. -/
def State.rxGet (s : State) (c : RxConn) (r : Reasm) (p : NetPkt) : State :=
  if s.net.ops.any fun o => o.isRsp && o.conn == c.num && o.msn == p.msn then s
  else
    let (n, s) := s.fresh
    let o : NetOp :=
      { op := n, who := engineAgent, ctx := r.ctx, core := 0, rcd := { code := 0x20, ctx := r.ctx, cls := 3 }, trTag := 0, fn := 1, kind := .getrsp, conn := c.num, ce := p.ce
        rank := c.rank, msn := p.msn, win := p.win, gen := 0, key := 0, ty := .i32, aop := 0, sig := false, lend := { space := 0 }
        loff := ((r.base + p.roff : Nat) : Int), len := p.ext0, roff := p.roff, imm := 0, cmp := 0, dst := .zero, total := packetsOf p.ext0, since := s.time }
    { s with net := { s.net with ops := s.net.ops ++ [o] } }

/-- What the sender's fences put before a packet has its place (R153). -/
def State.placeMsgs (s : State) (l : List (Nat × Nat)) : State := s.placeIf fun w => w.msg.any l.contains

def State.rxPerform (s : State) (c : RxConn) (r : Reasm) (p : NetPkt) : State :=
  let s := s.placeMsgs p.after
  match p.kind with
  | .add => s.rxAdd c r p
  | .atomreq => s.rxAtom c r p
  | .getreq => s.rxGet c r p
  | _ => s.rxWrite c r p

/-! ### The checks (R359, R364, R376) -/

/-- The right that a kind needs. -/
def needs : PktKind → Nat
  | .getreq => 0
  | .add | .atomreq => 2
  | _ => 1

/-- How far an access reaches in the window. -/
def pktReach (p : NetPkt) : Nat :=
  match p.kind with
  | .atomreq => p.roff + 8
  | .getreq => p.roff + p.ext0
  | _ => p.roff + p.plen

/-- The first packet of a message to arrive: checked, accepted, performed. -/
def State.rxFirst (s : State) (c : RxConn) (p : NetPkt) : State :=
  match (s.ctxD c.ctx).win? p.win with
  | none => s.sendBusy c p 2
  | some w =>
    if w.gen = 0 then s.sendBusy c p 2
    else if p.gen ≠ w.gen ∨ p.gen % 2 = 0 then s.sendNak c p 3
    else if p.key ≠ w.key then s.sendNak c p 4
    else if !w.perm.testBit (needs p.kind) then s.sendNak c p 5
    else if w.len < (pktReach p) then s.sendNak c p 6
    else if (p.kind == .puti && s.net.reasm.any fun r => r.ctx == c.ctx && r.win == p.win && r.held.isSome) || decide (Config.reassemblyLimit ≤ s.net.reasm.length) then
      s.sendBusy c p 0
    else
      let (n, s) := s.fresh
      let r : Reasm := { num := n, conn := c.num, ctx := c.ctx, rank := c.rank, msn := p.msn, win := p.win, pcnt := p.pcnt, base := w.base, len := w.len
                         ring := w.notif, sem := w.sem, last := s.time, name := s.nameFor c n p }
      let s := s.putCtx ((s.ctxD c.ctx).setWin { w with infl := w.infl + 1 })
      let s := { s with net := { s.net with reasm := s.net.reasm ++ [r] } }
      (s.traceRx 0x78 p c.ctx c.rank (pktCode p.kind)).rxPerform c r p

/-- A further packet of a message, or one that comes again. -/
def State.rxMore (s : State) (c : RxConn) (r : Reasm) (p : NetPkt) : State :=
  let r := { r with last := s.time }
  let s := s.setReasm r
  if r.held.isSome then s.sendBusy c p 3
  else if r.got.contains p.pidx then (if r.got.length = r.pcnt then s.complete c r p else s.sendAck c p false)
  else if r.len < (pktReach p) then s.refuse c r p 6
  else s.rxPerform c r p

/-- A message that is complete is acknowledged again; a completed ATOMREQ by its recorded value (R376). -/
def State.rxAgain (s : State) (c : RxConn) (p : NetPkt) : State :=
  if p.kind = .atomreq then s.reply c p .atomrsp fun x => { x with ext0 := ((c.atoms.find? fun a => a.1 == p.msn).map Prod.snd).getD 0 }
  else s.sendAck c p true

/-- A data packet, GETREQ or ATOMREQ. -/
def rxData (p : NetPkt) (s : State) : State :=
  match s.net.rx.find? fun c => c.num == p.dconn with
  | none => s.dropPacket
  | some c =>
    if (s.ctx? c.ctx).isNone then s.sendBusy c p 1
    else if !c.cached then
      (if s.net.miss.length < 256 then { s with net := { s.net with miss := s.net.miss ++ [p] } } else s.sendBusy c p 0)
    else
      match c.failed.find? fun f => f.1 == p.msn with
      | some f => s.sendNak c p f.2
      | none =>
        if c.isDone p.msn then s.rxAgain c p
        else
          match s.net.reasm.find? fun r => r.conn == c.num && r.msn == p.msn with
          | some r => s.rxMore c r p
          | none => s.rxFirst c p

/-- The access of a packet was declared unrecoverable: status 7 (R365). -/
def rxLost (p : NetPkt) (s : State) : State :=
  match s.net.rx.find? fun c => c.num == p.dconn with
  | none => s
  | some c =>
    match s.net.reasm.find? fun r => r.conn == c.num && r.msn == p.msn with
    | some r => if r.got.contains p.pidx then (s.dropMessage r 9).sendNak c p 9 else s.refuse c r p 7
    | none => s.sendNak c p 7

def execPutPacket (s : State) : Out State := rxEvent .put s rxData rxLost
def execPutiPacket (s : State) : Out State := rxEvent .puti s rxData rxLost
def execAddPacket (s : State) : Out State := rxEvent .add s rxData rxLost
def execGetreq (s : State) : Out State := rxEvent .getreq s rxData rxLost
def execAtomreq (s : State) : Out State := rxEvent .atomreq s rxData rxLost

/-! ### Replies at the sender -/

/-- A GETRSP (R370): its bytes are written locally, and it is acknowledged. -/
def rxGetrsp (p : NetPkt) (s : State) : State :=
  match s.conn? p.dconn with
  | none => s.dropPacket
  | some c =>
    let ack := fun (done : Bool) (s : State) => s.post c.ctx c.rank c.udpBase
      { NetPkt.blank .ack p.port with dconn := c.peer.getD 0, msn := p.msn, pidx := p.pidx, pcnt := p.pcnt, win := p.win, path := p.path, done := done, ce := p.ce }
    match (s.opOf c.num p.msn).filter fun o => o.kind == .getreq with
    | none => ack true s
    | some o =>
      if o.got.contains p.pidx then ack (o.got.length == packetsOf o.len) s
      else
        let offs := ((List.range (min p.plen (o.plen p.pidx))).map fun (i : Nat) => (o.loff + 4096 * (p.pidx : Int) + (i : Int), p.payload.getD i 0)).filter fun (x : Int × Byte) => o.lend.has x.1
        let vas := offs.map fun x => (o.lend.addr x.1).toNat % 2 ^ 64
        -- the bytes of packets around it, and of those that have been written
        let around : List Int := (List.range (p.plen + 254)).map fun (i : Nat) => 4096 * (p.pidx : Int) + (i : Int) - 127
        let near := fun (sofar : Bool) => (around.filter fun (d : Int) => decide (0 ≤ d) && decide (d < o.len) && o.lend.has (o.loff + d) &&
          (!sofar || d.toNat / 4096 == p.pidx || o.got.contains (d.toNat / 4096))).map fun (d : Int) => (o.lend.addr (o.loff + d)).toNat % 2 ^ 64
        let wholeIn := fun (l : List Nat) (va : Nat) => (List.range 128).all fun i => l.contains (va / 128 * 128 + i)
        let whole := wholeIn (if s.poison.isEmpty then [] else near false)
        match s.netKeys o.ctx .write vas whole with
        | (.error (.page va cause), s) => s.rxPark o.ctx (o.core / 12 % 48) o.rcd p va cause
        | (.error (.status st), s) => s.endOp o st
        | (.ok ks, s) =>
          let s := s.engineWrite 3 o.op 0 ((ks.zip offs).map fun x => (x.1.1, x.1.2, x.2.2))
          let written := if s.poison.isEmpty then [] else near true
          let clean := ((vas.zip ks).filter fun x => wholeIn written x.1).map fun x => x.2.1 / 128 * 128
          let s := if s.poison.isEmpty then s else { s with poison := s.poison.filter fun l => !clean.contains (l / 128 * 128) }
          let o := { o with got := p.pidx :: o.got, lastBusy := none }
          let last := o.got.length == packetsOf o.len
          let s := ack last (s.setOp o)
          if last then s.endOp o 0 else s

def execGetrsp (s : State) : Out State :=
  rxEvent .getrsp s rxGetrsp fun p s =>
    match (s.opOf p.dconn p.msn).filter fun o => o.kind == .getreq with
    | some o => s.endOp o 7
    | none => s

/-- The old value of an atomic as its destination receives it (R373). -/
def atomResult (t : Ty) (x : Nat) : Nat := if t = .i32 then wrapTo 64 (signed 32 x) else x

def execAtomrsp (s : State) : Out State :=
  rxEvent .atomrsp s (fun p s =>
    match (s.opOf p.dconn p.msn).filter fun o => o.kind == .atomreq with
    | some o => s.endOp o 0 (atomResult o.ty p.ext0)
    | none => s) fun _ s => s

/-- A packet is acknowledged (R355, R375): the operation is complete when every packet of it is. -/
def State.acked (s : State) (o : NetOp) (j : Nat) : State :=
  let mark := fun (i : Nat) (x : TxPkt) => if i == j then { x with acked := true, busyUntil := none } else x
  let o : NetOp := { o with pkts := o.pkts.mapIdx mark, lastBusy := none }
  let all := o.pkts.length == o.total && o.pkts.all (·.acked)
  if o.isRsp then (if all then s.finishOp o 0 0 else s.setOp o)
  else if all && (o.kind == .put || o.kind == .puti || o.kind == .add) then (s.setOp o).endOp o 0
  else s.setOp o

/-- An ACK; a request for an atomic goes on until its value arrives. -/
def execAck (s : State) : Out State :=
  rxEvent .ack s (fun p s =>
    match s.opOf p.dconn p.msn with
    | some o => if o.kind = .atomreq then s.setOp { o with lastBusy := none } else s.acked o p.pidx
    | none => s) fun _ s => s

/-- A NAK ends the operation with its status, or with 10 for a reserved code (R366). -/
def execNak (s : State) : Out State :=
  rxEvent .nak s (fun p s =>
    match (s.opOf p.dconn p.msn).filter fun o => !o.isRsp with
    | some o => s.endOp o (if p.status = 0 ∨ 12 ≤ p.status then 10 else p.status)
    | none => s) fun _ s => s

/-- A BUSY delays its packet by 16 µs; before OPENACK it answers the OPEN (R355). -/
def execBusy (s : State) : Out State :=
  rxEvent .busy s (fun p s =>
    let until_ := some (s.time + 16 * us)
    match s.conn? p.dconn with
    | some c =>
      if c.peer.isNone then s.setConn { c with tx := { c.tx with busyUntil := until_ }, lastBusy := some p.status }
      else
        match s.opOf c.num p.msn with
        | some o => s.setOp { o with lastBusy := some p.status, pkts := o.pkts.mapIdx fun (i : Nat) (x : TxPkt) => if i == p.pidx && !x.acked then { x with busyUntil := until_ } else x }
        | none => s
    | none =>
      match s.opOf p.dconn p.msn with
      | some o => s.setOp { o with pkts := o.pkts.mapIdx fun (i : Nat) (x : TxPkt) => if i == p.pidx && !x.acked then { x with busyUntil := until_ } else x }
      | none => s) fun _ s => s

/-! ### Connections at the receiver (R358, R359) -/

/-- A connection context leaves the cache when 4,096 are in it and one more is to stay: the oldest with no open reassembly
entry and no response under way. -/
def State.evict (s : State) (stays : Nat) : State :=
  if (s.net.rx.filter (·.cached)).length ≤ 4096 then s
  else
    match (s.net.rx.filter (·.cached)).reverse.find? fun c =>
        c.num != stays && !(s.net.reasm.any fun r => r.conn == c.num) && !(s.net.ops.any fun o => o.isRsp && o.conn == c.num) with
    | some v => { s with net := { s.net with rx := s.net.rx.map fun (c : RxConn) => if c.num == v.num then { c with cached := false } else c } }
    | none => s

/-- The rank of a sender in a context's process group. -/
def State.rankOf (s : State) (c : Context) (ident ctx : Nat) : Option Nat :=
  if c.members.isEmpty then (if ident = s.mod.modid.toNat then some 0 else none)
  else c.members.findIdx? fun m => m.ident == ident && m.ctx == ctx

def rxOpen (p : NetPkt) (s : State) : State :=
  let rctx := p.ext1 / 2 ^ 32 % 2 ^ 16
  let sctx := p.ext1 / 2 ^ 48
  match (s.ctx? rctx).bind fun c => s.rankOf c p.ext0 sctx with
  | none => s.sendBusy { num := 0, ctx := rctx, senderId := p.dconn, rank := 2 ^ 16, udpBase := Config.choose s.tick 53 % 65521 } p 1
  | some rank =>
    let same := fun (c : RxConn) => c.ctx == rctx && c.rank == rank && c.senderId == p.dconn
    let (c, s) :=
      match s.net.rx.find? same with
      | some c => (c, s)
      | none =>
        let (n, s) := s.fresh
        let c : RxConn := { num := n, ctx := rctx, senderId := p.dconn, rank := rank, paths := max 1 (p.ext1 / 2 ^ 24 % 2 ^ 8)
                            udpBase := Config.choose s.tick 53 % 65521 }
        (c, ({ s with net := { s.net with rx := c :: s.net.rx } }).evict n)
    s.reply c p .openack fun x => { x with ext0 := c.num }

def execOpenPacket (s : State) : Out State := rxEvent .openReq s rxOpen fun _ s => s

def execOpenack (s : State) : Out State :=
  rxEvent .openack s (fun p s =>
    match s.conn? p.dconn with
    | some c => if c.peer.isNone then s.setConn { c with peer := some p.ext0, tx := { c.tx with acked := true }, lastBusy := none } else s
    | none => s) fun _ s => s

def execConnectionContextFetched (s : State) : Out State :=
  match s.ev with
  | .nat n =>
    match s.net.rx.find? fun c => c.num == n with
    | some c =>
      if c.cached then .next s
      else
        let mine := s.net.miss.filter fun p => p.dconn == n
        .next (({ s with net := { s.net with
          rx := { c with cached := true } :: s.net.rx.filter fun x => x.num != n
          miss := s.net.miss.filter fun p => p.dconn != n, loop := s.net.loop ++ mine } }).evict n)
    | none => .next s
  | _ => .next s

/-! ### Abandoned messages and held notifications (R372, R376) -/

def State.abandonDue (s : State) (r : Reasm) : Bool :=
  r.held.isNone && decide (s.time ≥ r.last + 10000 * us) && !(s.net.ops.any fun o => o.isRsp && o.conn == r.conn && o.msn == r.msn)

def State.reasm? (s : State) (n : Nat) : Option Reasm := s.net.reasm.find? fun r => r.num == n

def execReassemblyAbandon (s : State) : Out State :=
  match s.ev with
  | .nat n =>
    match s.reasm? n with
    | some r => if s.abandonDue r then .next (s.dropMessage r 11) else .next s
    | none => .next s
  | _ => .next s

def execHeldNotificationWrite (s : State) : Out State :=
  match s.ev with
  | .nat n =>
    match s.reasm? n with
    | some r =>
      match r.held, s.net.rx.find? fun c => c.num == r.conn with
      | some (_, p), some c =>
        match s.notify c r p with
        | .full => .next s
        | _ => .next (s.complete c { r with held := none } p)
      | _, _ => .next s
    | none => .next s
  | _ => .next s

def State.holdDue (s : State) (r : Reasm) : Bool :=
  match r.held with
  | some (t, _) => decide (s.time ≥ t + s.net.deadline)
  | none => false

def execNotificationHoldExpiry (s : State) : Out State :=
  match s.ev with
  | .nat n =>
    match s.reasm? n with
    | some r => if s.holdDue r then .next (s.dropMessage r 9) else .next s
    | none => .next s
  | _ => .next s

/-! ### The end of a context (R378, R409) -/

/-- A message that the end of its context abandons: its sender ends with status 11. -/
def State.abandonMessage (s : State) (r : Reasm) : State :=
  match s.net.rx.find? fun c => c.num == r.conn with
  | some c => s.sendNak c { NetPkt.blank .put (s.portOf c.ctx c.rank 0) with msn := r.msn, pcnt := r.pcnt, win := r.win } 11
  | none => s

/-- The service kernel destroys a context that holds no place and has nothing under way: its windows are closed with it, its
messages abandoned, its connections released, its samples discarded. -/
def State.destroyCtx (s : State) (ctx : Nat) : State :=
  let s := (s.net.reasm.filter fun r => r.ctx == ctx).foldl State.abandonMessage s
  let mine := fun (n : Nat) => s.net.rx.any fun c => c.num == n && c.ctx == ctx
  { s with
    contexts := s.contexts.filter fun c => c.ctx != ctx
    queues := s.queues.filter fun q => q.ctx != ctx
    tlb := s.tlb.filter fun t => t.ctx != ctx
    merges := s.merges.filter fun m => m.ctx != ctx
    aud := { s.aud with samples := s.aud.samples.filter (fun x => x.ctx != ctx), regs := s.aud.regs.filter (fun x => x.ctx != ctx)
                        reports := s.aud.reports.filter (fun x => x.ctx != ctx), upcalls := s.aud.upcalls.filter fun x => x.ctx != ctx }
    net := { s.net with
      conns := s.net.conns.filter fun c => c.ctx != ctx
      ops := s.net.ops.filter fun o => !(o.isRsp && mine o.conn)
      reasm := s.net.reasm.filter fun r => r.ctx != ctx
      waits := s.net.waits.filter fun w => !mine w.pkt.dconn
      miss := s.net.miss.filter fun p => !mine p.dconn
      loop := s.net.loop ++ s.net.miss.filter fun p => mine p.dconn
      -- a packet for it is answered as for a context that is not held (R359)
      rx := s.net.rx.map fun (c : RxConn) => if c.ctx = ctx then { num := c.num, ctx := 2 ^ 16, senderId := c.senderId, rank := c.rank, udpBase := c.udpBase } else c } }

end Sys2Proof.Machine
end

