-- ==== Sys2Proof/Machine/Audit.lean ====
section
/-! DEFINITION. The audit engine (R402-R418): AUDTAG, AUDRD and AUDCLR, and the re-execution of retained
samples. What is reported is in Report.lean, what is sampled in Matrix.lean. -/

namespace Sys2Proof.Machine

/-! ### AUDTAG (R415) -/

def execAudtag (f : LF) (s : State) : Out State :=
  startOp s (Wf.audtag f) f (sSrcs [f.sa]) fun a g r =>
    match a with
    | .col _ => .next (s.illegal a g)
    | .group _ =>
      let x := r.uni 0 f.lit f.sa
      .next (s.finish a { g with audTag := x.setWidth 16, audOrd := (x >>> 32).setWidth 32 } f.sw)

/-! ### Whom AUDRD and AUDCLR act on (R414) -/

/-- The context or the group, or a stop. -/
inductive AudWho where
  | ctx (n : Nat)
  | grp (t : Target)
  | stop (s : State)

/-- Service privilege asks for a handle: of a group for the selector `.tag`, else of a context. -/
def State.audWho (s : State) (a : Agent) (g : Group) (sc : Spec) (hx : W64) (service tag : Bool) : AudWho :=
  match a with
  | .group _ =>
    if sc != .zero then .stop (s.illegal a g)
    else if service then .stop (s.privilege a g)
    else .ctx g.ctx
  | .col n =>
    let h := Hnd.of hx
    if tag then
      (if sc = .zero then .stop (s.sysFault a g 0)
       else match s.findGroup n h with
        | some t => .grp t
        | none => .stop (s.sysFault a g hx))
    else if sc = .zero then .ctx (s.ctxOf a)
    else if h.isCtx then .ctx h.ctx
    else .stop (s.sysFault a g hx)

/-! ### AUDRD (R416) -/

/-- An operation whose sample or reports AUDRD `.sync` waits for: a narrow MMA or MCONV, or a drain, under a tag. -/
def MtxOp.audited (m : MtxOp) : Bool :=
  m.audTag != 0 &&
    match m.i with
    | .mma f | .mconv f => f.ty == .f8e4 || f.ty == .f8e5 || f.ty == .h16 || f.ty == .b16
    | .mdrain _ | .mdrains _ => true
    | _ => false

/-- Work of a context that an agent issued, or that was issued by a group that is gone, whose work other groups continue. -/
def State.issuedBy (s : State) (a : Agent) (ctx c : Nat) (by_ : Agent) : Bool :=
  c == ctx && (by_ == a || (match by_ with
    | .group id => (s.group? id).isNone
    | .col _ => false))

/-- What R416 waits for has happened. -/
def State.audSynced (s : State) (a : Agent) : Bool :=
  let mine := s.issuedBy a (s.ctxOf a)
  (s.mtx.all fun m => !(mine m.ctx m.by_ && m.audited)) && (s.aud.samples.all fun x => !mine x.ctx x.by_) && s.aud.reports.all fun r => !mine r.ctx r.by_

/-- Agents whose synchronisation is over. -/
def State.wakeAuds (s : State) : State :=
  ((s.groups.map fun g => Agent.group g.id) ++ (List.range 48).map Agent.col).foldl (fun s a =>
    match s.ag? a with
    | some g => if g.park == .audsync && s.audSynced a then s.wake a { g with noBreak := true } else s
    | none => s) s

def AudRegs.reg (r : AudRegs) (i : Nat) : W64 :=
  match i with
  | 0 => r.actl | 1 => r.aseed | 2 => r.afilt | 3 => r.aarea | _ => r.aupc

/-- The offset of a counter in its slot (R410), when its slot and index are in range. -/
def cntOff (sel slot idx : Nat) : Option Nat :=
  if slot > 63 then none
  else
    match sel with
    | 0 => if idx ≤ 31 then some (1024 * slot + 8 * idx) else none
    | 1 => if idx ≤ 67 then some (1024 * slot + 256 + 8 * idx) else none
    | _ => if idx ≤ 5 then some (1024 * slot + 800 + 8 * idx) else none

/-- The load of one counter, counted on GLD. -/
def audLoad (s : State) (a : Agent) (g : Group) (f : LF) (ctx off : Nat) : Out State :=
  let r := s.audRegs ctx
  if !r.actl.getLsbD 0 || r.aarea = 0 then .next (s.finish a (g.postS f.dst 0) f.sw)
  else if g.counter 0 ≥ 63 then .next (s.parkRoom a g 0)
  else
    let va := r.aarea.toNat % 2 ^ 57 + off
    match s.translate ctx false .read va with
    | (.priv, s) => .next (s.privilege a g)
    | (.fail c, s) => .next (s.transFault a g 1 [(va, c)])
    | (.ok k e, s) =>
      match s.poisoned k 8 with
      | some l => .next (s.mediaFault a g l)
      | none =>
        let p : Piece := { key := k, n := 8, coh := pteCoh e, va := va }
        let (bs, s) := s.loadPieces a 0 [p]
        let g := if isCol a then g else s.noteWatch g true false [(0, [(va, 8)])]
        let (op, s) := s.fresh
        .next (s.finishMem a ((g.raise 0 op g.live).postS f.dst (BitVec.ofNat 64 (leBytes bs)) (some op)) f.sw)

def execAudrd (f : LF) (s : State) : Out State :=
  startOp s (Wf.audrd f) f (sSrcs [f.sa, f.sb, f.sc]) fun a g r =>
    let sel := f.ext.toNat
    let x := r.uni 0 f.lit f.sa
    let y := r.uni 1 f.lit f.sb
    match s.audWho a g f.sc (r.uni 2 f.lit f.sc) (decide (3 ≤ sel)) (sel == 4) with
    | .stop s => .next s
    | w =>
      if f.mod.getLsbD 0 && !s.audSynced a then .next (s.park a g .audsync)
      else if f.mod.getLsbD 0 && !g.lsZero then .next (s.park a g (.drain .ls))
      else
        -- FENCE.aud.ls: what the audit engines have done comes before the load
        let s := if f.mod.getLsbD 0 then s.placeIf (·.cls == 4) else s
        match w with
        | .grp t =>
          if x ≠ 0 ∨ y ≠ 0 then .next (s.bounds a g g.allLanes (if x ≠ 0 then x else y))
          else .next (s.finish a (g.postS f.dst (BitVec.ofNat 64 (t.group.audTag.toNat + t.group.audOrd.toNat * 2 ^ 32))) f.sw)
        | .ctx n =>
          if sel = 3 then
            if x ≠ 0 ∨ 4 < y.toNat then .next (s.bounds a g g.allLanes (if x ≠ 0 then x else y))
            else .next (s.finish a (g.postS f.dst ((s.audRegs n).reg y.toNat)) f.sw)
          else
            match cntOff sel x.toNat y.toNat with
            | none => .next (s.bounds a g g.allLanes (if 63 < x.toNat then x else y))
            | some off => audLoad s a g f n off
        | .stop s => .next s

/-! ### AUDCLR (R417) -/

/-- The bytes that a selector clears in an area: first offset and length. -/
def clearRange (sel slot : Nat) : Nat × Nat :=
  match sel with
  | 0 => (1024 * slot, 256)
  | 1 => (1024 * slot + 256, 544)
  | 2 => (1024 * slot + 800, 48)
  | 3 => (1024 * slot, 1024)
  | _ => (0, 65536)

/-- A sampling register written (R405, R406): none where the write is refused. -/
def AudRegs.write (r : AudRegs) (i : Nat) (x : W64) : Option AudRegs :=
  match i with
  | 0 =>
    let y := x &&& 0x31F11F1
    if 20 < bitsOf y.toNat 8 4 ∨ (y.getLsbD 0 = true ∧ r.aarea = 0) then none else some { r with actl := y }
  | 1 => some { r with aseed := x }
  | 2 => some { r with afilt := low 32 x }
  | 3 =>
    let y := low 57 x
    if y.toNat % 65536 ≠ 0 ∨ (r.actl.getLsbD 0 = true ∧ y = 0) then none else some { r with aarea := y }
  | _ =>
    let y := low 57 x
    if y.toNat % 8 ≠ 0 then none else some { r with aupc := y }

/-- The places of the 8-byte stores of a clear, in ascending order, or the first fault. -/
def State.clearPieces (s : State) (ctx base n : Nat) : Except (Nat × Option Nat) (List Piece) × State :=
  (List.range n).foldl (fun (x : Except (Nat × Option Nat) (List Piece) × State) i =>
    match x with
    | (.error e, s) => (.error e, s)
    | (.ok ps, s) =>
      let va := base + 8 * i
      match s.translate ctx false .write va with
      | (.ok k e, s) => (.ok (ps ++ [{ key := k, n := 8, coh := pteCoh e, va := va }]), s)
      | (.fail c, s) => (.error (va, some c), s)
      | (.priv, s) => (.error (va, none), s)) (.ok [], s)

/-- The stores of zeros, one operation on GST. -/
def audClear (s : State) (a : Agent) (g : Group) (f : LF) (ctx off len : Nat) : Out State :=
  let r := s.audRegs ctx
  if r.aarea = 0 then .next (s.finish a g f.sw)
  else if g.counter 1 ≥ 63 then .next (s.parkRoom a g 1)
  else
    match s.clearPieces ctx (r.aarea.toNat % 2 ^ 57 + off) (len / 8) with
    | (.error (_, none), s) => .next (s.privilege a g)
    | (.error (va, some c), s) => .next (s.transFault a g 1 [(va, c)])
    | (.ok ps, s) =>
      let bad := s.badLines ps
      let s := ps.foldl (fun s p => s.storePieces a bad [p] (List.replicate 8 0)) s
      let s := s.cleanLines (if s.poison.isEmpty then [] else ps.flatMap fun p => (List.range 8).map fun i => p.key + i)
      let s := s.mergeErrors a g bad
      let g := if isCol a then g else s.noteWatch g false true [(0, ps.map fun p => (p.va, 8))]
      let (op, s) := s.fresh
      .next (s.finishMem a (g.raise 1 op g.live) f.sw)

def execAudclr (f : LF) (s : State) : Out State :=
  startOp s (Wf.audclr f) f (sSrcs [f.sa, f.sb, f.sc]) fun a g r =>
    let sel := f.ext.toNat
    let x := r.uni 0 f.lit f.sa
    let y := r.uni 1 f.lit f.sb
    let hx := r.uni 2 f.lit f.sc
    match s.audWho a g f.sc hx (decide (5 ≤ sel)) (sel == 6) with
    | .stop s => .next s
    | .grp t =>
      let ok := match t with
        | .res q => s.writable q
        | .out _ _ => true
      if ok then .next ((s.setTarget t { t.group with audTag := y.setWidth 16, audOrd := (y >>> 32).setWidth 32 }).done a f.sw)
      else .next (s.sysFault a g hx)
    | .ctx n =>
      if sel = 5 then
        if 4 < x.toNat then .next (s.bounds a g g.allLanes x)
        else
          match (s.audRegs n).write x.toNat y with
          | some q => .next ((s.setAudRegs q).done a f.sw)
          | none => .next (s.sysFault a g x)
      else if !isCol a && (s.audRegs n).actl.getLsbD 25 then .next (s.privilege a g)
      else if sel ≠ 4 ∧ 63 < x.toNat then .next (s.bounds a g g.allLanes x)
      else
        let q := clearRange sel x.toNat
        audClear s a g f n q.1 q.2

/-! ### Re-execution (R408) -/

/-- The rounding of a value to f64. -/
def r64 (x : FV) : FV := fvOf .f64 (roundTo .rne 0 .f64 false false x).1

def FV.magnitude : FV → FV
  | .nan q => .nan q
  | .inf _ => .inf false
  | .fin _ m e q => .fin false m e q

def FV.isFin : FV → Bool
  | .fin _ _ _ _ => true
  | _ => false

/-- w(i, j) of R408. -/
def Sample.expected (x : Sample) (i j : Nat) : FV :=
  let kb := kbOf x.aty
  let acc := (List.range kb).foldl (fun (v : FV) k =>
    r64 (FV.add false v (FV.mul (fvOf x.aty (x.a.getD (i * kb + k) 0)) (fvOf x.bty (x.b.getD (j * kb + k) 0))).1).1) (FV.ofInt 0 0)
  let v := r64 (FV.mul acc (fvOf .f32 (x.sa.getD i 0).toNat)).1
  let v := r64 (FV.mul v (fvOf .f32 x.sb.toNat)).1
  r64 (FV.add false v (fvOf .f32 (x.told.getD (16 * i + j) 0).toNat)).1

/-- e of R408 for an updated value n and an expected value w. -/
def divergence (n w : FV) : FV :=
  match n, w with
  | .nan _, .nan _ => FV.ofInt 0 0
  | .inf a, .inf b => if a = b then FV.ofInt 0 0 else .inf false
  | _, _ =>
    if !n.isFin || !w.isFin then .inf false
    else
      let num := r64 (FV.add false n w.negate).1.magnitude
      let den := r64 (FV.add false w.magnitude (FV.ofInt 1 (-24))).1
      r64 (FV.div num den).1

/-- d with the lowest i, then j, at which it stands. -/
def Sample.worst (x : Sample) : FV × Nat × Nat :=
  (List.range 256).foldl (fun (b : FV × Nat × Nat) c =>
    let e := divergence (fvOf .f32 (x.tnew.getD c 0).toNat) (x.expected (c / 16) (c % 16))
    if 0 < FV.cmp e b.1 then (e, c / 16, c % 16) else b) (FV.ofInt 0 0, 0, 0)

/-- The divergence bin of d (R408). -/
def divBin (d : FV) : Nat :=
  match d with
  | .fin _ m e _ =>
    if m = 0 then 0
    else
      let l : Int := e + Nat.log2 m
      if l < -40 then 0 else if -10 ≤ l then 31 else (l + 41).toNat
  | _ => 31

/-- The record of a threshold event has been delivered. -/
def State.delivered? (s : State) (u : Upcall) : Bool :=
  !(s.col u.ridge).held.contains u.rcd && !((s.ctx? u.ctx).any fun c => c.heldEv.contains u.rcd)

/-- SEMSIG of 1 at .sys by the service kernel on a context's semaphore (R413), once its address translates. -/
def State.upcall (s : State) (u : Upcall) : State :=
  if !s.delivered? u then s
  else
    let done := fun (s : State) => { s with aud := { s.aud with upcalls := s.aud.upcalls.erase u } }
    match (s.finishMoves u.ctx).translate u.ctx false .atomic u.va with
    | (.ok k e, s) =>
      if (s.poisoned k 8).isSome then done s
      else
        let a := Agent.col u.ridge
        done ((s.fenceStreams a 6).storeBytes a (pteCoh e) k (toLE 8 (readLE s.mem k 8 + 1)))
    | (_, s) => s

/-- The threshold event of an audit (R413), under the registers that it began with. -/
def State.threshold (s : State) (r : AudRegs) (x : Sample) (bin dbits im jm : Nat) : State :=
  let s := s.traceE x.rcd 6 0x61 x.tag (12 * x.ridge + x.rcd.place % 16) bin (x.rcd.seq + x.tag * 2 ^ 16)
  let rec_ : EvRec := { x.rcd with code := 0x21, cause := bin, cls := 4, lanes := 0, d32 := BitVec.ofNat 64 (x.tag + x.ord * 2 ^ 32)
                                   d40 := BitVec.ofNat 64 dbits, d48 := BitVec.ofNat 64 (im + 16 * jm), d56 := BitVec.ofNat 64 s.time }
  let s := s.sendRec x.ridge rec_
  if r.actl.getLsbD 12 && r.aupc != 0 then
    { s with aud := { s.aud with upcalls := s.aud.upcalls ++ [{ ridge := x.ridge, ctx := x.ctx, va := r.aupc.toNat, rcd := rec_ }] } }
  else s

/-- The accesses of an audit to its slot, with their offsets: two counters, MAXDIV, TAG, and EVENTS. -/
def auditDeeds (bin dbits tag : Nat) (hot : Bool) : List (Nat × Deed) :=
  [(8 * bin, addOne), (808, addOne), (832, .atom 8 2 .n64 dbits 0), (840, tagDeed tag)] ++ if hot then [(824, addOne)] else []

/-- An audit begins: it takes the sampling registers as they stand, and ACTL.INJ with them (R405, R406). -/
def State.beginAudit (s : State) (x : Sample) : Sample × State :=
  match x.began with
  | some _ => (x, s)
  | none =>
    let r := s.audRegs x.ctx
    let inj := r.actl.getLsbD 24
    let y : Sample := { x with began := some r, tnew := if inj then x.tnew.set 0 (x.tnew.headD 0 ^^^ 0x400000) else x.tnew }
    let s := if inj then s.setAudRegs { r with actl := r.actl &&& ~~~(0x1000000 : W64) } else s
    (y, { s with aud := { s.aud with samples := s.aud.samples.map fun z => if z == x then y else z } })

/-- The registers that a sample's audit goes by. -/
def State.beganWith (s : State) (x : Sample) : AudRegs := x.began.getD (s.audRegs x.ctx)

/-- The threshold bin is set, and a bin reaches it (R413). -/
def AudRegs.hot (r : AudRegs) (bin : Nat) : Bool :=
  let thr := bitsOf r.actl.toNat 20 16
  decide (thr ≠ 0) && decide (thr ≤ bin)

/-- The sample's audit: its slot in the area is updated (R410), and its slot of the buffer is free once these writes have their
places. -/
def State.auditSample (s : State) (x : Sample) : State :=
  let (x, s) := s.beginAudit x
  let r := x.began.getD { ctx := x.ctx }
  let (d, im, jm) := x.worst
  let bin := divBin d
  let dbits := (roundTo .rne 0 .f64 false false d).1
  let hot := r.hot bin
  let slot := r.slotVa x.tag
  let deeds := auditDeeds bin dbits x.tag hot
  let ended := fun (s : State) =>
    let s := { s with aud := { s.aud with samples := s.aud.samples.erase x } }
    if hot then s.threshold r x bin dbits im jm else s
  let drops := fun (s : State) (c : Nat) => deeds.foldl (fun s p => s.areaFault x.ridge x.rcd (slot + p.1) c) s
  match x.lost with
  | some (_, c) => drops (ended s) c
  | none =>
    match s.areaPlace x.ridge x.ctx slot with
    | (.wait n, s) => { s with aud := { s.aud with samples := s.aud.samples.map fun (z : Sample) => if z == x then { z with wait := n } else z } }
    | (.drop c, s) => drops (ended s) c
    | (.at_ k, s) => ended (deeds.foldl (fun s p => s.areaAct x.ridge x.rcd true (slot + p.1) (k + p.1) p.2) s)

/-- An audit whose slot of the buffer is lost is abandoned (R409). -/
def State.abandonSample (s : State) (x : Sample) : State :=
  let s := { s with aud := { s.aud with samples := s.aud.samples.erase x } }
  let s := s.sendRec x.ridge { x.rcd with code := 0x20, cause := 0x0C, cls := 4, d40 := 8, d56 := BitVec.ofNat 64 s.time }
  s.report { ctx := x.ctx, ridge := x.ridge, by_ := x.by_, tag := x.tag, slot := x.slot, off := 816, rcd := x.rcd }

/-- An event record of a ridge's audit engine is held for a full ring (R329). -/
def State.auditHeld (s : State) (ridge : Nat) : Bool := (s.col ridge).held.any fun r => r.cls == 4 && (r.code == 0x20 || r.code == 0x21)

/-- The audit of a sample waits for room for the record of its threshold event, if it makes one, or for a record that its engine
holds already (R393). -/
def State.sampleHeld (s : State) (x : Sample) : Bool :=
  let src := srcOf 6 x.ridge 0 0
  s.opWaits src x.rcd || (s.blocked x.ctx src 0x61 x.tag && (s.beganWith x).hot (divBin ((s.beginAudit x).1.worst).1))

/-- The sample that a ridge's engine audits next (R408): the oldest, when it waits for no page. -/
def State.nextSample (s : State) (ridge : Nat) : Option Sample :=
  (s.aud.samples.find? fun x => x.ridge == ridge).filter fun x => x.wait.isNone && !s.auditHeld ridge

def execSampleAudit (s : State) : Out State :=
  match s.ev with
  | .nat ridge =>
    match s.nextSample ridge with
    | some x => if x.bad then .next (s.abandonSample x) else if s.sampleHeld x then .next s else .next (s.auditSample x)
    | none => .next s
  | _ => .next s

end Sys2Proof.Machine
end

