-- ==== Sys2Proof/Machine/Queue.lean ====
section
/-! DEFINITION. Launch queues and their packets (R28-R32, R38, R346-R349), process-group tables (R356, R357), and
the service kernel's placing, pre-emption and restoring of contexts (R32, R36, R334-R336). -/

namespace Sys2Proof.Machine

/-! ### Addresses -/

/-- Where host memory stands in the physical map (assumption 22). -/
def hostBase : Nat := 0x8000000000000

/-- A service access to an address of a context: its key, and whether the page is coherent. -/
def State.ctxKey (s : State) (ctx : Nat) (acc : Acc) (va : Nat) : Option (Nat × Bool × State) :=
  match s.translate ctx false acc va with
  | (.ok k e, s) => some (k, pteCoh e, s)
  | _ => none

/-- An address of a queue's descriptor or ring: virtual in its context, or physical in host memory. -/
def State.asKey (s : State) (ctx : Nat) (phys : Bool) (acc : Acc) (va : Nat) : Option (Nat × Bool × State) :=
  if phys then (if va < 2 ^ 51 then some (hostBase + va, true, s) else none) else s.ctxKey ctx acc va

def State.qKey (s : State) (q : Queue) (acc : Acc) (va : Nat) : Option (Nat × Bool × State) := s.asKey q.asp q.phys acc va

def State.queue? (s : State) (n : Nat) : Option Queue := s.queues.find? fun q => q.num == n

def State.setQueue (s : State) (q : Queue) : State := { s with queues := s.queues.map fun x => if x.num == q.num then q else x }

/-- The home col of a queue (R346). -/
def Queue.home (q : Queue) : Nat := q.num / 64

/-- The fields of a packet (R347). -/
def Queue.kind (q : Queue) : Nat := field q.pkt 0 1
def Queue.acq (q : Queue) : Nat := bitsOf (field q.pkt 0 4) 11 9
def Queue.rel (q : Queue) : Nat := bitsOf (field q.pkt 0 4) 14 12
def Queue.word (q : Queue) (off : Nat) : Nat := field q.pkt off 8

/-! ### Registration (R346, R427) -/

/-- The phase bit that a slot's header must hold before registration: opposite to that of the first index at or
after the starting one that maps to it. -/
def emptyPhase (n start slot : Nat) : Bool :=
  let i := start + (slot + 2 ^ n - start % 2 ^ n) % 2 ^ n
  !(i % 2 ^ 32).testBit n

/-- No slot of a ring holds a packet; none where a slot cannot be read. -/
def State.ringEmpty (s : State) (ctx : Nat) (phys : Bool) (ring n start : Nat) : Option Bool :=
  (List.range (2 ^ n)).foldl (fun x j => x.bind fun ok =>
    (s.asKey ctx phys .read (ring + 64 * j)).map fun (k, coh, s) => ok && coh && (readByte s.mem (k + 1)).getLsbD 0 == emptyPhase n start j) (some true)

/-- The queue that a descriptor describes, under no number yet; none where R346 refuses it. -/
def queueOf (b : List Byte) (desc : Nat) (phys : Bool) : Option Queue :=
  let ring := field b 0 8
  let n := field b 8 1
  if desc % 64 = 0 ∧ 4 ≤ n ∧ n ≤ 16 ∧ field b 9 1 ≤ 31 ∧ ring % (64 * 2 ^ n) = 0 ∧ field b 14 2 ≤ 1 ∧ field b 24 8 = 0 ∧ field b 32 32 = 0 then
    some { num := 0, ctx := field b 12 2, desc := desc, phys := phys, ring := ring, n := n, level := field b 9 1
           idx := BitVec.ofNat 32 (field b 16 4), err := field b 14 2 == 1 }
  else none

/-- The local number of a queue on its home col: its own when it is registered again, else the least free one. -/
def State.queueNum (s : State) (old : Option Queue) (home : Nat) : Option Nat :=
  match old with
  | some q => some q.num
  | none => ((List.range 64).find? fun i => (s.queue? (home * 64 + i)).isNone).map fun i => home * 64 + i

/-- Registration, by a caller whose own context the descriptor must name, or by the host: the queue's number, or none where it is
refused. A queue of the same descriptor is registered again, unless a packet of it is in progress. -/
def State.register (s : State) (asp : Nat) (phys own : Bool) (desc : Nat) : Option (Nat × State) :=
  (s.asKey asp phys .write desc).bind fun (k, coh, s) =>
    (queueOf (readBytes s.mem k 64) desc phys).bind fun q =>
      let home := (s.ctxD q.ctx).chome % 48
      let old := s.queues.find? fun x => x.ctx == q.ctx && x.asp == asp && x.desc == desc && x.phys == phys
      if !coh || (own && q.ctx != asp) || (old.any fun x => x.ph != .idle) || s.ringEmpty asp phys q.ring q.n q.idx.toNat != some true then none
      else
        (s.queueNum old home).map fun num =>
          let s := s.storeBytes (.col home) true (k + 10) (toLE 2 num)
          let c := s.col home
          let s := s.setCol home { c with qdesc := if h : num % 64 < 64 then c.qdesc.set (num % 64) (BitVec.ofNat 64 desc) h else c.qdesc }
          (num, { s with queues := s.queues.filter (fun x => x.num != num) ++ [{ q with num := num, asp := asp }] })

def execQopen (s : State) : Out State :=
  callStep 0x43 s fun q _ c s =>
    let desc := q.arg64 0
    match s.userKeys c.ctx .write desc 64 with
    | none => some (s.answer q (-7))
    | some (_, s) =>
      match s.register c.ctx false true desc with
      | some (n, s) => some (s.answer q n)
      | none => some (s.answer q (-2))

/-! ### Host command blocks (R427) -/

/-- A command completes: its result in the block, the count of completed commands, the event. -/
def State.hostDone (s : State) (c : HostCmd) (x : Int) : State :=
  let s := s.storeBytes (.col 0) true (hostBase + c.at_ + 112) (toLE 4 c.tag ++ toLE 4 0 ++ toLE 8 (wrapTo 64 x))
  ({ s with mod := { s.mod with hcmds := s.mod.hcmds + 0x100000000 } } : State).hostEvent 0

/-! ### The steps of a packet (R30, R31, R348) -/

/-- The bytes that R347 leaves zero in a packet of a kind: offsets and lengths. -/
def zeroFields : Nat → List (Nat × Nat)
  | 1 => [(4, 4), (42, 22)]
  | 2 | 3 | 4 => [(4, 4), (24, 40)]
  | _ => [(4, 12), (32, 32)]

/-- A packet's header and zero bytes. -/
def packetOk (b : List Byte) : Bool :=
  let h := field b 0 4
  decide (h < 2 ^ 15) && decide (1 ≤ field b 0 1) && decide (field b 0 1 ≤ 5) && decide (bitsOf h 11 9 ≤ 6) && decide (bitsOf h 14 12 ≤ 6) &&
  (zeroFields (field b 0 1)).all fun z => field b z.1 z.2 == 0

/-- PKTSTART and PKTDONE (R388). -/
def State.tracePacket (s : State) (q : Queue) (kind status launch : Nat) : State :=
  s.traceCol q.ctx q.home kind (toLE 2 q.ctx ++ toLE 2 q.num ++ toLE 4 q.idx.toNat ++ toLE 1 q.kind ++ toLE 1 status ++ toLE 2 launch ++ toLE 4 0)

def QPhase.launch : QPhase → Nat
  | .taken n => n
  | .running n _ => n
  | _ => 0

/-- The level of a context: that of the highest queue with a RESUME in progress (R32). -/
def State.relevel (s : State) (ctx : Nat) : State :=
  let l := s.queues.foldl (fun m q => match q.ph with
    | .running _ _ => if q.ctx = ctx then max m q.level else m
    | _ => m) 0
  s.putCtx { s.ctxD ctx with clevel := BitVec.ofNat 64 l }

/-- The queue stops at its packet (R348). -/
def State.stopQueue (s : State) (q : Queue) (cause detail : Nat) : State :=
  let s := match s.qKey q .write q.desc with
    | some (k, _, s) => s.storeBytes (.col q.home) true (k + 14) (toLE 2 1 ++ (readBytes s.mem (k + 16) 4) ++ toLE 4 q.idx.toNat)
    | none => s
  let s := s.hostEvent 1
  let r : EvRec := { code := 0x24, cause := cause, flags := 32, ctx := q.ctx, seq := q.num, pc := q.idx.setWidth 64, d40 := BitVec.ofNat 64 detail
                     d56 := BitVec.ofNat 64 s.time }
  let s := if q.ph = .idle then s else s.tracePacket q 0x51 1 q.ph.launch
  let s := ((s.setQueue { q with err := true, ph := .idle, unreg := none }).deliver q.ctx r).countFault (q.home / 12) 0x24
  -- a removal that waited for the packet is over with it
  (q.unreg.map fun c => ({ s with queues := s.queues.filter fun x => x.num != q.num } : State).hostDone c 0).getD s

/-- A coherent store by the queue's col at REL: what it makes visible is what the col and the packet's groups have
stored, and the groups that those continue, at the scope relative to each (R31, R152). -/
def State.relStore (s : State) (q : Queue) (coh : Bool) (key : Nat) (bs : List Byte) : State :=
  let s := s.storeBytes (.col q.home) coh key bs
  if q.gids.isEmpty then s
  else
    { s with streams := s.streams.tag key bs.length (q.gids.flatMap fun p => (p.who :: assocD s.streams.kin p.who []).map fun w =>
      { party := p, writer := w, ver := s.streams.ver, scope := q.rel }) }

/-- SEMSIG at REL by the queue's col: none where the counter cannot be accessed yet. -/
def State.signal (s : State) (q : Queue) (va x : Nat) : Option State :=
  if va % 8 ≠ 0 then none
  else (s.ctxKey q.ctx .atomic va).map fun (k, coh, s) => s.relStore q coh k (toLE 8 (readLE s.mem k 8 + x))

/-- The packet in progress is done: REL, the completion signal, the read index (R348 steps 3 to 5). -/
def State.packetDone (s : State) (q : Queue) : Option State :=
  -- REL of a RESUME is relative to its groups; every access of theirs, and of their engines, has its place
  let s := if q.kind = 1 then s.placeAll else s.fenceStreams (.col q.home) q.rel
  let sig := if (q.kind = 1 ∨ q.kind = 5) ∧ q.word 16 ≠ 0 then s.signal q (q.word 16) (q.word 24) else some s
  sig.bind fun s =>
    (s.qKey q .write q.desc).map fun (k, coh, s) =>
      let s := s.relStore q coh (k + 16) (toLE 4 (q.idx + 1).toNat)
      let s := s.tracePacket q 0x51 0 q.ph.launch
      let s := s.setQueue { q with idx := q.idx + 1, ph := .idle, pkt := [], img := [], gids := [] }
      let s := if q.kind = 1 then s.relevel q.ctx else s
      match q.unreg with
      | some c => ({ s with queues := s.queues.filter fun x => x.num != q.num } : State).hostDone c 0
      | none => s

/-- The col reads the slot at the read index (R29, R30), and applies ACQ (R31). -/
def State.readSlot (s : State) (q : Queue) : State :=
  if q.err || q.ph != .idle || s.mod.boot != .ready then s
  else
    match s.qKey q .read (q.ring + 64 * (q.idx.toNat % 2 ^ q.n)) with
    | none => s
    | some (k, coh, s) =>
      let b := s.loadBytes (.col q.home) coh k 64
      if (field b 0 4).testBit 8 != q.idx.toNat.testBit q.n then s
      else if !packetOk b then s.stopQueue { q with pkt := b } 1 0
      else
        let s := s.learn (.col q.home) k 64
        let c := s.ctxD q.ctx
        let launch := if field b 0 1 = 1 then c.launches else 0
        let s := if field b 0 1 = 1 then s.putCtx { c with launches := (c.launches + 1) % 2 ^ 16 } else s
        let q := { q with pkt := b, ph := .taken launch }
        -- the scope of a RESUME is relative to the groups that it places
        let s := if q.kind = 1 then s else s.fenceStreams (.col q.home) q.acq
        (s.setQueue q).tracePacket q 0x50 0 launch

def execQueuePoll (s : State) : Out State :=
  match s.ev with
  | .nat n => .next (((s.queue? n).map s.readSlot).getD s)
  | _ => .next s

/-- A write to DBELL q (R427). -/
def execDbellWrite (s : State) : Out State :=
  match s.ev with
  | .nat n => .next (((s.queue? n).map s.readSlot).getD s)
  | _ => .next s

/-- The packet that a queue has taken, of a kind. -/
def packetStep (kind : Nat) (s : State) (k : Queue → Nat → State → State) : Out State :=
  match s.ev with
  | .nat n =>
    match s.queue? n with
    | none => .next s
    | some q =>
      match q.ph with
      | .taken launch => if q.kind = kind then .next (k q launch s) else .next s
      | _ => .next s
  | _ => .next s

def execSignalPacket (s : State) : Out State :=
  packetStep 2 s fun q _ s => (((s.fenceStreams (.col q.home) q.rel).signal q (q.word 8) (q.word 16)).bind fun t => t.packetDone q).getD s

def execMarkPacket (s : State) : Out State :=
  packetStep 4 s fun q _ s => ((s.traceCol q.ctx q.home 0x55 ((q.pkt.drop 8).take 16)).packetDone q).getD s

def execNotePacket (s : State) : Out State := packetStep 5 s fun q _ s => (s.packetDone q).getD s

/-! ### WAIT (R295, R348) -/

/-- The test of a queue's WAIT: the state when it succeeds, else the counter's key. -/
def State.testQueue (s : State) (q : Queue) (head : Nat → Bool) : Option (Bool × Nat × State) :=
  if q.word 8 % 8 ≠ 0 then none
  else
    (s.ctxKey q.ctx .atomic (q.word 8)).map fun (k, coh, s) =>
      let old := readLE s.mem k 8
      if head k && decide (q.word 16 ≤ old) then
        let s := s.learn (.col q.home) k 8
        (true, k, (s.storeBytes (.col q.home) coh k (toLE 8 (old - q.word 16))).fenceStreams (.col q.home) q.acq)
      else (false, k, s)

def execWaitPacket (s : State) : Out State :=
  packetStep 3 s fun q _ s =>
    match s.testQueue q fun k => s.waiters.all fun w => w.key != k with
    | none => s
    | some (true, _, t) => (t.packetDone q).getD s
    | some (false, k, t) =>
      (t.setQueue { q with ph := .waiting }).addWaiter
        { gid := none, queue := q.num, ridge := q.home, ctx := q.ctx, va := q.word 8, key := k, n := BitVec.ofNat 64 (q.word 16), slot := none, order := 0, since := 0 }

def execSemaphoreReevaluation (s : State) : Out State :=
  match s.ev with
  | .nat k =>
    match s.waiters.find? fun w => w.order == k with
    | none => .next s
    | some w =>
      match w.gid with
      | some id => .next (s.reevaluate w id)
      | none =>
        match s.queue? w.queue with
        | none => .next (s.dropWaiter w)
        | some q =>
          match s.testQueue q (s.isHead w) with
          | some (true, _, t) => .next (((t.dropWaiter w).packetDone q).getD s)
          | _ => .next s
  | _ => .next s

/-! ### Process-group tables (R356, R357) -/

/-- An entry of a table; none where it is malformed. -/
def memberOf (b : List Byte) : Option Member :=
  if 1 ≤ field b 28 1 ∧ field b 28 1 ≤ 16 ∧ field b 29 35 = 0 then
    some { ident := field b 0 8, addr := leBytes ((b.drop 8).take 16).reverse, port := field b 24 2, ctx := field b 26 2, paths := field b 28 1 }
  else none

/-- Lines of 64 bytes of a context's coherent memory; none where one cannot be read. -/
def State.lines64 (s : State) (ctx va n : Nat) : Option (List (List Byte)) :=
  (List.range n).foldl (fun x i => x.bind fun l =>
    match s.ctxKey ctx .read (va + 64 * i) with
    | some (k, true, s) => some (l ++ [readBytes s.mem k 64])
    | _ => none) (some [])

/-- A table's members and the module's rank; none where a check of R357 fails. -/
def State.readTable (s : State) (ctx va : Nat) : Option (Nat × List Member) :=
  if va % 64 ≠ 0 then none
  else
    (s.lines64 ctx va 1).bind fun h =>
      let b := h.headD []
      let n := field b 8 4
      if field b 0 4 ≠ 0x50475854 ∨ field b 4 4 ≠ 1 ∨ n = 0 ∨ 65536 < n ∨ field b 12 52 ≠ 0 then none
      else
        (s.lines64 ctx (va + 64) n).bind fun es =>
          let ms := es.filterMap memberOf
          let own := fun (m : Member) => m.ident == s.mod.modid.toNat
          if ms.length = n ∧ (ms.filter own).length = 1 then (ms.findIdx? own).map fun r => (r, ms) else none

/-- The RESUME's table becomes the context's, or none where the RESUME fails. -/
def State.takeTable (s : State) (ctx va : Nat) : Option State :=
  let c := s.ctxD ctx
  if va = 0 ∨ (c.table = va ∧ !c.members.isEmpty) then some s
  else if c.table ≠ 0 then none
  else (s.readTable ctx va).map fun (r, ms) => s.putCtx { c with table := va, rank := r, members := ms }

/-! ### Placement (R12, R22, R177, R249, R250, R283, R336, R422) -/

/-- A list from its k-th element on. -/
def rotated {α : Type} (k : Nat) (l : List α) : List α := l.drop (k % max 1 l.length) ++ l.take (k % max 1 l.length)

/-- Runs of free slice contexts for the groups of a team on a core, freely chosen (assumption 19): each group may go to the
given quadrants, keeps a remainder, and takes a number of slices. None where they do not all fit. -/
def placeRuns (s : State) (core rwidth : Nat) : List (List Nat × Nat × Nat) → List (Nat × Nat × Nat) → Option (List (Nat × Nat))
  | [], _ => some []
  | (quads, was, n) :: r, taken =>
    let clear := fun (q f : Nat) => taken.all fun t => t.1 != q || decide (t.2.1 + t.2.2 ≤ f) || decide (f + n ≤ t.2.1)
    let free := quads.flatMap fun q => ((s.freeSlices core q n).filter fun f => rootAligned rwidth f was && clear q f).map fun f => (q, f)
    (rotated (Config.choose s.tick (2900 + taken.length)) free).findSome? fun x => (placeRuns s core rwidth r ((x.1, x.2, n) :: taken)).map (x :: ·)

/-- What a cluster asks of the ridge: its shape, and each team's position in it with the test of a core. -/
structure Demand where
  cx : Nat
  cy : Nat
  teams : List (Nat × (Nat → Bool))

/-- The cores of a rectangle of a ridge, by rows. -/
def rect (ridge ox oy cx cy : Nat) : List Nat := (List.range cy).flatMap fun y => (List.range cx).map fun x => 12 * ridge + 4 * (oy + y) + ox + x

def rects (cx cy : Nat) : List (List Nat) :=
  (List.range 48).flatMap fun r => (List.range (5 - cx)).flatMap fun ox => (List.range (4 - cy)).map fun oy => rect r ox oy cx cy

/-- A cluster fits on the cores of a rectangle. -/
def Demand.fits (d : Demand) (taken cores : List Nat) : Bool :=
  d.teams.all fun t => match cores[t.1]? with
    | some c => !taken.contains c && t.2 c
    | none => false

/-- Rectangles for clusters, freely chosen (assumption 19): none where the clusters do not all fit. -/
def planFrom (tick : Nat) : List Demand → Nat → List Nat → Option (List (List Nat))
  | [], _, _ => some []
  | d :: r, i, taken =>
    (rotated (Config.choose tick (3000 + i)) ((rects d.cx d.cy).filter (d.fits taken))).findSome? fun cores =>
      (planFrom tick r (i + 1) (taken ++ cores)).map (cores :: ·)

/-- A core on which a team of a context may be placed: not fenced, holding no team of it. -/
def State.coreOpen (s : State) (ctx core : Nat) : Bool :=
  !s.fencedCore core && !(s.teams.any fun t => t.core == core && t.ctx == ctx && !t.retired)

/-- ACQ of a packet before a group that it places issues: what others have published and the col has read, within the scope
relative to the group (R31). -/
def State.acquire (s : State) (q : Queue) (id : Nat) : State :=
  if s.streams.hist.isEmpty then s
  else
    let me := s.party (.group id)
    let ps := (assocD s.streams.seen (.col q.home) []).filter fun p => Party.within q.acq me p.party && Party.within p.scope p.party me
    { s with streams := ps.foldl (fun st p => st.know (.group id) p.writer p.ver) s.streams }

/-- The lines of code that a core holds of a context (R48). -/
def State.flushCode (s : State) (core ctx : Nat) : State := { s with icache := s.icache.filter fun l => !(l.owner == core && l.ctx == ctx) }

/-! ### A fresh launch (R28, R338) -/

/-- Vector registers of a group at launch: the image gives them no value, so they are free. -/
def launchLane (tick pos : Nat) : Lane :=
  { v := Vector.ofFn fun i => (Config.random tick (pos * 128 + i.val)).setWidth 32
    q := Vector.ofFn fun i => (Config.random tick (pos * 128 + 64 + i.val)).setWidth 32
    stg := Vector.replicate 4 0 }

/-- A context's shape as an initial image describes it, beyond what every header must hold. -/
def initialOk (b : List Byte) : Bool :=
  let w := widthOf (field b 8 1)
  decide (1 ≤ field b 9 1) && decide (field b 9 1 ≤ 32) && decide (field b 9 1 * w ≤ 1024) && decide (field b 10 1 ≤ 4) && decide (field b 11 1 ≤ 3) &&
  decide (1 ≤ field b 20 4) && decide (field b 12 4 + field b 16 4 ≤ Config.coreSpad) && field b 44 12 == 0

/-- The runs that the root groups of a team ask for. -/
def rootRuns (c : Context) : List (List Nat × Nat × Nat) := List.replicate c.nroot ([0, 1, 2, 3], 0, 2 ^ c.rwidth)

def State.rootFits (s : State) (c : Context) (core : Nat) : Bool :=
  s.coreOpen c.ctx core && (s.teamRoom c core).isSome && (placeRuns s core 0 (rootRuns c) []).isSome

/-- A cluster of a fresh launch. -/
def State.rootDemand (s : State) (c : Context) : Demand :=
  { cx := c.cx, cy := c.cy, teams := (List.range (c.cx * c.cy)).map fun i => (i, s.rootFits c) }

/-- The most rectangles of a list that stand beside each other. -/
def packing : List (List Nat) → List Nat → Nat
  | [], _ => 0
  | r :: rs, taken => max (packing rs taken) (if r.any taken.contains then 0 else 1 + packing rs (taken ++ r))

/-- The most clusters of a shape that the module can hold at once, beside its fenced cores (R422). -/
def State.maxClusters (s : State) (c : Context) : Nat :=
  (List.range 48).foldl (fun n r => n + packing ((rects c.cx c.cy).filter fun x =>
    x.all fun core => core / 12 == r && !s.fencedCore core) []) 0

/-- A root group of an initial image. -/
def rootGroup (c : Context) (t : Team) (b : List Byte) (tick id r quad slice0 : Nat) : Group :=
  let w := widthOf c.rwidth
  { id := id, ctx := t.ctx, tlin := t.tlin, core := t.core, quad := quad, slice0 := slice0, root := r, home := r * w
    pc := pcOf (BitVec.ofNat 64 (field b 24 8)), sregs := Vector.ofFn fun i => BitVec.ofNat 64 (field b (64 + 8 * i.val) 8)
    lanes := (List.range w).map fun l => launchLane tick (id * 64 + l)
    gmode := BitVec.ofNat 32 (field b 32 4), fctl := BitVec.ofNat 32 (field b 36 4) &&& modeBits 3, pri := BitVec.ofNat 3 (field b 42 1)
    launch := t.launch, pktQueue := t.pktQueue, pktIdx := t.pktIdx, entry := true }

/-- A team of a fresh launch with its root groups on a core. -/
def State.launchTeam (s : State) (q : Queue) (launch : Nat) (c : Context) (b : List Byte) (pos core : Nat) : State :=
  match s.teamRoom c core with
  | none => s
  | some (base, lent) =>
    let (n, s) := s.placeAll.fresh
    let t := { freshTeam c n pos core base lent with launch := launch, pktQueue := q.num, pktIdx := q.idx.toNat }
    let s := { (s.useIsland core) with teams := s.teams ++ [t] }
    let s := if 2 ≤ q.acq then s.flushCode core c.ctx else s
    let runs := (placeRuns s core 0 (rootRuns c) []).getD []
    (runs.mapIdx fun r x => (r, x)).foldl (fun (s : State) p =>
      let id := s.nextGroup
      let g := rootGroup c t b s.tick id p.1 p.2.1 p.2.2
      let s : State := { s with nextGroup := id + 1, groups := s.groups ++ [g] }
      ((s.claim g).acquire q id).tracePlace g 0) s

/-- The clusters of a plan, from a cluster index on. -/
def State.launchClusters (s : State) (q : Queue) (launch : Nat) (c : Context) (b : List Byte) (first : Nat) (plan : List (List Nat)) : State :=
  (plan.mapIdx fun i cores => (i, cores)).foldl (fun s p =>
    ((p.2.mapIdx fun j core => (j, core)).foldl (fun s x => s.launchTeam q launch c b ((first + p.1) * (c.cx * c.cy) + x.1) x.2) s).linkCluster
      c.ctx launch (first + p.1)) s

/-- A request of chip scratchpad, rounded up (R117). -/
def roundChip (ask : Nat) : Nat := (ask + 65535) / 65536 * 65536

/-- The context is on no core and holds regions that a context of a level may have: its teams have ended, or the service
kernel has saved it for a higher level (R335 step 4). -/
def State.chipIdle (s : State) (level : Nat) (x : Context) : Bool :=
  x.ksize != 0 && x.kout.isNone && !s.holdsCores x.ctx && (!s.keepsChip x || (x.kstop && decide (x.clevel.toNat < level)))

/-- Where n bytes of chip scratchpad on every die stand for a context of a level that is to be placed, and the contexts whose
regions are reclaimed for it. A context that is placed keeps what it holds (R117). -/
def State.chipPlan (s : State) (c : Context) (level n : Nat) : Option (Nat × List Context) :=
  if c.kout.isNone && decide (n ≤ c.ksize.toNat) then some (c.kbase, [])
  else if c.kout.isNone && s.keepsChip c then none
  else
    match s.freeChip c.ctx n fun _ => true with
    | some k => some (k, [])
    | none => (s.freeChip c.ctx n fun x => !s.chipIdle level x).map fun k =>
        (k, s.contexts.filter fun x => x.ctx != c.ctx && s.chipIdle level x && decide (x.kbase < k + n) && decide (k < x.kbase + x.ksize.toNat))

/-- A context's regions by die, from their bytes of m a die. -/
def State.fillChip (s : State) (c : Context) (m : Nat) (b : List Byte) : State :=
  { s with mem := (List.range 4).foldl (fun x d => writeBytes x (chipKey d c.kbase) (((b.drop (d * m)).take m).take c.ksize.toNat)) s.mem }

/-- The chip scratchpad of a context that is to be placed (R117): none while there is no room. -/
def State.grantChip (s : State) (c : Context) (level n : Nat) : Option State :=
  (s.chipPlan c level n).map fun p =>
    if c.kout.isNone && decide (n ≤ c.ksize.toNat) then s.putCtx c
    else
      let s := p.2.foldl (fun s x => s.putCtx { x with kout := some (s.chipBody x) }) s
      let c' := { c with ksize := BitVec.ofNat 64 n, kbase := p.1, kout := none }
      (s.putCtx c').fillChip c' c.ksize.toNat (c.kout.getD [])

/-- Lane-private memory of a context, mapped where it is not (R113). -/
def State.mapPrivate (s : State) (c : Context) : State :=
  if c.psize = 0 then s
  else
    let n := (c.clusters * c.cx * c.cy * 1024 * c.psize.toNat + 4095) / 4096
    (List.range n).foldl (fun s i =>
      let va := c.pbase.toNat / 4096 * 4096 + 4096 * i
      if s.unmapped c.ctx va then (s.mapPages c 1 va 1).getD s else s) s

/-- PBASE, chosen when the context is first placed with private memory (R113). -/
def choosePbase (tick : Nat) (c : Context) : Context :=
  if c.psize = 0 ∨ c.pbase ≠ 0 then c else { c with pbase := BitVec.ofNat 64 ((1 + Config.choose tick 3999 % 2 ^ 40) * 4096) }

/-! ### Saving and restoring (R334-R336) -/

/-- A team as the service kernel saves it. -/
def State.saveTeam (s : State) (t : Team) : Saved :=
  { ctx := t.ctx, pos := t.pos, cx := t.cx, cy := t.cy, lent := t.lent, rwidth := t.rwidth, alloc := t.size, tcnt := t.tcnt, bcnt := t.bcnt
    launch := t.launch, pktQueue := t.pktQueue, pktIdx := t.pktIdx, body := s.teamBody t t.lent
    groups :=
      ((s.groupsOf t).map fun g =>
        { quad := g.quad, slice0 := g.slice0, slices := g.slices, body := s.groupBody g, audTag := g.audTag, audOrd := g.audOrd
          calls := s.sys.filter fun (q : SysReq) => q.gid == g.id }) ++
      t.phases.map fun p =>
        { quad := 0, slice0 := p.grp.slice0, slices := 0, phase := some p.slot, body := s.phaseBody p, audTag := 0, audOrd := 0 } }

/-- The key slot of a context's saves: its own, or none for one that is not protected (R343, R345). -/
def State.slotOf (s : State) (ctx : Nat) : Nat :=
  if s.protected? ctx then ((List.range 1024).find? fun i => (s.key i).valid && (s.key i).owner == ctx && i != 0).getD 0 else 0

/-- KEYSEL by a col of the service kernel. -/
def State.keyStep (s : State) (n mode slot : Nat) : State := ((s.keysel n (if slot = 0 ∧ mode ≠ 2 then 3 else mode) slot).map Prod.snd).getD s

/-- The cols of ridges, other than a home col, select a slot as the home col sends it to them (R335 step 2). -/
def State.takePart (s : State) (home slot : Nat) (ridges : List Nat) : State :=
  ((ridges.filter (· != home)).eraseDups).foldl (fun s n => s.keyStep n 1 slot) s

/-- The places of a context that the service kernel has stopped are saved and released, in the order of R335. Where the kernel
keeps the sections it does not say (assumption 12). -/
def State.evictCtx (s : State) (ctx : Nat) : State :=
  let c := s.ctxD ctx
  let home := c.chome % 48
  let s := (s.keyStep home 0 (s.slotOf ctx)).takePart home (s.slotOf ctx) ((s.teams.filter fun t => t.ctx == ctx && !t.retired).map fun t => t.core / 12)
  let out := (s.teams.filter fun t => t.ctx == ctx && !t.retired).map s.saveTeam
  let s := s.traceImage home 0x53 ctx 0 (headSections (s.ctxBody c)) (s.key (s.slotOf ctx)).ctr.toNat
  let s := s.releasePlaces ctx
  { (s.putCtx { s.ctxD ctx with away := c.away }) with saved := s.saved ++ out }

/-- The context as a saved team needs it: its own shape and counts. -/
def Saved.shape (v : Saved) (c : Context) : Context :=
  { c with cx := v.cx, cy := v.cy, lent := v.lent, rwidth := v.rwidth, alloc := v.alloc, tcnt := v.tcnt, bcnt := v.bcnt }

/-- The runs that a saved team's groups ask for: the quadrants keep their numbers (R250). -/
def Saved.runs (v : Saved) : List (List Nat × Nat × Nat) := (v.groups.filter fun g => g.phase.isNone).map fun g => ([g.quad], g.slice0, g.slices)

/-- The bytes of a saved team's phase records. -/
def Saved.reserve (v : Saved) : Nat :=
  (v.groups.filter fun g => g.phase.isSome).foldl (fun n g =>
    let r := g.body.drop 128
    n + phaseSize (widthOf (field r 33 1 % 8)) (BitVec.ofNat 64 (field r 8 8)) ((field r 33 1).testBit 3)) 0

def State.savedFits (s : State) (c : Context) (v : Saved) (core : Nat) : Bool :=
  s.coreOpen c.ctx core && (s.teamRoom (v.shape c) core).isSome && (placeRuns s core v.rwidth v.runs []).isSome &&
  decide (v.alloc + v.lent + v.reserve ≤ s.reserveFree core)

/-- Saved teams by cluster: teams of one launch and cluster index. -/
def clustersOf : List Saved → List (List Saved)
  | [] => []
  | v :: r =>
    let key := fun (x : Saved) => (x.launch, x.pktQueue, x.pos / max 1 (x.cx * x.cy))
    match clustersOf r with
    | [] => [[v]]
    | g :: gs => if (g.head?.map key) = some (key v) then (v :: g) :: gs else [v] :: g :: gs

/-- Clusters whose teams do not stand together are brought together. -/
def bySaved (vs : List Saved) : List (List Saved) :=
  clustersOf (sortBy (fun x y =>
    decide (x.pktQueue < y.pktQueue) || (x.pktQueue == y.pktQueue && (decide (x.launch < y.launch) || (x.launch == y.launch && decide (x.pos ≤ y.pos))))) vs)

def State.savedDemand (s : State) (c : Context) (vs : List Saved) : Demand :=
  let cx := (vs.head?.map (·.cx)).getD 1
  let cy := (vs.head?.map (·.cy)).getD 1
  { cx := cx, cy := cy, teams := vs.map fun v => (v.pos % max 1 (cx * cy), s.savedFits c v) }

/-- The cores of the clusters of saved teams. -/
def State.savedPlan (s : State) (c : Context) (vs : List Saved) : Option (List (List Nat)) :=
  planFrom s.tick ((bySaved vs).map (s.savedDemand c)) 0 []

/-- The lent parts of the teams of a cluster that have retired stand on the cores of their positions (R116). -/
def State.lendMissing (s : State) (v : Saved) (cores : List Nat) : State :=
  let clu := v.pos / max 1 (v.cx * v.cy)
  let s := s.linkCluster v.ctx v.launch clu
  let same := fun (t : Team) => t.ctx == v.ctx && t.launch == v.launch && t.clu == clu && !t.retired
  if v.lent = 0 then s
  else
    (List.range (v.cx * v.cy)).foldl (fun (s : State) i =>
      if s.teams.any fun t => same t && t.idx == i then s
      else
        match cores[i]?.bind fun core => (s.freeSpad core v.lent).map fun b => (core, b) with
        | none => s
        | some p => { s with teams := s.teams.map fun t => if same t then { t with parts := t.parts.set i p } else t }) s

/-- A saved group is loaded for its team, on its run. -/
def State.restoreGroup (s : State) (q : Option Queue) (tnum : Nat) (run : Nat × Nat) (g : SavedGrp) : State :=
  match s.teams.find? fun t => t.tlin == tnum with
  | none => s
  | some t =>
    match g.phase with
    | some slot => s.loadPhase t slot g.body
    | none =>
      let id := s.nextGroup
      let s := s.loadGroup t run.1 run.2 g.body
      let s := (q.map fun q => s.acquire q id).getD s
      let s := match s.group? id with
        | some x => s.setGroup { x with audTag := g.audTag, audOrd := g.audOrd }
        | none => s
      if g.calls.isEmpty then s
      else { s with sys := (s.sys.filter fun (q : SysReq) => q.gid != id) ++ g.calls.map fun (q : SysReq) => { q with gid := id } }

/-- Saved teams stand on the cores of a plan again, and their groups after them. For a packet, ACQ of team or wider empties
the instruction caches of their cores (R31). -/
def State.restoreTeams (s : State) (q : Option Queue) (c : Context) (vs : List Saved) (plan : List (List Nat)) : State :=
  let todo := ((bySaved vs).zip plan).flatMap fun p => p.1.map fun v => (v, p.2.getD (v.pos % max 1 (v.cx * v.cy)) 0)
  let (gs, s) := todo.foldl (fun (x : List (Nat × (Nat × Nat) × SavedGrp) × State) p =>
    let s := x.2
    let v := p.1
    let runs := (placeRuns s p.2 v.rwidth v.runs []).getD []
    let res := (v.groups.filter fun g => g.phase.isNone).zip runs
    match s.placeTeam (v.shape c) p.2 v.body with
    | none => x
    | some (t, s) =>
      let s := (s.setTeam { t with launch := v.launch, pktQueue := v.pktQueue, pktIdx := v.pktIdx }).useIsland p.2
      let s := if q.any fun q => decide (2 ≤ q.acq) then s.flushCode p.2 c.ctx else s
      (x.1 ++ res.map (fun r => (t.tlin, r.2, r.1)) ++ (v.groups.filter fun g => g.phase.isSome).map (fun g => (t.tlin, (0, 0), g)), s)) ([], s)
  let s := ((bySaved vs).zip plan).foldl (fun s p => (p.1.head?.map fun v => s.lendMissing v p.2).getD s) s
  gs.foldl (fun s g => s.restoreGroup q g.1 g.2.1 g.2.2) s

/-! ### Pre-emption (R32, R36) -/

/-- A soft stop by the service kernel, for its own ends. -/
def State.kernelStop (s : State) (ctx : Nat) : State :=
  let s := s.softStop ctx (s.col ((s.ctxD ctx).chome % 48)).rsoft.toNat
  s.putCtx { s.ctxD ctx with kstop := true }

/-- The part without some contexts' teams and groups. -/
def State.without (s : State) (cs : List Nat) : State :=
  { s with teams := s.teams.filter fun t => !cs.contains t.ctx, groups := s.groups.filter fun g => !cs.contains g.ctx }

/-- A pre-emption is under way. -/
def State.preempting (s : State) : Bool := s.contexts.any fun c => c.kstop && (c.stop != .stopped || s.holdsCores c.ctx)

/-- The contexts of a list, highest first, without which a packet fits, but for those that it does not need. -/
def State.inTheWay (s : State) (fits : State → Bool) : List Context → List Context → List Context
  | [], keep => keep
  | c :: r, keep => s.inTheWay fits r (if fits (s.without ((r ++ keep).map (·.ctx))) then keep else c :: keep)

/-- A packet that does not fit has contexts below its level stopped, one at a time, lowest level first (R32): of the fewest of
the lowest ones without which it fits, those that each place for it needs. Among contexts of one level the order is the service
kernel's (assumption 19). -/
def State.preempt (s : State) (level : Nat) (fits : State → Bool) : State :=
  if s.preempting || fits s then s
  else
    let low := sortBy (fun x y => decide (x.clevel.toNat < y.clevel.toNat) ||
        (x.clevel == y.clevel && decide (Config.choose 0 (4000 + x.ctx) ≤ Config.choose 0 (4000 + y.ctx))))
      (s.contexts.filter fun c => decide (c.clevel.toNat < level) && c.stop == .none && s.holdsCores c.ctx)
    match (List.range low.length).find? fun i => fits (s.without ((low.take (i + 1)).map (·.ctx))) with
    | none => s
    | some i =>
      match s.inTheWay fits (low.take (i + 1)).reverse [] with
      | [] => s
      | c :: _ => s.kernelStop c.ctx

/-! ### RESUME (R348) -/

/-- Bytes of an image from an address; none where a page is not there, or is not one for a protected context (R328). -/
def State.readRun (s : State) (ctx va len : Nat) : Option (List Byte) :=
  ((List.range ((len + 127) / 128)).foldl (fun x i => x.bind fun (l : List Byte) =>
    match (s.translate ctx false .read (va + 128 * i)).1 with
    | .ok k e => if s.protected? ctx && !ptePctx e then none else some (l ++ readBytes s.mem k 128)
    | _ => none) (some [])).map (·.take len)

/-- The slot of a RESUME packet. -/
def Queue.slot (q : Queue) : Nat := field q.pkt 40 2

/-- KEYSEL.load of a packet's slot by its col: none for a slot that cannot be selected. -/
def State.selectSlot (s : State) (q : Queue) : Option State := (s.keysel q.home (if q.slot = 0 then 3 else 1) q.slot).map Prod.snd

/-- Why a section of an image fails, its index and its save counter. -/
abbrev BadSection := Nat × Nat × Nat

/-- A RESUME whose image fails: the restore's record, the owner's, and the stop of the queue (R331, R336, R348). -/
def State.restoreFails (s : State) (q : Queue) (e : BadSection) : State :=
  let s := s.traceImage q.home 0x54 q.ctx e.1 0 e.2.2
  (s.deliver q.ctx (imageRecord q.ctx e.1 e.2.1 s.time)).stopQueue q 2 e.1

/-- The sections of a saved image after its header, whose context gives their lengths, checked in order: the kind, the object's
handle and the body of each. A chip-scratchpad section may hold more than the header asks for, as was granted (R117). -/
def State.sections (s : State) (q : Queue) (c : Context) : Nat → Nat → Option (Except BadSection (List (Nat × Hnd × List Byte)))
  | 0, _ => some (.ok [])
  | k + 1, va =>
    (s.readRun q.ctx va 64).bind fun h =>
      let len := field h 8 4
      let kind := field h 4 1 - 1
      let bad := fun (e : Nat) => some (.error (e, field h 12 4, field h 16 8))
      let c' := if kind = 3 ∧ len % 262144 = 0 ∧ c.ksize.toNat ≤ len / 4 then { c with ksize := BitVec.ofNat 64 (len / 4) } else c
      if 2 ^ 28 < len ∨ kind = 0 ∨ 3 < kind then bad 3
      else
        (s.readRun q.ctx va (80 + len)).bind fun b =>
          match s.openSection q.home kind c' b with
          | .error e => bad e
          | .ok p =>
            if kind = 1 ∧ !(teamOfBody (freshTeam c 0 0 0 0 0) p).winsOk then bad 5
            else
              (State.sections s q c k (va + (80 + len + 127) / 128 * 128)).map fun r =>
                match r with
                | .error e => .error e
                | .ok l => .ok ((kind, Hnd.of (BitVec.ofNat 64 (field h 32 8)), p) :: l)

/-- A group section belongs to the last team section before it whose core at the save was the same (assumption 27). -/
def savedOf (c : Context) (q : Queue) (launch : Nat) (l : List (Nat × Hnd × List Byte)) : List Saved :=
  (l.foldl (fun (acc : List (Nat × Saved)) x =>
    match x.1 with
    | 1 =>
      (x.2.1.core, { ctx := c.ctx, pos := field x.2.2 0 4, cx := c.cx, cy := c.cy, lent := c.lent, rwidth := c.rwidth, alloc := c.alloc, tcnt := c.tcnt
                     bcnt := c.bcnt, launch := launch, pktQueue := q.num, pktIdx := q.idx.toNat, body := x.2.2, groups := [] }) :: acc
    | 2 =>
      let b := x.2.2
      let g : SavedGrp :=
        { quad := field b 2 1 % 4, slice0 := field b 3 1 % 64, slices := widthOf (field (b.drop 128) 33 1 % 8) / 4
          phase := if field b 0 1 = 14 then some (x.2.1.gnum % 64) else none, body := b, audTag := 0, audOrd := 0 }
      match acc.findIdx? fun p => p.1 == x.2.1.core with
      | some i => acc.mapIdx fun j p => if j == i then (p.1, { p.2 with groups := p.2.groups ++ [g] }) else p
      | none => acc
    | _ => acc) []).reverse.map Prod.snd

/-- The packet's groups run. -/
def State.startRun (s : State) (q : Queue) (launch next : Nat) (b : List Byte) : State :=
  let s := s.setQueue { q with ph := .running launch next, img := b }
  let home := (s.ctxD q.ctx).chome % 48
  let c := s.ctxD q.ctx
  (s.putCtx { c with slice := s.time, sliceLen := (s.col home).rslice.toNat }).relevel q.ctx

/-- A RESUME of an initial image: as many of its clusters as the module can hold at once are placed together. -/
def State.resumeFresh (s : State) (q : Queue) (launch : Nat) (b : List Byte) : State :=
  if !initialOk b then s.restoreFails q (3, 0, 0)
  else
    let old := s.ctxD q.ctx
    if old.stop ≠ .none then s
    else
      let c := choosePbase s.tick (ctxOfBody old b)
      let n := roundChip (field b 60 4)
      let k := min c.clusters (s.maxClusters c)
      let plan := fun (s : State) => planFrom s.tick (List.replicate k (s.rootDemand c)) 0 []
      match plan s, s.grantChip c q.level n with
      | some p, some t =>
        let c := t.ctxD c.ctx
        (((t.mapPrivate c).launchClusters q launch c b 0 p).keyStep q.home 2 q.slot).startRun q launch k b
      | _, _ => s.preempt q.level fun s => (plan s).isSome && (s.chipPlan c q.level n).isSome

/-- The body of an image's chip-scratchpad section. -/
def chipSection (l : List (Nat × Hnd × List Byte)) : List Byte := ((l.find? fun x => x.1 == 3).map fun x => x.2.2).getD []

/-- A RESUME of a saved image (R336): every section is checked before any is loaded. -/
def State.resumeSaved (s : State) (q : Queue) (launch : Nat) (b : List Byte) : State :=
  let c := ctxOfBody (s.ctxD q.ctx) b
  let ask := roundChip (field b 60 4)
  if s.holdsCores q.ctx || c.kstop then s
  else
    match s.sections q { c with ksize := BitVec.ofNat 64 ask } (field b 44 4 + field b 48 4 + field b 52 4) (q.word 8 + 512) with
    | none => s
    | some (.error e) => s.restoreFails q e
    | some (.ok l) =>
      let vs := savedOf c q launch l
      let chip := chipSection l
      let n := max ask (chip.length / 4)
      match s.savedPlan c vs, s.grantChip { c with away := [] } q.level n with
      | some plan, some t =>
        let c := t.ctxD c.ctx
        let t := t.takePart q.home q.slot (plan.flatten.map (· / 12))
        let s := ((t.restoreTeams (some q) c vs plan).fillChip c (chip.length / 4) chip).keyStep q.home 2 q.slot
        ((s.traceImage q.home 0x54 q.ctx 0 (headSections b) (s.key q.slot).ctr.toNat).resumeIssue q.ctx).startRun q launch c.clusters b
      | _, _ => s.preempt q.level fun s => (s.savedPlan c vs).isSome && (s.chipPlan c q.level n).isSome

/-- The last team of a running packet has retired (R30): none is on the part, saved, or away. -/
def State.launchOver (s : State) (q : Queue) (launch : Nat) : Bool :=
  !(s.teams.any fun t => t.ctx == q.ctx && t.launch == launch && t.pktQueue == q.num && !t.retired) &&
  !(s.saved.any fun v => v.ctx == q.ctx && v.launch == launch && v.pktQueue == q.num) &&
  !((s.ctxD q.ctx).away.any fun p => p.2.1 == launch && p.2.2.1 == q.num)

/-- The context's header as the packet's image holds it, opened; or why it cannot be. -/
def State.openHead (s : State) (q : Queue) : Option (Except BadSection (List Byte)) :=
  if q.word 8 % 128 ≠ 0 then some (.error (3, 0, 0))
  else
    (s.readRun q.ctx (q.word 8) 400).map fun b =>
      let e := if field b 12 4 ≠ 0 then .error 3 else s.openSection q.home 0 (s.ctxD q.ctx) b
      match e with
      | .error c => .error (c, field b 12 4, field b 16 8)
      | .ok p => if (field p 0 1).testBit 1 != s.protected? q.ctx then .error (3, 0, field b 16 8) else .ok p

/-- One step of a RESUME packet: it is placed, a further cluster of it is placed, or it completes. -/
def State.resumePacket (s : State) (q : Queue) : State :=
  match q.ph with
  | .taken launch =>
    match s.selectSlot q with
    | none => s.restoreFails q (4, 0, 0)
    | some s =>
      match s.openHead q with
      | none => s
      | some (.error e) => s.restoreFails q e
      | some (.ok b) =>
        match s.takeTable q.ctx (q.word 32) with
        | none => s.stopQueue q 3 0
        | some s => if (field b 0 1).testBit 0 then s.resumeFresh q launch b else s.resumeSaved q launch b
  | .running launch next =>
    let b := q.img
    if !(field b 0 1).testBit 0 || decide (field b 20 4 ≤ next) then (if s.launchOver q launch then (s.packetDone q).getD s else s)
    else
      let c := ctxOfBody (s.ctxD q.ctx) b
      if c.stop ≠ .none then s
      else
        let plan := fun (s : State) => planFrom s.tick [s.rootDemand c] 0 []
        match plan s with
        | some p => (s.launchClusters q launch c b next p).setQueue { q with ph := .running launch (next + 1) }
        | none => s.preempt q.level fun s => (plan s).isSome
  | _ => s

def execResumePacket (s : State) : Out State :=
  match s.ev with
  | .nat n =>
    match s.queue? n with
    | some q => if q.kind = 1 then .next (s.resumePacket q) else .next s
    | none => .next s
  | _ => .next s

/-! ### CCMD 3 and 4 by the service kernel (R317, R335, R336) -/

/-- Issue resumes; what the service kernel has saved of the context stands on cores again first (R336). -/
def State.restoreCtx (s : State) (ctx : Nat) : Option State :=
  match s.saved.filter fun v => v.ctx == ctx with
  | [] => some (s.resumeIssue ctx)
  | v :: vs =>
    let c := s.ctxD ctx
    match s.savedPlan c (v :: vs), s.grantChip c c.clevel.toNat c.ksize.toNat with
    | some plan, some t =>
      let home := c.chome % 48
      let slot := t.slotOf ctx
      let s := (({ t with saved := t.saved.filter fun v => v.ctx != ctx } : State).keyStep home 1 slot).takePart home slot (plan.flatten.map (· / 12))
      let s := (s.restoreTeams none (s.ctxD ctx) (v :: vs) plan).keyStep home 2 slot
      let s := (s.traceImage home 0x54 ctx 0 (headSections (s.ctxBody (s.ctxD ctx))) (s.key slot).ctr.toNat).resumeIssue ctx
      some (s.putCtx { s.ctxD ctx with slice := s.time, sliceLen := (s.col home).rslice.toNat })
    | _, _ => none

def execResumeIssue (s : State) : Out State :=
  match s.ev with
  | .nat ctx => if (s.ctxD ctx).stop = .stopped then .next ((s.restoreCtx ctx).getD s) else .next (s.resumeIssue ctx)
  | _ => .next s

/-- The places are released; the service kernel saves the context first when the stop is its own. -/
def execReleasePlaces (s : State) : Out State :=
  match s.ev with
  | .nat ctx =>
    let c := s.ctxD ctx
    if c.stop = .stopped ∧ c.kstop then .next (s.evictCtx ctx) else .next (s.releasePlaces ctx)
  | _ => .next s

/-! ### Time slices (R32) -/

/-- The slice of a running context is over. -/
def State.sliceDue (s : State) (c : Context) : Bool :=
  c.stop == .none && s.holdsCores c.ctx && decide (s.time ≥ c.slice + 16 * c.sliceLen)

/-- A packet has clusters that are not placed. -/
def Queue.unplaced (q : Queue) : Bool :=
  q.kind == 1 && match q.ph with
    | .taken _ => true
    | .running _ next => (field q.img 0 1).testBit 0 && decide (next < field q.img 20 4)
    | _ => false

/-- Another context of a level waits for cores: it has a packet with clusters not placed, or the kernel has saved it. -/
def State.rivals (s : State) (ctx level : Nat) : Bool :=
  (s.queues.any fun q => q.ctx != ctx && q.level == level && q.unplaced) ||
  s.saved.any fun v => v.ctx != ctx && (s.ctxD v.ctx).kstop && (s.ctxD v.ctx).clevel.toNat == level

def execTimeSliceExpiry (s : State) : Out State :=
  match s.ev with
  | .nat ctx =>
    let c := s.ctxD ctx
    if !s.sliceDue c then .next s
    else if s.rivals ctx c.clevel.toNat && !s.preempting then .next (s.kernelStop ctx)
    else .next (s.putCtx { c with slice := s.time })
  | _ => .next s

end Sys2Proof.Machine
end

