-- ==== Sys2Proof/Machine/Issue.lean ====
section
/-! DEFINITION. The issue unit of a quadrant (R33-R35, R183-R185): which ready groups issue in a cycle. -/

namespace Sys2Proof.Machine

/-- The issue key (R33), which is 0 after YIELD (R188). -/
def State.issueKey (s : State) (g : Group) : Nat :=
  if g.yielded then 0 else (s.ctxD g.ctx).clevel.toNat * 8 + g.pri.toNat

/-- The next instruction of a group is of the scalar unit or the sequencer (R183); a short form by its opcode. -/
def State.noLanes (s : State) (g : Group) : Bool :=
  match s.peek g with
  | some p => if p.short then decide (p.grp < 0x20) else decide (p.grp ≤ 1)
  | none => false

/-- The lanes that the next instruction of a group takes; a group of width 64 takes 32 in each of two cycles. -/
def State.lanesNeeded (s : State) (g : Group) : Nat := if s.noLanes g then 0 else min 32 g.width

def State.inQuad (s : State) (q : Nat) : List Group := s.groups.filter fun g => g.core * 4 + g.quad == q

/-- The ready group has not issued for the cycles that it may wait (R35). -/
def Group.due (g : Group) : Bool := decide (0 < g.bound) && decide (g.bound ≤ g.waited)

/-- Arbitrations lost in a row for a register bank (0-7) or for a collector (8). -/
def Group.losses (g : Group) (bank : Nat) : Nat := ((g.lost.find? fun p => p.1 == bank).map Prod.snd).getD 0

def Group.lose (g : Group) (bank : Nat) : Group := { g with lost := (bank, g.losses bank + 1) :: g.lost.filter fun p => p.1 != bank }

/-- The arbitration that a ready group loses in this cycle, when it is owed none and may wait: collectors and banks are taken
for as long as reads take, which is timing (assumption 23). -/
def State.loses (s : State) (g : Group) : Option Nat :=
  if g.due || g.lost.any fun p => decide (15 ≤ p.2) then none
  else
    let x := Config.choose s.tick (4000 + g.id) % 10
    if x < 9 then some x else none

/-- The order of R184: a group owed a collector, one at its bound, the key; then the wait. A collector's wait is counted in ready
cycles (assumption 23). -/
def State.before (s : State) (x y : Group) : Bool :=
  let owed := fun (g : Group) => decide (15 ≤ g.losses 8)
  let longer := fun (f : Group → Nat) => decide (f y < f x) || (f x == f y && decide (x.slice0 ≤ y.slice0))
  if owed x != owed y then owed x
  else if owed x then longer (·.waited)
  else if x.due != y.due then x.due
  else if x.due then longer (·.waited)
  else if s.issueKey x != s.issueKey y then decide (s.issueKey y < s.issueKey x)
  else longer (·.age)

/-- The groups of an order that issue, with the slots and lanes that are left (R184); a group of width 64 takes all. -/
def State.fill (s : State) : List Group → Nat → Nat → List Group
  | [], _, _ => []
  | g :: r, slots, lanes =>
    let n := s.lanesNeeded g
    let whole := g.width == 64 && n != 0
    if slots > 0 && decide (n ≤ lanes) && (!whole || (slots == 4 && lanes == 32)) then
      g :: State.fill s r (if whole then 0 else slots - 1) (lanes - n)
    else State.fill s r slots lanes

/-- A cycle passes for a resident group (R33, R35): the groups that it may wait for are counted as it becomes ready. -/
def Group.cycle (ready : Bool) (n : Nat) (g : Group) : Group :=
  if !ready then { g with age := g.age + 1, waited := 0 }
  else { g with age := g.age + 1, waited := g.waited + 1, bound := if g.waited = 0 then 16 * n else g.bound }

/-- One cycle of a quadrant's issue unit. -/
def State.issueCycle (s : State) (q : Nat) : State :=
  let gs := s.inQuad q
  let ready := gs.filter fun g => s.canIssue (.group g.id) g && !s.issuing.contains (.group g.id)
  let tick := fun (g : Group) =>
    if gs.any fun x => x.id == g.id then g.cycle (ready.any fun x => x.id == g.id) gs.length else g
  match gs.find? (·.pass2) with
  | some g => { s with groups := s.groups.map fun (x : Group) => if x.id == g.id then { tick x with pass2 := false } else tick x }
  | none =>
    let losers := ready.filterMap fun g => (s.loses g).map fun b => (g.id, b)
    let cand := ready.filter fun g => !(losers.any fun p => p.1 == g.id)
    let out := s.fill (sortBy s.before cand) 4 32
    let upd := fun (g : Group) =>
      if out.any fun x => x.id == g.id then { g with pass2 := g.width == 64 && !s.noLanes g, lost := [] }
      else
        match losers.find? fun p => p.1 == g.id with
        | some p => tick (g.lose p.2)
        | none => tick g
    { s with groups := s.groups.map upd, issuing := s.issuing ++ out.map fun g => .group g.id }

def execIssueCycle (s : State) : Out State :=
  match s.ev with
  | .nat q => .next (s.issueCycle q)
  | _ => .next s

/-- A cycle in which a ready group cannot be passed over (R34, R35). -/
def State.issueOwed (s : State) (id : Nat) (owed : Group → Bool) : State :=
  match s.group? id with
  | some g => if s.canIssue (.group id) g && owed g then s.issueCycle (g.core * 4 + g.quad) else s
  | none => s

def execIssueBoundExpiry (s : State) : Out State :=
  match s.ev with
  | .nat id => .next (s.issueOwed id Group.due)
  | _ => .next s

def execArbitrationLossLimit (s : State) : Out State :=
  match s.ev with
  | .nat2 id bank => .next (s.issueOwed id fun g => decide (15 ≤ g.losses bank))
  | _ => .next s

end Sys2Proof.Machine
end

