-- ==== Sys2Proof/Machine/ModuleOps.lean ====
section
/-! DEFINITION. Module operation (R152, R350, R419-R430): boot, the host port, command blocks, the lifetime log,
attestation, the power limiter, ageing, and the monitor calls. -/

namespace Sys2Proof.Machine

/-- The first n bytes, with zeros after a shorter list. -/
def takeN (n : Nat) (b : List Byte) : List Byte := (b ++ List.replicate n 0).take n

def State.send (s : State) (kind : Nat) (b : List Byte) : State :=
  { s with mod := { s.mod with replies := s.mod.replies ++ [(kind, b)] } }

def portKind : Port → Nat
  | .host => 4
  | .management => 5

/-- The highest ceiling of the limiter: the nominal clock of a core island. -/
def topCeiling : Nat := 1400

/-! ### The lifetime log (R423) -/

/-- The 256 bytes of a record. -/
def logBytes (seq kind : Nat) (body : List Byte) : List Byte :=
  let b := toLE 8 seq ++ toLE 2 kind ++ takeN 182 body
  b ++ takeN 64 (sha3 b)

/-- The records that the log's 16 MiB hold. -/
def logLimit : Nat := 65536

/-- A record is written; a cumulative one takes the place of those that it supersedes. In a full log the oldest record of kind 4 or 6
gives way: the spec does not say which (assumption 11). -/
def State.writeLog (s : State) (kind : Nat) (body : List Byte) (old : LogRec → Bool) : State :=
  let n := s.mod.logSeq
  let r : LogRec := { seq := n, kind := kind, bytes := logBytes n kind body }
  let log := if s.mod.log.length < logLimit then s.mod.log else s.mod.log.eraseP fun x => x.kind == 4 || x.kind == 6
  { s with mod := { s.mod with log := log.filter (fun x => !old x) ++ [r], logSeq := n + 1 } }

/-- A kind-6 record at the end of boot, with the boot result. -/
def State.logBoot (s : State) (result version : Nat) (digest : List Byte) : State :=
  s.writeLog 6 (toLE 8 s.time ++ toLE 8 version ++ toLE 8 s.mod.fuses ++ toLE 1 result ++ toLE 1 s.mod.absent ++ takeN 64 digest) fun _ => false

/-- The limited time in 1/16 ns, with that of the period in progress. -/
def State.limited (s : State) : Nat := s.mod.limTime + (s.mod.limSince.map (s.time - ·)).getD 0

/-- The bodies of the cumulative records: kinds 1, 2 and 3 of each die in turn, then kind 5. -/
def State.cumulative (s : State) (i : Nat) : Nat × List Byte :=
  let d := i % 5
  let c := s.mod.dies.toList.getD d DieCounts.zero
  let w32 := fun (v : List W32) => v.flatMap fun x => toLE 4 x.toNat
  let w64 := fun (v : List W64) => v.flatMap fun x => toLE 8 x.toNat
  match i / 5 with
  | 0 => (1, toLE 2 d ++ w32 c.tbin.toList ++ w32 c.vbin.toList)
  | 1 => (2, toLE 2 d ++ w64 c.corrected.toList ++ w64 c.uncorrected.toList)
  | 2 => (3, toLE 2 d ++ w32 c.faults.toList)
  | _ => (5, toLE 8 (min (2 ^ 64 - 1) s.mod.limPeriods) ++ toLE 8 (min (2 ^ 64 - 1) (s.limited / 16000)) ++ toLE 2 s.mod.lowest ++ toLE 2 s.mod.cap)

/-- The cumulative record that another one supersedes: of its kind, and of its die where it names one. -/
def supersedes (kind : Nat) (body : List Byte) (x : LogRec) : Bool :=
  x.kind == kind && (kind == 5 || field x.bytes 10 1 == field body 0 1)

/-- One record of the rewriting of the cumulative kinds; the next step of it writes the next record. -/
def execLifetimeLogRewrite (s : State) : Out State :=
  let i := s.mod.logNext
  let (kind, body) := s.cumulative i
  let s := s.writeLog kind body (supersedes kind body)
  let last := decide (15 ≤ i)
  .next { s with mod := { s.mod with logNext := if last then 0 else i + 1, rewritten := if last then s.time else s.mod.rewritten } }

def execLifetimeLogRead (s : State) : Out State :=
  match s.ev with
  | .logRead port i => .next (s.send (portKind port) ((s.mod.log[i]?.map (·.bytes)).getD []))
  | _ => .next s

def execTemperatureVoltageBinMinute (s : State) : Out State :=
  match s.ev with
  | .bins die degC mV =>
    let b := if degC < 0 then 0 else if 112 ≤ degC then 15 else degC.toNat / 8 + 1
    let w := if mV < 550 then 0 else if 900 ≤ mV then 15 else (mV - 550) / 25 + 1
    let inc := fun (v : Vector W32 16) (i : Nat) => if h : i < 16 then v.set i (satInc v[i]) h else v
    .next (s.setDie die fun c => { c with tbin := inc c.tbin b, vbin := inc c.vbin w })
  | _ => .next s

/-- An error of a structure is counted (R424), saturating (R423). -/
def State.countError (s : State) (die code : Nat) (corrected : Bool) : State :=
  let inc := fun (v : Vector W64 9) =>
    if h : 1 ≤ code ∧ code ≤ 9 then (if v[code - 1] = BitVec.allOnes 64 then v else v.set (code - 1) (v[code - 1] + 1) (by omega)) else v
  s.setDie die fun c => if corrected then { c with corrected := inc c.corrected } else { c with uncorrected := inc c.uncorrected }

/-- The n-th register cell of a group: the 32 s registers, the v registers by lane, the age queue by lane. -/
def Group.cell (g : Group) (n : Nat) : Write :=
  let r := n / 64
  if r < 32 then .s r 0 else if r < 96 then .v (n % 64) (r - 32) 0 else .q (n % 64) (g.pushes - 1 - (r - 96) % 16) 0

/-- A register of a group or a col holds an uncorrectable error (R424). -/
def State.spoilReg (s : State) (a : Agent) (n : Nat) : State :=
  match s.ag? a with
  | some g => s.setAg a { g with bad := g.bad ++ [g.cell n] }
  | none => s

/-- The oldest record of a tenant's buffer is lost (R424), and counted in LOSSES. -/
def State.loseRecord (s : State) (ten : Nat) : State :=
  match s.tenant? ten with
  | some t =>
    match t.buf with
    | r :: rest =>
      (s.setTenant { t with buf := rest, loss := Losses.add t.loss r.src (field r.bytes 10 2) (field r.bytes 0 8) }).endFlushes
    | [] => s
  | none => s

/-- An uncorrectable error stands where it is found later (R219, R271, R409, R425): in registers, in a line of memory, of a
scratchpad or of a cache, in a tile, in the retention buffer. An error in a trace buffer loses a record. -/
def State.spoil (s : State) (code addr idx : Nat) : State :=
  match code with
  | 1 => s.spoilReg (if idx % 2 = 0 then .group addr else .col addr) (idx / 2)
  | 5 =>
    match s.teams[addr]? with
    | some t => s.setTeam (t.setTile { t.tile (idx / 64) (idx % 64) with bad := true })
    | none => s
  | 8 => { s with aud := { s.aud with samples := s.aud.samples.mapIdx fun i (x : Sample) => if i == idx then { x with bad := true } else x } }
  | 9 => s.loseRecord addr
  | _ =>
    -- what waits for its place comes before the error
    let s := s.placeAll
    let l := addr / 128 * 128
    let new := !s.poison.contains l
    if structOf l = code then { s with poison := if new then s.poison ++ [l] else s.poison, cacheErr := s.cacheErr.filter (· != l) }
    else if code = 3 ∧ (tierOf l).isSome ∧ new then { s with poison := s.poison ++ [l], cacheErr := s.cacheErr ++ [l] }
    else s

/-- A corrected error: of an instruction cache, the line is fetched again (R424); all others leave what is stored as it is. -/
def State.mended (s : State) (code idx : Nat) : State := if code = 4 then { s with icache := s.icache.eraseIdx idx } else s

/-- Patrol scrubbing (R425): every line is read, and corrected data is written back as it reads. A storage error that it or an
access meets comes from outside (R424). -/
def execPatrolScrub (s : State) : Out State :=
  match s.ev with
  | .upset die code corrected addr idx =>
    let s := s.countError die code corrected
    .next (if corrected then s.mended code idx else s.spoil code addr idx)
  | _ => .next { s with mod := { s.mod with scrubbed := s.time } }

/-! ### Ageing (R422) -/

/-- The lowest clock of an island that is still used: 800 MHz for a core, else the foot of its range (R419). -/
def fenceBelow (i : Nat) : Nat := if i < 576 then 800 else 400

def State.island (s : State) (i : Nat) : Island := if h : i < 640 then s.mod.islands[i] else Island.reset i

/-- The number of cores on which teams may be placed is published to the host and the management port. -/
def State.publishCores (s : State) : State :=
  s.send 7 (toLE 2 ((s.mod.islands.toList.take 576).filter fun x => !x.fenced).length)

/-- The result of a finished measurement: FMAX falls by as many steps as the margin asks for. -/
def State.aged (s : State) (m : AgeResult) : State :=
  let x := s.island m.island
  let steps := (m.slackPs.findIdx? fun k => decide ((m.marginPs : Int) ≤ k)).getD (x.fmax / 25)
  let new := x.fmax - 25 * steps
  let fence := decide (new < fenceBelow m.island) && !x.fenced
  let at_ := x.measuring.getD s.time
  let s := s.setIsland m.island fun x => { x with fmax := new, fenced := x.fenced || fence, measured := at_, measuring := none }
  let s := if !fence then s else if 576 ≤ m.island then s.publishAbsent else s.publishCores
  if steps = 0 then s
  else
    s.writeLog 4 (toLE 2 m.island ++ toLE 2 x.fmax ++ toLE 2 new ++ toLE 4 (wrapTo 32 (m.slackPs.headD 0)) ++ toLE 4 m.marginPs ++ toLE 8 at_ ++
      toLE 2 (wrapTo 16 m.degC)) fun _ => false

/-! ### Boot (R350), reset and loss of power -/

/-- The part after reset, with what outlives one: the flash, the fuses, the log and its counters, the islands'
FMAX; the free values and what was sent go on. -/
def State.persist (s : State) : State :=
  let m := s.mod
  let r := State.reset
  { r with tick := s.tick, inputs := s.inputs, nextNum := s.nextNum, nextGroup := s.nextGroup
           mod := { r.mod with modid := m.modid, fuses := m.fuses, flash := m.flash, log := m.log, logSeq := m.logSeq, dies := m.dies
                               limPeriods := m.limPeriods, limTime := s.limited, lowest := m.lowest, replies := m.replies
                               islands := Vector.ofFn fun (i : Fin 640) =>
                                 { Island.reset i.val with fmax := m.islands[i.val].fmax, fenced := m.islands[i.val].fenced }
                               absent := ((m.islands.toList.drop 576).filter (·.fenced)).length } }

/-- What step 2 finds in the flash: the image and its version, unless it cannot be read, and the error code: 1 key digest, 2 signature,
3 rollback version, 4 flash read. -/
def bootCheck (flash : List Byte) (fuses : Nat) : Option (List Byte × Nat) × Option Nat :=
  if flash.isEmpty then (none, some 4)
  else
    let (key, img, sig, version) := Config.imageParts flash
    (some (img, version),
     if takeN 64 (sha3 key) ≠ takeN 64 Config.fusedKeyDigest then some 1
     else if !Config.mldsaVerify key (sha3 img) sig then some 2
     else if version < fuses then some 3
     else none)

/-- What boot finds (R350 steps 3 to 5): whether the copy from flash fails, the units that fail to train, and each island's slacks,
margin and temperature: all free (assumption 11). -/
def State.copyFails (s : State) : Bool := Config.choose s.tick 4801 % 2 == 1
def State.trainFails (s : State) : Nat := Config.choose s.tick 4800 % 256

def bootResult (tick i : Nat) : AgeResult :=
  let x := fun (k : Nat) => Config.random tick (100000 + 128 * i + k)
  { island := i, early := false, slackPs := (List.range 81).map fun k => (x k).toInt, marginPs := (x 81).toNat, degC := (x 82).toInt }

/-- Every island is measured at boot. -/
def State.measureAll (s : State) : State := (List.range 640).foldl (fun t i => t.aged (bootResult s.tick i)) s

/-- Boot is in a state, which the host port and the management port show: HSTAT, and at the latter its value. -/
def State.publish (s : State) (b : Boot) (code err : Nat) : State :=
  let h : W64 := (s.mod.hstat &&& 0x1000000) ||| BitVec.ofNat 64 (code + err * 256 + s.mod.absent * 65536)
  (({ s with mod := { s.mod with boot := b, hstat := h } } : State).hostEvent 2).send 5 (toLE 8 h.toNat)

/-- Boot stops in step 2 or 3: the boot col issues nothing until the next reset. -/
def State.bootStop (s : State) (code : Nat) (found : Option (List Byte × Nat)) : State :=
  let s := s.setCol 0 { s.col 0 with run := .stopped }
  (s.publish .stopped 15 code).logBoot code ((found.map Prod.snd).getD 0) ((found.map fun x => sha3 x.1).getD [])

/-- A col after step 3 (assumption 11): it runs from word 2 of the first line of its private memory, at monitor
privilege. -/
def Col.booted : Col :=
  let c := Col.reset true
  { c with g := { c.g with pc := 8 } }

/-- The private half of the identity key stands in the boot col's monitor region (R428). -/
def State.holdIdentity (s : State) : State :=
  { s with mem := writeBytes s.mem (colKey 0 Config.identityAt) (takeN Config.identityLen (Config.mldsaPrivate Config.deviceSecret)) }

/-- Step 3: the monitor and the service kernel stand in the cols' private memory, and the cols run. -/
def State.loadCols (s : State) (img : List Byte) (version : Nat) : State :=
  let m := (List.range 48).foldl (fun m n => writeBytes m (colKey n 0) ((Config.imageLoad img n).take Config.colMem)) s.mem
  ({ s with mem := m, cols := Vector.replicate 48 Col.booted, mod := { s.mod with running := img, version := version } } : State).holdIdentity

/-- Boot goes on by a step (R350). -/
def State.bootStep (s : State) : State :=
  match s.mod.boot with
  | .reset => s.holdIdentity.publish .verify 1 0
  | .verify =>
    match bootCheck s.mod.flash s.mod.fuses with
    | (some (img, v), none) => s.publish (.load img v) 2 0
    | (found, err) => s.bootStop (err.getD 4) found
  | .load img v => if s.copyFails then s.bootStop 4 (some (img, v)) else (s.loadCols img v).publish .train 3 0
  | .train => ({ s with mod := { s.mod with absent := min 255 (s.mod.absent + s.trainFails) } } : State).publish .measure 4 0
  | .measure =>
    let s := s.measureAll.publish .ready 5 0
    s.logBoot 0 s.mod.version (sha3 s.mod.running)
  | .ready | .stopped => s

/-- Module reset, from which boot begins. Memory keeps what it held. -/
def execModuleReset (s : State) : Out State := .next { s.persist with mem := s.mem, poison := s.poison }

/-- The counters of a die as the log's current records hold them. -/
def dieOfLog (log : List LogRec) (d : Nat) : DieCounts :=
  let b := fun (kind : Nat) => ((log.find? fun x => x.kind == kind && field x.bytes 10 1 == d).map (·.bytes)).getD []
  { tbin := Vector.ofFn fun i => BitVec.ofNat 32 (field (b 1) (12 + 4 * i.val) 4)
    vbin := Vector.ofFn fun i => BitVec.ofNat 32 (field (b 1) (76 + 4 * i.val) 4)
    corrected := Vector.ofFn fun i => BitVec.ofNat 64 (field (b 2) (12 + 8 * i.val) 8)
    uncorrected := Vector.ofFn fun i => BitVec.ofNat 64 (field (b 2) (84 + 8 * i.val) 8)
    faults := Vector.ofFn fun i => BitVec.ofNat 32 (field (b 3) (12 + 4 * i.val) 4) }

/-- Loss of power: what is not in flash or fuses is lost, and a record of the log is there as a whole or not at all;
what was counted since the log's last rewriting is lost (R423). -/
def execPowerLoss (s : State) : Out State :=
  let t := s.persist
  let b := ((t.mod.log.find? fun x => x.kind == 5).map (·.bytes)).getD []
  .next { t with mod := { t.mod with dies := Vector.ofFn fun (d : Fin 5) => dieOfLog t.mod.log d.val
                                     limPeriods := field b 10 8, limTime := field b 18 8 * 16000
                                     lowest := if b.isEmpty then topCeiling else field b 26 2 } }

/-- The firmware image in flash is replaced (R426); the log is left as it is (R423). -/
def execImageRewrite (s : State) : Out State :=
  match s.ev with
  | .bytes d => .next { s with mod := { s.mod with flash := d } }
  | _ => .next s

/-- COMMIT (R430): fuse bits are blown up to the running image's version, of 64. -/
def execCommit (s : State) : Out State :=
  .next { s with mod := { s.mod with fuses := max s.mod.fuses (min 64 s.mod.version) } }

/-! ### Identity and attestation (R428, R429) -/

/-- The report for a nonce: 288 bytes and their signature. -/
def State.attestReport (s : State) (nonce : List Byte) : List Byte :=
  let m := s.mod
  let b := toLE 4 0x54414E45 ++ toLE 4 1 ++ toLE 8 m.modid.toNat ++ takeN 64 nonce ++ takeN 64 (sha3 m.running) ++
    takeN 64 (sha3 (Config.imageKernel m.running)) ++
    takeN 64 (Config.configDigest m.cap (m.islands.toList.map (·.fmax)) (m.islands.toList.map (·.fenced))) ++ toLE 8 m.fuses ++ toLE 8 s.time
  b ++ takeN 4627 (Config.mldsaSign (readBytes s.mem (colKey 0 Config.identityAt) Config.identityLen) (sha3 b))

def execAttestationRequest (s : State) : Out State :=
  match s.ev with
  | .report port nonce => .next (s.send (portKind port) (s.attestReport nonce))
  | _ => .next s

/-! ### Power (R421) and islands (R419, R420) -/

def execPowerCapSet (s : State) : Out State :=
  match s.ev with
  | .nat w => if 800 ≤ w ∧ w ≤ 2600 then .next { s with mod := { s.mod with cap := w } } else .next s
  | _ => .next s

/-- A ceiling that a measurement has set, and what the lifetime log counts of it. -/
def State.setCeiling (s : State) (c : Nat) : State :=
  let m := s.mod
  let on := decide (c < topCeiling)
  let begins := on && !m.limiting
  let ends := m.limiting && !on
  { s with mod := { m with ceiling := c, limiting := on, lowest := min m.lowest c, limPeriods := m.limPeriods + bit begins
                           limSince := if begins then some s.time else if ends then none else m.limSince
                           limTime := if ends then s.limited else m.limTime } }

/-- Measurements have stayed below 95 % of the cap for 1 ms. -/
def State.calmLong (s : State) : Bool := (s.mod.calm.map fun t => decide (t + 16000000 ≤ s.time)).getD false

/-- A measurement of module power, every 10 µs. -/
def execPowerMeasurement (s : State) : Out State :=
  match s.ev with
  | .nat w =>
    let m := s.mod
    if m.cap < w then .next ({ s with mod := { m with calm := none, raising := false } }.setCeiling (max 200 (m.ceiling - 25)))
    else if m.cap * 95 ≤ w * 100 then .next { s with mod := { m with calm := none, raising := false } }
    else
      let s := { s with mod := { m with calm := some (m.calm.getD s.time) } }
      if s.mod.raising || s.calmLong then .next (s.setCeiling (min topCeiling (m.ceiling + 25))) else .next s
  | _ => .next s

def execLimiterRaiseHold (s : State) : Out State :=
  if s.calmLong then .next { s with mod := { s.mod with raising := true } } else .next s

/-- The effective clock: the least of the set clock, FMAX and, for a core island, the ceiling. -/
def State.effective (s : State) (i : Nat) : Nat :=
  let x := s.island i
  if i < 576 then min x.setClk (min x.fmax s.mod.ceiling) else min x.setClk x.fmax

/-! ### Measurements (R422) -/

/-- Nothing is placed where the island is needed. -/
def State.islandIdle (s : State) (i : Nat) : Bool := !(s.teams.any fun t => !t.retired && (islandsOf t.core).contains i)

/-- An idle island that has not been measured for 6 hours. -/
def State.ageDue (s : State) (i : Nat) : Bool :=
  let x := s.island i
  x.measuring.isNone && s.islandIdle i && decide (x.measured + 345600000000000 ≤ s.time)

def execAgeingMeasurement (s : State) : Out State :=
  match s.ev with
  | .nat i => if decide (i < 640) && s.ageDue i then .next (s.setIsland i fun x => { x with measuring := some s.time }) else .next s
  | _ => .next s

def execAgeingMeasurementEnd (s : State) : Out State :=
  match s.ev with
  | .age m =>
    if !(s.island m.island).measuring.isSome || decide (640 ≤ m.island) then .next s
    else if m.early then .next (s.setIsland m.island fun x => { x with measuring := none })
    else .next (s.aged m)
  | _ => .next s

/-! ### Monitor calls (R310, R342, R420) -/

/-- The monitor writes a call's result to the col's registers and returns (R310, R311). -/
def State.monReturn (s : State) (n : Nat) (q : MonCall) (x : Int) : State :=
  let c := s.col n
  let v := BitVec.ofNat 64 (wrapTo 64 x)
  let ws := match q.dst with
    | .v r => [Write.v 0 r.val (v.setWidth 32), .v 0 (r.val + 1) ((v >>> 32).setWidth 32)]
    | _ => []
  s.setCol n { c with cstat := restoreStatus c.msave, call := none
                      g := { c.g.landAll ws with pc := pcOf c.mepc, park := .ready, stage := 0, redo := none } }

/-- The monitor serves the call of a number that a col has made. -/
def monStep (num : Nat) (s : State) (k : Nat → MonCall → State → State × Int) : Out State :=
  match s.ev with
  | .nat n =>
    match (s.col n).call with
    | none => .next s
    | some q =>
      if decide (n < 48) && (s.col n).priv == .monitor && q.num.toNat == num then
        let (s, x) := k n q s
        .next (s.monReturn n q x)
      else .next s
  | _ => .next s

/-- Argument i, and a 64-bit argument at i (R320). -/
def MonCall.arg (q : MonCall) (i : Nat) : Nat := (q.args.getD i 0).toNat
def MonCall.arg64 (q : MonCall) (i : Nat) : Nat := q.arg i + q.arg (i + 1) * 2 ^ 32

/-- Call 0x01: a free slot receives a fresh key for the context that a0 names; -4 where none is free (assumption 12). -/
def execMonitorKey (s : State) : Out State :=
  monStep 1 s fun n q s =>
    match (List.range 1024).filter fun i => decide (0 < i) && !(s.key i).valid with
    | [] => (s, -4)
    | i :: is =>
      let slot := (i :: is).getD (Config.choose s.tick 4700 % (is.length + 1)) i
      let s := s.setCol n { s.col n with kslot := BitVec.ofNat 64 slot, kown := BitVec.ofNat 64 (q.arg 0 % 65536) }
      ((s.kcmd n 1).getD s, slot)

/-- Call 0x02: the slot that a0 names is erased; -2 where there is no such slot. -/
def execMonitorErase (s : State) : Out State :=
  monStep 2 s fun n q s =>
    let s' := s.setCol n { s.col n with kslot := BitVec.ofNat 64 (q.arg 0) }
    match s'.kcmd n 2 with
    | some s => (s, 0)
    | none => (s, -2)

/-- The lowest clock of an island (R419). -/
def minClk (i : Nat) : Nat := if i < 576 then 200 else 400

def execIslset (s : State) : Out State :=
  monStep 3 s fun _ q s =>
    let i := q.arg 0
    let mhz := q.arg 1
    if 639 < i ∨ mhz < minClk i ∨ mhz % 25 ≠ 0 then (s, -2) else (s.setIsland i fun x => { x with setClk := mhz }, 0)

/-- The word of ISLGET; for an island above 639 the spec states none. -/
def State.islandWord (s : State) (i : Nat) : Nat :=
  if 639 < i then (Config.random s.tick 4701).toNat % 2 ^ 63
  else
    let x := s.island i
    s.effective i % 65536 + x.fmax % 65536 * 2 ^ 16 + x.setClk % 65536 * 2 ^ 32 + bit s.mod.limiting * 2 ^ 48 + bit x.fenced * 2 ^ 49

def execIslget (s : State) : Out State := monStep 4 s fun _ q s => (s, s.islandWord (q.arg 0))

/-- The keys of bytes of a col's address space. -/
def State.colKeys (s : State) (n : Nat) (acc : Acc) (va len : Nat) : Option (List Nat × State) :=
  (List.range len).foldl (fun x i => x.bind fun (ks, s) =>
    match s.colTranslate n acc (va + i) with
    | (.ok k _, s) => some (ks ++ [k], s)
    | _ => none) (some ([], s))

def State.writeKeys (s : State) (n : Nat) (ks : List Nat) (bs : List Byte) : State :=
  (ks.zip bs).foldl (fun s p => s.storeBytes (.col n) true p.1 [p.2]) s

def execAttest (s : State) : Out State :=
  monStep 5 s fun n q s =>
    match s.colKeys n .read (q.arg64 0) 64 with
    | none => (s, -7)
    | some (ks, s) =>
      let b := s.attestReport (ks.map fun k => readByte s.mem k)
      match s.colKeys n .write (q.arg64 2) b.length with
      | none => (s, -7)
      | some (ws, s) => (s.writeKeys n ws b, b.length)

def execLogread (s : State) : Out State :=
  monStep 6 s fun n q s =>
    match s.mod.log[q.arg 0]? with
    | none => (s, -2)
    | some r =>
      match s.colKeys n .write (q.arg64 1) 256 with
      | none => (s, -7)
      | some (ws, s) => (s.writeKeys n ws r.bytes, 0)

/-! ### The host port (R152, R427) -/

/-- The leaves of all contexts that map a physical address. -/
def State.mapping (s : State) (pa : Nat) : List W64 :=
  (s.contexts.flatMap fun c => leavesOf s.mem 3 (ptePfn c.croot)).filterMap fun p => if p.1 ≤ pa ∧ pa < p.1 + p.2.1 then some p.2.2 else none

/-- A host requester's access (R127, R152), to memory of the module or of the hosts. -/
def execHostMemoryRequest (s : State) : Out State :=
  match s.ev with
  | .hostReq r =>
    let len := (r.data.map List.length).getD r.len
    let pages := (List.range ((r.addr % 4096 + len + 4095) / 4096)).map fun i => r.addr / 4096 * 4096 + 4096 * i
    let es := pages.flatMap s.mapping
    if pages.any fun p => (tierOf p).isNone then .next (s.send 2 [])
    else if es.any ptePctx then .next (s.send 1 [])
    else
      let coh := es.all pteCoh
      match r.data with
      | some d => .next (s.hostStore coh r.addr d)
      | none => .next (s.send 0 (s.loadBytes hostAgent coh r.addr len))
  | _ => .next s

/-- A command block is submitted to the boot col's shard. -/
def State.submitCmd (s : State) : State :=
  let m := s.mod
  { s with mod := { m with cmds := m.cmds ++ [m.hcmda.toNat / 128 * 128]
                           hcmds := (m.hcmds &&& 0xFFFFFFFF00000000) ||| ((m.hcmds + 1) &&& 0xFFFFFFFF) } }

def execHcmddWrite (s : State) : Out State :=
  match s.ev with
  | .word _ => .next s.submitCmd
  | _ => .next s

/-- A register of BAR0 as it reads: WO registers and the rest of the BAR read as zero (R5). -/
def State.bar0 (s : State) (off : Nat) : W64 :=
  match off with
  | 0 => s.mod.modid
  | 8 => s.mod.hstat
  | 0x10 => s.mod.hcmda
  | 0x20 => s.mod.hcmds
  | 0x28 => s.mod.hevt
  | _ => 0

/-- A write of a register of BAR0. -/
def State.setBar0 (s : State) (off : Nat) (v : W64) : State :=
  match off with
  | 0x10 => { s with mod := { s.mod with hcmda := v } }
  | 0x18 => s.submitCmd
  | 0x28 => { s with mod := { s.mod with hevt := s.mod.hevt &&& ~~~v } }
  | _ => if 0x10000 ≤ off ∧ off < 0x16000 then ((s.queue? ((off - 0x10000) / 8)).map s.readSlot).getD s else s

def execHostRegisterWrite (s : State) : Out State :=
  match s.ev with
  | .bar w =>
    if w.width ≠ 8 ∨ w.off % 8 ≠ 0 ∨ 2 ^ 20 ≤ w.off then .next (s.send 2 [])
    else
      match w.val with
      | some v => .next (s.setBar0 w.off v)
      | none => .next (s.send 0 (toLE 8 (s.bar0 w.off).toNat))
  | _ => .next s

/-! ### Command blocks (R427) -/

/-- The block at a host address, as the col reads it. -/
def State.readCmd (s : State) (addr : Nat) : HostCmd :=
  let b := s.loadBytes (.col 0) true (hostBase + addr) 128
  { op := field b 0 4, tag := field b 4 4, blk := b, at_ := addr }

/-- The oldest submitted block is processed, when its opcode is one of those given. -/
def cmdStep (ok : Nat → Bool) (s : State) (k : HostCmd → State → State) : Out State :=
  match s.mod.cmds with
  | [] => .next s
  | a :: r =>
    -- it serves from the end of boot on (R350)
    if s.mod.boot ≠ .ready then .next s
    else
    let c := s.readCmd a
    if ok c.op then .next (k c { s with mod := { s.mod with cmds := r } }) else .next s

/-- An opcode of R427; the service kernel answers -1 to any other. -/
def knownCmd (op : Nat) : Bool := op == 2 || op == 3

def execQreg (s : State) : Out State :=
  cmdStep (fun op => !knownCmd op) s fun c s =>
    if c.op ≠ 1 then s.hostDone c (-1)
    else
      let asp := field c.blk 16 2
      match s.register asp (asp == 0) false (field c.blk 8 8) with
      | some (n, s) => s.hostDone c n
      | none => s.hostDone c (-2)

def execQunreg (s : State) : Out State :=
  cmdStep (· == 2) s fun c s =>
    match s.queue? (field c.blk 8 2) with
    | none => s.hostDone c (-2)
    | some q =>
      if q.unreg.isSome then s.hostDone c (-2)
      else
      let gone := fun (s : State) => (({ s with queues := s.queues.filter fun x => x.num != q.num } : State).hostDone c 0)
      match q.ph with
      | .idle => gone s
      | .waiting =>
        match s.waiters.find? fun w => w.gid.isNone && w.queue == q.num with
        | some w => gone (s.dropWaiter w)
        | none => gone s
      | _ => if q.kind = 3 then gone s else s.setQueue { q with unreg := some c }

def execQclear (s : State) : Out State :=
  cmdStep (· == 3) s fun c s =>
    match (s.queue? (field c.blk 8 2)).filter (·.err) with
    | none => s.hostDone c (-2)
    | some q =>
      match s.qKey q .write q.desc with
      | none => s.hostDone c (-2)
      | some (k, coh, s) =>
        let s := s.storeBytes (.col q.home) coh (k + 14) (toLE 2 0)
        (s.setQueue { q with err := false, ph := .idle, idx := BitVec.ofNat 32 (readLE s.mem (k + 16) 4) }).hostDone c 0

end Sys2Proof.Machine
end

