-- ==== Sys2Proof/Machine/Dispatch.lean ====
section
/-! DEFINITION. One arm for every constructor of Instr. -/

namespace Sys2Proof.Machine

def exec (i : Instr) (s : State) : Host.Outcome State Fault Refusal :=
  match i with
  | .nopShort f => Sys2Proof.Machine.execNopShort f s
  | .saddShort f => Sys2Proof.Machine.execSaddShort f s
  | .ssubShort f => Sys2Proof.Machine.execSsubShort f s
  | .sandShort f => Sys2Proof.Machine.execSandShort f s
  | .sorShort f => Sys2Proof.Machine.execSorShort f s
  | .sxorShort f => Sys2Proof.Machine.execSxorShort f s
  | .sandnShort f => Sys2Proof.Machine.execSandnShort f s
  | .sshlShort f => Sys2Proof.Machine.execSshlShort f s
  | .sshrShort f => Sys2Proof.Machine.execSshrShort f s
  | .ssarShort f => Sys2Proof.Machine.execSsarShort f s
  | .smovShort f => Sys2Proof.Machine.execSmovShort f s
  | .spopcShort f => Sys2Proof.Machine.execSpopcShort f s
  | .vaddShort f => Sys2Proof.Machine.execVaddShort f s
  | .vsubShort f => Sys2Proof.Machine.execVsubShort f s
  | .vmulShort f => Sys2Proof.Machine.execVmulShort f s
  | .vmulhShort f => Sys2Proof.Machine.execVmulhShort f s
  | .vminShort f => Sys2Proof.Machine.execVminShort f s
  | .vmaxShort f => Sys2Proof.Machine.execVmaxShort f s
  | .vabsShort f => Sys2Proof.Machine.execVabsShort f s
  | .vandShort f => Sys2Proof.Machine.execVandShort f s
  | .vorShort f => Sys2Proof.Machine.execVorShort f s
  | .vxorShort f => Sys2Proof.Machine.execVxorShort f s
  | .vandnShort f => Sys2Proof.Machine.execVandnShort f s
  | .vshlShort f => Sys2Proof.Machine.execVshlShort f s
  | .vshrShort f => Sys2Proof.Machine.execVshrShort f s
  | .vsarShort f => Sys2Proof.Machine.execVsarShort f s
  | .vrolShort f => Sys2Proof.Machine.execVrolShort f s
  | .vpopcShort f => Sys2Proof.Machine.execVpopcShort f s
  | .vclzShort f => Sys2Proof.Machine.execVclzShort f s
  | .vbrevShort f => Sys2Proof.Machine.execVbrevShort f s
  | .vmovShort f => Sys2Proof.Machine.execVmovShort f s
  | .faddShort f => Sys2Proof.Machine.execFaddShort f s
  | .fsubShort f => Sys2Proof.Machine.execFsubShort f s
  | .fmulShort f => Sys2Proof.Machine.execFmulShort f s
  | .fminShort f => Sys2Proof.Machine.execFminShort f s
  | .fmaxShort f => Sys2Proof.Machine.execFmaxShort f s
  | .frcpShort f => Sys2Proof.Machine.execFrcpShort f s
  | .frsqShort f => Sys2Proof.Machine.execFrsqShort f s
  | .fsqrtShort f => Sys2Proof.Machine.execFsqrtShort f s
  | .fexp2Short f => Sys2Proof.Machine.execFexp2Short f s
  | .flog2Short f => Sys2Proof.Machine.execFlog2Short f s
  | .fsinShort f => Sys2Proof.Machine.execFsinShort f s
  | .fcosShort f => Sys2Proof.Machine.execFcosShort f s
  | .ftanhShort f => Sys2Proof.Machine.execFtanhShort f s
  | .frintShort f => Sys2Proof.Machine.execFrintShort f s
  | .shflShort f => Sys2Proof.Machine.execShflShort f s
  | .bcastShort f => Sys2Proof.Machine.execBcastShort f s
  | .ballotShort f => Sys2Proof.Machine.execBallotShort f s
  | .vanyShort f => Sys2Proof.Machine.execVanyShort f s
  | .vallShort f => Sys2Proof.Machine.execVallShort f s
  | .nop f => Sys2Proof.Machine.execNop f s
  | .setmode f => Sys2Proof.Machine.execSetmode f s
  | .getmode f => Sys2Proof.Machine.execGetmode f s
  | .bra f => Sys2Proof.Machine.execBra f s
  | .bral f => Sys2Proof.Machine.execBral f s
  | .jmp f => Sys2Proof.Machine.execJmp f s
  | .jmpl f => Sys2Proof.Machine.execJmpl f s
  | .ret f => Sys2Proof.Machine.execRet f s
  | .brzm f => Sys2Proof.Machine.execBrzm f s
  | .brnzm f => Sys2Proof.Machine.execBrnzm f s
  | .brallm f => Sys2Proof.Machine.execBrallm f s
  | .loop f => Sys2Proof.Machine.execLoop f s
  | .exit f => Sys2Proof.Machine.execExit f s
  | .split f => Sys2Proof.Machine.execSplit f s
  | .splitm f => Sys2Proof.Machine.execSplitm f s
  | .fuse f => Sys2Proof.Machine.execFuse f s
  | .setpri f => Sys2Proof.Machine.execSetpri f s
  | .yield f => Sys2Proof.Machine.execYield f s
  | .sleep f => Sys2Proof.Machine.execSleep f s
  | .getid f => Sys2Proof.Machine.execGetid f s
  | .sadd f => Sys2Proof.Machine.execSadd f s
  | .ssub f => Sys2Proof.Machine.execSsub f s
  | .smul f => Sys2Proof.Machine.execSmul f s
  | .smulh f => Sys2Proof.Machine.execSmulh f s
  | .sdiv f => Sys2Proof.Machine.execSdiv f s
  | .srem f => Sys2Proof.Machine.execSrem f s
  | .smin f => Sys2Proof.Machine.execSmin f s
  | .smax f => Sys2Proof.Machine.execSmax f s
  | .sand f => Sys2Proof.Machine.execSand f s
  | .sor f => Sys2Proof.Machine.execSor f s
  | .sxor f => Sys2Proof.Machine.execSxor f s
  | .sandn f => Sys2Proof.Machine.execSandn f s
  | .sshl f => Sys2Proof.Machine.execSshl f s
  | .sshr f => Sys2Proof.Machine.execSshr f s
  | .ssar f => Sys2Proof.Machine.execSsar f s
  | .smov f => Sys2Proof.Machine.execSmov f s
  | .sli f => Sys2Proof.Machine.execSli f s
  | .scmp f => Sys2Proof.Machine.execScmp f s
  | .ssel f => Sys2Proof.Machine.execSsel f s
  | .spopc f => Sys2Proof.Machine.execSpopc f s
  | .sclz f => Sys2Proof.Machine.execSclz f s
  | .sctz f => Sys2Proof.Machine.execSctz f s
  | .sffs f => Sys2Proof.Machine.execSffs f s
  | .sbfx f => Sys2Proof.Machine.execSbfx f s
  | .sbfi f => Sys2Proof.Machine.execSbfi f s
  | .vadd f => Sys2Proof.Machine.execVadd f s
  | .vsub f => Sys2Proof.Machine.execVsub f s
  | .vmul f => Sys2Proof.Machine.execVmul f s
  | .vmulh f => Sys2Proof.Machine.execVmulh f s
  | .vmad f => Sys2Proof.Machine.execVmad f s
  | .vmin f => Sys2Proof.Machine.execVmin f s
  | .vmax f => Sys2Proof.Machine.execVmax f s
  | .vabs f => Sys2Proof.Machine.execVabs f s
  | .vand f => Sys2Proof.Machine.execVand f s
  | .vor f => Sys2Proof.Machine.execVor f s
  | .vxor f => Sys2Proof.Machine.execVxor f s
  | .vandn f => Sys2Proof.Machine.execVandn f s
  | .vshl f => Sys2Proof.Machine.execVshl f s
  | .vshr f => Sys2Proof.Machine.execVshr f s
  | .vsar f => Sys2Proof.Machine.execVsar f s
  | .vrol f => Sys2Proof.Machine.execVrol f s
  | .vbfx f => Sys2Proof.Machine.execVbfx f s
  | .vbfi f => Sys2Proof.Machine.execVbfi f s
  | .vpopc f => Sys2Proof.Machine.execVpopc f s
  | .vclz f => Sys2Proof.Machine.execVclz f s
  | .vbrev f => Sys2Proof.Machine.execVbrev f s
  | .vsel f => Sys2Proof.Machine.execVsel f s
  | .vmov f => Sys2Proof.Machine.execVmov f s
  | .vli f => Sys2Proof.Machine.execVli f s
  | .vcmp f => Sys2Proof.Machine.execVcmp f s
  | .fadd f => Sys2Proof.Machine.execFadd f s
  | .fsub f => Sys2Proof.Machine.execFsub f s
  | .fmul f => Sys2Proof.Machine.execFmul f s
  | .fma f => Sys2Proof.Machine.execFma f s
  | .fmin f => Sys2Proof.Machine.execFmin f s
  | .fmax f => Sys2Proof.Machine.execFmax f s
  | .fcmp f => Sys2Proof.Machine.execFcmp f s
  | .frcp f => Sys2Proof.Machine.execFrcp f s
  | .frsq f => Sys2Proof.Machine.execFrsq f s
  | .fsqrt f => Sys2Proof.Machine.execFsqrt f s
  | .fdiv f => Sys2Proof.Machine.execFdiv f s
  | .fexp2 f => Sys2Proof.Machine.execFexp2 f s
  | .flog2 f => Sys2Proof.Machine.execFlog2 f s
  | .fsin f => Sys2Proof.Machine.execFsin f s
  | .fcos f => Sys2Proof.Machine.execFcos f s
  | .ftanh f => Sys2Proof.Machine.execFtanh f s
  | .fclass f => Sys2Proof.Machine.execFclass f s
  | .fscale f => Sys2Proof.Machine.execFscale f s
  | .frint f => Sys2Proof.Machine.execFrint f s
  | .cvt f => Sys2Proof.Machine.execCvt f s
  | .pack f => Sys2Proof.Machine.execPack f s
  | .unpk f => Sys2Proof.Machine.execUnpk f s
  | .srseed f => Sys2Proof.Machine.execSrseed f s
  | .srget f => Sys2Proof.Machine.execSrget f s
  | .shfl f => Sys2Proof.Machine.execShfl f s
  | .shflx f => Sys2Proof.Machine.execShflx f s
  | .shflup f => Sys2Proof.Machine.execShflup f s
  | .shfldn f => Sys2Proof.Machine.execShfldn f s
  | .put f => Sys2Proof.Machine.execPut f s
  | .bcast f => Sys2Proof.Machine.execBcast f s
  | .vany f => Sys2Proof.Machine.execVany f s
  | .vall f => Sys2Proof.Machine.execVall f s
  | .ballot f => Sys2Proof.Machine.execBallot f s
  | .matchLanes f => Sys2Proof.Machine.execMatchLanes f s
  | .redux f => Sys2Proof.Machine.execRedux f s
  | .scan f => Sys2Proof.Machine.execScan f s
  | .ld f => Sys2Proof.Machine.execLd f s
  | .st f => Sys2Proof.Machine.execSt f s
  | .ldf f => Sys2Proof.Machine.execLdf f s
  | .lds f => Sys2Proof.Machine.execLds f s
  | .sts f => Sys2Proof.Machine.execSts f s
  | .ldc f => Sys2Proof.Machine.execLdc f s
  | .stc f => Sys2Proof.Machine.execStc f s
  | .ldk f => Sys2Proof.Machine.execLdk f s
  | .stk f => Sys2Proof.Machine.execStk f s
  | .ldp f => Sys2Proof.Machine.execLdp f s
  | .stp f => Sys2Proof.Machine.execStp f s
  | .atom f => Sys2Proof.Machine.execAtom f s
  | .atoms f => Sys2Proof.Machine.execAtoms f s
  | .atomc f => Sys2Proof.Machine.execAtomc f s
  | .pref f => Sys2Proof.Machine.execPref f s
  | .discard f => Sys2Proof.Machine.execDiscard f s
  | .fence f => Sys2Proof.Machine.execFence f s
  | .waitc f => Sys2Proof.Machine.execWaitc f s
  | .cntrd f => Sys2Proof.Machine.execCntrd f s
  | .mma f => Sys2Proof.Machine.execMma f s
  | .mconv f => Sys2Proof.Machine.execMconv f s
  | .mzero f => Sys2Proof.Machine.execMzero f s
  | .mload f => Sys2Proof.Machine.execMload f s
  | .mdrain f => Sys2Proof.Machine.execMdrain f s
  | .mdrains f => Sys2Proof.Machine.execMdrains f s
  | .mrows f => Sys2Proof.Machine.execMrows f s
  | .mshape f => Sys2Proof.Machine.execMshape f s
  | .cpy f => Sys2Proof.Machine.execCpy f s
  | .cpyg f => Sys2Proof.Machine.execCpyg f s
  | .cpys f => Sys2Proof.Machine.execCpys f s
  | .barinit f => Sys2Proof.Machine.execBarinit f s
  | .barexp f => Sys2Proof.Machine.execBarexp f s
  | .bararr f => Sys2Proof.Machine.execBararr f s
  | .barwait f => Sys2Proof.Machine.execBarwait f s
  | .bartest f => Sys2Proof.Machine.execBartest f s
  | .barpay f => Sys2Proof.Machine.execBarpay f s
  | .fwait f => Sys2Proof.Machine.execFwait f s
  | .ffill f => Sys2Proof.Machine.execFfill f s
  | .fclr f => Sys2Proof.Machine.execFclr f s
  | .semsig f => Sys2Proof.Machine.execSemsig f s
  | .semwait f => Sys2Proof.Machine.execSemwait f s
  | .rngres f => Sys2Proof.Machine.execRngres f s
  | .rngpub f => Sys2Proof.Machine.execRngpub f s
  | .phase f => Sys2Proof.Machine.execPhase f s
  | .teambar f => Sys2Proof.Machine.execTeambar f s
  | .trapc f => Sys2Proof.Machine.execTrapc f s
  | .resume f => Sys2Proof.Machine.execResume f s
  | .retx f => Sys2Proof.Machine.execRetx f s
  | .brk f => Sys2Proof.Machine.execBrk f s
  | .sysrd f => Sys2Proof.Machine.execSysrd f s
  | .syswr f => Sys2Proof.Machine.execSyswr f s
  | .msend f => Sys2Proof.Machine.execMsend f s
  | .mrecv f => Sys2Proof.Machine.execMrecv f s
  | .saveg f => Sys2Proof.Machine.execSaveg f s
  | .loadg f => Sys2Proof.Machine.execLoadg f s
  | .tlbinv f => Sys2Proof.Machine.execTlbinv f s
  | .keysel f => Sys2Proof.Machine.execKeysel f s
  | .idle f => Sys2Proof.Machine.execIdle f s
  | .nput f => Sys2Proof.Machine.execNput f s
  | .nget f => Sys2Proof.Machine.execNget f s
  | .nputi f => Sys2Proof.Machine.execNputi f s
  | .nputa f => Sys2Proof.Machine.execNputa f s
  | .natom f => Sys2Proof.Machine.execNatom f s
  | .nwaitn f => Sys2Proof.Machine.execNwaitn f s
  | .nwopen f => Sys2Proof.Machine.execNwopen f s
  | .nwrev f => Sys2Proof.Machine.execNwrev f s
  | .trace f => Sys2Proof.Machine.execTrace f s
  | .trflush f => Sys2Proof.Machine.execTrflush f s
  | .trtag f => Sys2Proof.Machine.execTrtag f s
  | .audtag f => Sys2Proof.Machine.execAudtag f s
  | .audrd f => Sys2Proof.Machine.execAudrd f s
  | .audclr f => Sys2Proof.Machine.execAudclr f s
  | .moduleReset => Sys2Proof.Machine.execModuleReset s
  | .powerLoss => Sys2Proof.Machine.execPowerLoss s
  | .grandmasterLock => Sys2Proof.Machine.execGrandmasterLock s
  | .grandmasterLoss => Sys2Proof.Machine.execGrandmasterLoss s
  | .ethernetOtherFrame => Sys2Proof.Machine.execEthernetOtherFrame s
  | .hostMemoryRequest => Sys2Proof.Machine.execHostMemoryRequest s
  | .hostRegisterWrite => Sys2Proof.Machine.execHostRegisterWrite s
  | .hcmddWrite => Sys2Proof.Machine.execHcmddWrite s
  | .dbellWrite => Sys2Proof.Machine.execDbellWrite s
  | .qreg => Sys2Proof.Machine.execQreg s
  | .qunreg => Sys2Proof.Machine.execQunreg s
  | .qclear => Sys2Proof.Machine.execQclear s
  | .imageRewrite => Sys2Proof.Machine.execImageRewrite s
  | .powerCapSet => Sys2Proof.Machine.execPowerCapSet s
  | .lifetimeLogRead => Sys2Proof.Machine.execLifetimeLogRead s
  | .attestationRequest => Sys2Proof.Machine.execAttestationRequest s
  | .commit => Sys2Proof.Machine.execCommit s
  | .issueCycle => Sys2Proof.Machine.execIssueCycle s
  | .issueBoundExpiry => Sys2Proof.Machine.execIssueBoundExpiry s
  | .arbitrationLossLimit => Sys2Proof.Machine.execArbitrationLossLimit s
  | .registerResultArrival => Sys2Proof.Machine.execRegisterResultArrival s
  | .lsAccessComplete => Sys2Proof.Machine.execLsAccessComplete s
  | .lsDrainComplete => Sys2Proof.Machine.execLsDrainComplete s
  | .laneReplay => Sys2Proof.Machine.execLaneReplay s
  | .fuseWindowExpiry => Sys2Proof.Machine.execFuseWindowExpiry s
  | .fuseSuccess => Sys2Proof.Machine.execFuseSuccess s
  | .sleepExpiry => Sys2Proof.Machine.execSleepExpiry s
  | .exitComplete => Sys2Proof.Machine.execExitComplete s
  | .copyUnitWrite => Sys2Proof.Machine.execCopyUnitWrite s
  | .copyComplete => Sys2Proof.Machine.execCopyComplete s
  | .matrixOpComplete => Sys2Proof.Machine.execMatrixOpComplete s
  | .phaseReadmission => Sys2Proof.Machine.execPhaseReadmission s
  | .semaphoreReevaluation => Sys2Proof.Machine.execSemaphoreReevaluation s
  | .semaphoreWaitTimeout => Sys2Proof.Machine.execSemaphoreWaitTimeout s
  | .teamStall => Sys2Proof.Machine.execTeamStall s
  | .softStopTimeout => Sys2Proof.Machine.execSoftStopTimeout s
  | .timeSliceExpiry => Sys2Proof.Machine.execTimeSliceExpiry s
  | .ctimerExpiry => Sys2Proof.Machine.execCtimerExpiry s
  | .colHandlerEntry => Sys2Proof.Machine.execColHandlerEntry s
  | .eventRingRecordWrite => Sys2Proof.Machine.execEventRingRecordWrite s
  | .queuePoll => Sys2Proof.Machine.execQueuePoll s
  | .resumePacket => Sys2Proof.Machine.execResumePacket s
  | .signalPacket => Sys2Proof.Machine.execSignalPacket s
  | .waitPacket => Sys2Proof.Machine.execWaitPacket s
  | .markPacket => Sys2Proof.Machine.execMarkPacket s
  | .notePacket => Sys2Proof.Machine.execNotePacket s
  | .softStop => Sys2Proof.Machine.execSoftStop s
  | .hardStop => Sys2Proof.Machine.execHardStop s
  | .hardStopComplete => Sys2Proof.Machine.execHardStopComplete s
  | .resumeIssue => Sys2Proof.Machine.execResumeIssue s
  | .releasePlaces => Sys2Proof.Machine.execReleasePlaces s
  | .mresolve => Sys2Proof.Machine.execMresolve s
  | .barreinit => Sys2Proof.Machine.execBarreinit s
  | .tenupd => Sys2Proof.Machine.execTenupd s
  | .keyDraw => Sys2Proof.Machine.execKeyDraw s
  | .keyErase => Sys2Proof.Machine.execKeyErase s
  | .keyInstall => Sys2Proof.Machine.execKeyInstall s
  | .monitorKey => Sys2Proof.Machine.execMonitorKey s
  | .monitorErase => Sys2Proof.Machine.execMonitorErase s
  | .islset => Sys2Proof.Machine.execIslset s
  | .islget => Sys2Proof.Machine.execIslget s
  | .attest => Sys2Proof.Machine.execAttest s
  | .logread => Sys2Proof.Machine.execLogread s
  | .memmap => Sys2Proof.Machine.execMemmap s
  | .memunmap => Sys2Proof.Machine.execMemunmap s
  | .memprot => Sys2Proof.Machine.execMemprot s
  | .fopen => Sys2Proof.Machine.execFopen s
  | .fclose => Sys2Proof.Machine.execFclose s
  | .fread => Sys2Proof.Machine.execFread s
  | .fwrite => Sys2Proof.Machine.execFwrite s
  | .finfo => Sys2Proof.Machine.execFinfo s
  | .fsync => Sys2Proof.Machine.execFsync s
  | .skopen => Sys2Proof.Machine.execSkopen s
  | .skconn => Sys2Proof.Machine.execSkconn s
  | .sksend => Sys2Proof.Machine.execSksend s
  | .skrecv => Sys2Proof.Machine.execSkrecv s
  | .skclose => Sys2Proof.Machine.execSkclose s
  | .timeget => Sys2Proof.Machine.execTimeget s
  | .timewait => Sys2Proof.Machine.execTimewait s
  | .evring => Sys2Proof.Machine.execEvring s
  | .winset => Sys2Proof.Machine.execWinset s
  | .grpctl => Sys2Proof.Machine.execGrpctl s
  | .qopen => Sys2Proof.Machine.execQopen s
  | .nvmeCompletion => Sys2Proof.Machine.execNvmeCompletion s
  | .putPacket => Sys2Proof.Machine.execPutPacket s
  | .putiPacket => Sys2Proof.Machine.execPutiPacket s
  | .addPacket => Sys2Proof.Machine.execAddPacket s
  | .getreq => Sys2Proof.Machine.execGetreq s
  | .getrsp => Sys2Proof.Machine.execGetrsp s
  | .atomreq => Sys2Proof.Machine.execAtomreq s
  | .atomrsp => Sys2Proof.Machine.execAtomrsp s
  | .ack => Sys2Proof.Machine.execAck s
  | .nak => Sys2Proof.Machine.execNak s
  | .busy => Sys2Proof.Machine.execBusy s
  | .openPacket => Sys2Proof.Machine.execOpenPacket s
  | .openack => Sys2Proof.Machine.execOpenack s
  | .connectionContextFetched => Sys2Proof.Machine.execConnectionContextFetched s
  | .messageTransmit => Sys2Proof.Machine.execMessageTransmit s
  | .retransmitTimeout => Sys2Proof.Machine.execRetransmitTimeout s
  | .busyRetry => Sys2Proof.Machine.execBusyRetry s
  | .networkDeadline => Sys2Proof.Machine.execNetworkDeadline s
  | .reassemblyAbandon => Sys2Proof.Machine.execReassemblyAbandon s
  | .heldNotificationWrite => Sys2Proof.Machine.execHeldNotificationWrite s
  | .notificationHoldExpiry => Sys2Proof.Machine.execNotificationHoldExpiry s
  | .sampleAudit => Sys2Proof.Machine.execSampleAudit s
  | .traceRingWrite => Sys2Proof.Machine.execTraceRingWrite s
  | .dropRecordWrite => Sys2Proof.Machine.execDropRecordWrite s
  | .losslessRelease => Sys2Proof.Machine.execLosslessRelease s
  | .trfullTimeout => Sys2Proof.Machine.execTrfullTimeout s
  | .samplePick => Sys2Proof.Machine.execSamplePick s
  | .powerMeasurement => Sys2Proof.Machine.execPowerMeasurement s
  | .limiterRaiseHold => Sys2Proof.Machine.execLimiterRaiseHold s
  | .ageingMeasurement => Sys2Proof.Machine.execAgeingMeasurement s
  | .ageingMeasurementEnd => Sys2Proof.Machine.execAgeingMeasurementEnd s
  | .patrolScrub => Sys2Proof.Machine.execPatrolScrub s
  | .lifetimeLogRewrite => Sys2Proof.Machine.execLifetimeLogRewrite s
  | .pyxlinkPacketDropped => Sys2Proof.Machine.execPyxlinkPacketDropped s
  | .temperatureVoltageBinMinute => Sys2Proof.Machine.execTemperatureVoltageBinMinute s

end Sys2Proof.Machine
end

