-- ==== Sys2Proof/Machine/Sched.lean ====
section
/-! DEFINITION. What can happen next, and what every step does beside what happens in it (assumption 4). The events
of the outside world are not here: they are inputs of the state. -/

namespace Sys2Proof.Machine

/-- What the service kernel does of its own accord: it ends the move of a page, begins one of a context's page, emulates the
misaligned access of a group, sets another network deadline, destroys a context, or signals a threshold event. Before it, boot. -/
inductive KernelAct where
  | moved (m : Move)
  | move (ctx : Nat)
  | emulate (gid : Nat)
  | deadline
  | destroy (ctx : Nat)
  | upcall (u : Upcall)
  | boot

/-- A next thing: an agent issues its next instruction, an event takes place, or the service kernel acts. -/
inductive Choice where
  | issue (a : Agent)
  | event (e : Event)
  | kernel (k : KernelAct)

def evNone (i : Instr) : Choice := .event { step := i, arg := .none }
def evNat (i : Instr) (n : Nat) : Choice := .event { step := i, arg := .nat n }
def evNat2 (i : Instr) (a b : Nat) : Choice := .event { step := i, arg := .nat2 a b }
def evAgent (i : Instr) (a : Agent) : Choice := .event { step := i, arg := .agent a }

/-! ### Agents -/

/-- The monitor call of a number (R310, R342, R420). -/
def monEvent : Nat → List Instr
  | 1 => [.monitorKey]
  | 2 => [.monitorErase]
  | 3 => [.islset]
  | 4 => [.islget]
  | 5 => [.attest]
  | 6 => [.logread]
  | _ => []

/-- What a col can do beside what every agent can. -/
def State.colChoices (s : State) (n : Nat) : List Choice :=
  let c := s.col n
  -- what the boot col does in mask ROM is boot itself (assumption 11)
  let rom := n == 0 && match s.mod.boot with
    | .reset | .verify | .load _ _ => true
    | _ => false
  let go := if !rom && s.canIssue (.col n) c.g then [if s.takesEvent n then evNat .colHandlerEntry n else .issue (.col n)] else []
  let mon := match c.call with
    | some q => if c.priv = .monitor then (monEvent q.num.toNat).map (evNat · n) else []
    | none => []
  let rec_ := if !c.held.isEmpty && c.ringRoom then [evNat .eventRingRecordWrite n] else []
  go ++ mon ++ rec_ ++ if s.timerDue n then [evNat .ctimerExpiry n] else []

/-- The outstanding work of an agent that can complete (R67, R148, R316, R189). -/
def State.workChoices (s : State) (a : Agent) (g : Group) : List Choice :=
  ((List.range g.results.length).filter g.canArrive).map (fun k => Choice.event { step := .registerResultArrival, arg := .agentIdx a k }) ++
  ((List.range g.ops.length).filter fun k => g.canComplete k && !(g.ops[k]?.any fun o => s.opLate o.op) && !s.recHeld g 0 && !s.groupWaits g 1).map (fun k => Choice.event { step := .lsAccessComplete, arg := .agentIdx a k }) ++
  match g.park with
  | .drain d => if g.drained d then [evAgent .lsDrainComplete a] else []
  | .fence _ _ => if g.lsZero then [evAgent .lsDrainComplete a] else []
  | .sleep _ due => if due ≤ s.time then [evAgent .sleepExpiry a] else []
  | _ => []

/-- What else a group can do. -/
def State.groupChoices (s : State) (g : Group) : List Choice :=
  (if g.canReplay && s.runs g.ctx && !s.untold g then [evNat .laneReplay g.id] else []) ++
  (if s.mayEnd g then [evNat .exitComplete g.id] else []) ++
  if s.canIssue (.group g.id) g then
    evNat .issueCycle (g.core * 4 + g.quad) ::
    (if g.due then [evNat .issueBoundExpiry g.id] else []) ++
    (g.lost.filter fun p => decide (15 ≤ p.2)).map fun p => evNat2 .arbitrationLossLimit g.id p.1
  else if g.pass2 then [evNat .issueCycle (g.core * 4 + g.quad)]
  else []

/-! ### Engines -/

def State.engineChoices (s : State) : List Choice :=
  (s.fuses.flatMap fun x => (if s.fuseExpired x then [evNat .fuseWindowExpiry x.num] else []) ++ if s.fuseReady x then [evNat .fuseSuccess x.num] else []) ++
  (s.copies.flatMap fun c =>
    if !s.copyReady c then []
    else if c.left.isEmpty then (if s.copyHeld c then [] else [evNat .copyComplete c.op]) else c.left.map (evNat2 .copyUnitWrite c.op)) ++
  (s.mtx.filter fun m => s.mtxReady m && !s.mtxHeld m).map (fun m => evNat .matrixOpComplete m.op) ++
  ((s.teams.map (·.core)).eraseDups.flatMap fun core =>
    match (s.readyPhases core).filter fun x => s.mayEnter x.1.ctx with
    | (t, p) :: _ =>
      if (s.freeRuns core p.grp.slices).any fun r => rootAligned t.rwidth r.2 p.grp.slice0 then [evNat .phaseReadmission core] else []
    | [] => []) ++
  (s.waiters.flatMap fun w => evNat .semaphoreReevaluation w.order :: if s.waitDue w then [evNat .semaphoreWaitTimeout w.order] else []) ++
  ((List.range s.teams.length).filter fun k => (s.teams[k]?.map s.stallDue).getD false).map (evNat .teamStall ·) ++
  ((List.range 48).filter fun r => (s.nextSample r).any fun x => x.bad || !s.sampleHeld x).map (evNat .sampleAudit ·)

/-! ### Network -/

def pktEvent : PktKind → Instr
  | .put => .putPacket
  | .puti => .putiPacket
  | .add => .addPacket
  | .getreq => .getreq
  | .getrsp => .getrsp
  | .atomreq => .atomreq
  | .atomrsp => .atomrsp
  | .ack => .ack
  | .nak => .nak
  | .busy => .busy
  | .openReq => .openPacket
  | .openack => .openack

/-- The timers of an operation's packet, or of its connection's OPEN at 1024. -/
def State.timerChoices (s : State) (o : NetOp) (j : Nat) (p : TxPkt) : List Choice :=
  (if s.ackDue p then [evNat2 .retransmitTimeout o.op j] else []) ++ if s.busyOver p then [evNat2 .busyRetry o.op j] else []

def State.netChoices (s : State) : List Choice :=
  ((s.net.loop ++ s.net.refused).map fun p => Choice.event { step := pktEvent p.kind, arg := .pkt p }) ++
  ((s.net.rx.filter fun c => !c.cached && s.net.miss.any fun p => p.dconn == c.num).map fun c => evNat .connectionContextFetched c.num) ++
  (((s.net.ops.map (·.conn)).eraseDups.filter fun n => (s.transmits n).isSome).map (evNat .messageTransmit ·)) ++
  (s.net.ops.flatMap fun o =>
    (match s.opening o with
     | some c => s.timerChoices o 1024 c.tx
     | none => (List.range o.pkts.length).flatMap fun j => ((o.waitsAck j).map (s.timerChoices o j)).getD []) ++
    if s.deadlineDue o then [evNat .networkDeadline o.op] else []) ++
  (s.net.reasm.flatMap fun r =>
    (if s.abandonDue r then [evNat .reassemblyAbandon r.num] else []) ++ (if r.held.isSome then [evNat .heldNotificationWrite r.num] else []) ++
    if s.holdDue r then [evNat .notificationHoldExpiry r.num] else [])

/-! ### Trace fabric -/

def State.traceChoices (s : State) : List Choice :=
  (s.trc.tenants.flatMap fun t =>
    (if t.buf.isEmpty || (t.mode == 2 && s.ringFull t) then [] else [evNat .traceRingWrite t.num]) ++
    (if t.owes && !s.ringFull t then [evNat .dropRecordWrite t.num] else []) ++ if s.fullDue t then [evNat .trfullTimeout t.num] else []) ++
  ((s.groups.filter s.maySend).map fun g => s.tenantNum g.ctx).eraseDups.map (evNat .losslessRelease ·) ++
  ((s.trc.picked.filter s.writtenBack).map (·.quad)).eraseDups.map (evNat .samplePick ·)

/-! ### The service kernel (assumption 12) -/

/-- The step that serves a call (R332). -/
def callEvent : Nat → Instr
  | 0x02 => .memunmap
  | 0x03 => .memprot
  | 0x10 => .fopen
  | 0x11 => .fclose
  | 0x12 => .fread
  | 0x13 => .fwrite
  | 0x14 => .finfo
  | 0x15 => .fsync
  | 0x20 => .skopen
  | 0x21 => .skconn
  | 0x22 => .sksend
  | 0x23 => .skrecv
  | 0x24 => .skclose
  | 0x30 => .timeget
  | 0x31 => .timewait
  | 0x40 => .evring
  | 0x41 => .winset
  | 0x42 => .grpctl
  | 0x43 => .qopen
  | _ => .memmap

/-- The soft stop of a context is over: its groups are halted, or have reached PHASE or EXIT (R36). -/
def State.softOver (s : State) (ctx : Nat) : Bool :=
  s.groups.all fun g => g.ctx != ctx || g.halted.isSome || g.park == .exiting || (match g.park with
    | .phase _ _ _ _ _ => true
    | _ => false)

/-- A packet of a higher level than a context's waits for cores. -/
def State.outranked (s : State) (c : Context) : Bool :=
  s.queues.any fun q => decide (c.clevel.toNat < q.level) && q.kind == 1 && (match q.ph with
    | .taken _ => true
    | _ => false)

/-- The context that the kernel has taken off its cores can run again (R32). -/
def State.mayReturn (s : State) (c : Context) : Bool := !s.outranked c && (s.savedPlan c (s.saved.filter fun v => v.ctx == c.ctx)).isSome

def State.ctxChoices (s : State) (c : Context) : List Choice :=
  let n := c.ctx
  (if s.softDue c then [evNat .softStopTimeout n] else []) ++
  (match c.stop with
   | .soft _ _ => if c.kstop && s.softOver n then [evNat .hardStop n] else []
   | .hard => if s.quiet n then [evNat .hardStopComplete n] else []
   | .stopped =>
     if !c.kstop then []
     else if s.holdsCores n then [evNat .releasePlaces n]
     else if s.mayReturn c then [evNat .resumeIssue n] else []
   | .none => []) ++
  if s.sliceDue c then [evNat .timeSliceExpiry n] else []

/-- The next step of a queue (R30, R348). -/
def queueEvent (q : Queue) : List Choice :=
  match q.ph with
  | .idle => if q.err then [] else [evNat .queuePoll q.num]
  | .waiting => []
  | _ =>
    match q.kind with
    | 1 => [evNat .resumePacket q.num]
    | 2 => [evNat .signalPacket q.num]
    | 3 => [evNat .waitPacket q.num]
    | 4 => [evNat .markPacket q.num]
    | _ => [evNat .notePacket q.num]

/-- Whether a call can be taken up now: its record has been delivered, and no page of its context is being moved. -/
def State.callOpen (s : State) (q : SysReq) : Bool :=
  match s.group? q.gid with
  | none => false
  | some g => (s.ctxD g.ctx).stop != .stopped && q.dev.isNone && !s.untold g && !s.moves g.ctx && (q.num.toNat != 0x31 || s.waitOver q)

/-- The context that waits for a device command. -/
def State.nvmeOpen (s : State) (x : NvmeDone) : Bool :=
  match s.mod.nvme.find? fun p => p.1 == x.cmd with
  | none => true
  | some p => (s.ctxD p.2).stop != .stopped && !(s.saved.any fun v => v.ctx == p.2)

/-- The service kernel has not been told of a merge entry: the record that made it is held (R329). -/
def State.unknown (s : State) (m : Merge) : Bool :=
  s.cols.toList.any fun c => c.held.any fun r => r.code == 0x0B && r.ctx == m.ctx && r.merge == m.num && !r.flags.testBit 4

/-- A merge entry waits for a page that is being moved: the end of the move resolves it. -/
def State.movesPage (s : State) (m : Merge) : Bool :=
  s.moving.any fun x => x.ctx == m.ctx && decide (x.va ≤ m.page * 4096) && decide (m.page * 4096 < x.va + x.size)

/-- The service kernel may destroy a context: it holds no place, and nothing of it is under way. -/
def State.unused (s : State) (c : Context) : Bool :=
  !s.keepsChip c && !s.moves c.ctx && c.stop == .none && (s.queues.all fun q => q.ctx != c.ctx || q.ph == .idle) &&
  s.net.ops.all fun o => o.isRsp || o.ctx != c.ctx

/-- What the service kernel may do of its own accord (assumption 12). -/
def State.kernelActs (s : State) : List KernelAct :=
  s.moving.map .moved ++ (s.contexts.map fun c => .move c.ctx) ++
  ((s.groups.filter fun g => (match g.park with
      | .held r => r.mine
      | _ => false) && s.runs g.ctx && !s.untold g).map fun g => .emulate g.id) ++
  [.deadline] ++ ((s.contexts.filter s.unused).map fun c => .destroy c.ctx) ++ s.aud.upcalls.map .upcall

/-- A group whose misaligned access the kernel emulates: its lanes' accesses are made as R136 has them, and the group goes on
after the instruction. -/
def State.emulate (s : State) (id : Nat) : State :=
  match s.group? id with
  | none => s
  | some g =>
    match g.park with
    | .held r => if r.mine then s.wake (.group id) { g with redo := some g.mask, mask := 0, emul := true, noBreak := true } else s
    | _ => s

def State.kernelAct (s : State) : KernelAct → State
  | .moved m => if s.moving.contains m then s.finishMove m else s
  | .move ctx => s.migrate ctx (Config.choose s.tick 7000 % 2 ^ 57) 7001
  | .emulate id => s.emulate id
  | .deadline => { s with net := { s.net with deadline := Config.choose s.tick 7003 } }
  | .destroy ctx => if (s.ctx? ctx).any s.unused then s.destroyCtx ctx else s
  | .upcall u => if s.aud.upcalls.contains u then s.upcall u else s
  | .boot => s.bootStep

def State.kernelChoices (s : State) : List Choice :=
  if s.mod.boot ≠ .ready then (if s.mod.boot = .stopped then [] else [.kernel .boot])
  else
  s.kernelActs.map .kernel ++
  ((s.merges.filter fun m => !s.unknown m).flatMap fun m => (if s.movesPage m then [0] else [0, 2 ^ 63]).map fun k => Choice.event { step := .mresolve, arg := .word (BitVec.ofNat 64 (m.num + k)) }) ++
  s.contexts.flatMap s.ctxChoices ++ s.queues.flatMap queueEvent ++
  (((List.range s.sys.length).zip s.sys).filter fun p => s.callOpen p.2).map (fun p => evNat (callEvent p.2.num.toNat) p.1) ++
  (s.mod.nvmeHeld.filter s.nvmeOpen).map (fun x => Choice.event { step := .nvmeCompletion, arg := .nvme x }) ++
  match s.mod.cmds with
  | [] => []
  | a :: _ =>
    match (s.readCmd a).op with
    | 2 => [evNone .qunreg]
    | 3 => [evNone .qclear]
    | _ => [evNone .qreg]

/-! ### The module -/

/-- 24 hours of module time. -/
def day : Nat := 1382400000000000

def State.moduleChoices (s : State) : List Choice :=
  if s.mod.boot ≠ .ready then []
  else
  (if s.mod.logNext ≠ 0 ∨ s.mod.rewritten + day ≤ s.time then [evNone .lifetimeLogRewrite] else []) ++
  (if s.mod.scrubbed + day ≤ s.time then [evNone .patrolScrub] else []) ++ (if s.calmLong && !s.mod.raising then [evNone .limiterRaiseHold] else []) ++
  ((List.range 640).filter s.ageDue).map (evNat .ageingMeasurement ·)

/-- Everything that can happen in a state. -/
def State.choices (s : State) : List Choice :=
  (List.range 48).flatMap (fun n => s.colChoices n ++ s.workChoices (.col n) (s.col n).g) ++
  s.groups.flatMap (fun g => s.workChoices (.group g.id) g ++ s.groupChoices g) ++
  s.engineChoices ++ s.netChoices ++ s.traceChoices ++ s.kernelChoices ++ s.moduleChoices

/-! ### What every step does beside what happens in it -/

/-- The engines that hold a step for want of room in a trace buffer (R393), with the tenant. -/
def State.heldSteps (s : State) : List (Nat × Nat) :=
  ((s.copies.filter fun c => s.copyReady c && s.copyHeld c && (c.left.isEmpty || c.lost.isSome || c.fail.isSome)).map fun c => (c.source, s.tenantNum c.ctx)) ++
  ((s.mtx.filter fun m => s.mtxReady m && s.mtxHeld m).map fun m => (m.source, s.tenantNum m.ctx)) ++
  ((s.net.ops.filter fun o => o.ended.isSome && s.netHeld o).map fun o => (s.firstSource o, s.tenantNum o.ctx)) ++
  ((s.net.ops.filter fun o => o.pending && o.pkts.isEmpty && !o.isRsp && s.blocked o.ctx (s.sendSource o) 0x70 o.trTag).map fun o =>
    (s.sendSource o, s.tenantNum o.ctx)) ++
  (List.range 48).flatMap fun r => ((s.nextSample r).filter s.sampleHeld).toList.map fun x => (srcOf 6 r 0 0, s.tenantNum x.ctx)

/-- What follows from a step at once: fuse attempts that end (R179), stalls (R305), the counts of trace rings (R391),
faults, results, completions and records that waited, writes that take their places, and waits of cols and audits that are
over. Records that sources hold are created when there is room (R393). -/
def State.tend (s : State) : State :=
  let s := s.endFuses.updateStalls.tendRings.endDeferred.retryFaults
  let s := (List.range 48).foldl State.retryCol s
  let s := s.contexts.foldl State.deliverHeld s
  let s := s.endLanded.settleStopped.placeSome
  let s := s.freeRecs.freeWakes
  (s.tendStalls s.heldSteps).wakeCols.wakeAuds

/-- A new tick, and the passage of time. Module time never decreases (R382), but where it counts from 0 again. Whether writes
of the next step wait for their places is free (R138, R147). -/
def State.after (s : State) (restart : Bool) (t : State) : State :=
  let t := t.tend
  -- what the passage of time brings to an attempt to fuse comes before the next event (R179)
  let time := (if restart then t.time else max s.time t.time) + Config.elapsed s.tick
  let u := State.endFuses { t with tick := s.tick + 1, time := time }
  { u with tick := s.tick + 1, time := time
           lag := Config.choose s.tick 8 % 2 == 1, cut := if Config.choose s.tick 9 % 2 = 0 then none else some (Config.choose s.tick 10 % 64) }

end Sys2Proof.Machine
end

