-- ==== Sys2Proof/Machine/Step.lean ====
section
/-! DEFINITION. One step of the part: the next input of the outside world; else the next agent chosen
to issue; else one of the things that can happen, freely chosen (assumption 4). -/

namespace Sys2Proof.Machine

/-- The answer of what happened, with what every step does around it. -/
def finishStep (s : State) (restart : Bool) : Out State → Out State
  | .next t => .next (s.after restart t)
  | .fault f => .fault f
  | .refused r => .refused r

/-- An event with its operands. -/
def State.doEvent (s : State) (e : Event) : Out State := exec e.step { s with ev := e.arg }

/-- An agent fetches, decodes and executes one instruction; a col with an event pending enters its handler first
(R309); an agent that cannot issue does nothing. -/
def State.doIssue (s : State) (a : Agent) : Out State :=
  match s.ag? a with
  | none => .next s
  | some g =>
    if !s.canIssue a g then .next s
    else if s.entersFirst a then .next (s.enterNow a g)
    else
      s.orHold a g (match s.fetchFor a g with
        | .stop s => .next s
        | .run i s => exec i (s.begins a i))

def State.doChoice (s : State) : Choice → Out State
  | .issue a => s.doIssue a
  | .event e => s.doEvent e
  | .kernel k => .next (s.kernelAct k)

/-- The steps after which module time counts from 0 again (R382). -/
def restarts : Instr → Bool
  | .moduleReset | .powerLoss => true
  | _ => false

def step (s : State) : Host.Outcome State Fault Refusal :=
  match s.inputs with
  | e :: r =>
    let s' := { s with inputs := r }
    finishStep s (restarts e.step) (if e.step.isEvent then s'.doEvent e else .next s')
  | [] =>
    match s.issuing with
    | a :: r => finishStep s false ({ s with issuing := r }.doIssue a)
    | [] =>
      match s.choices with
      | [] => finishStep s false (.next s)
      | c :: r => finishStep s false (s.doChoice ((c :: r).getD (Config.choose s.tick 0 % (r.length + 1)) c))

/-- The state with an instruction, given by its bits as the table numbers them, where step fetches. -/
def State.withFetchWord (s : State) (nbits w : Nat) : State := s.placeWords (tableWords nbits w)

end Sys2Proof.Machine
end

