-- ==== Sys2Proof/Safety.lean ====
section
/-! DEFINITION. What counts as a sound state and a safe run, and the terms in which claims say what an
instruction leaves. -/

namespace Sys2Proof

open Machine

/-! ### Runs -/

/-- Memory is in its canonical form. -/
def Sound (s : State) : Prop := Memory.wf s.mem = true

/-- A step that goes on. -/
def Goes (s t : State) : Prop := Machine.step s = .next t

/-- The states that steps reach. -/
inductive Reaches : State → State → Prop where
  | refl (s : State) : Reaches s s
  | step {s t u : State} (h : Reaches s t) (g : Goes t u) : Reaches s u

/-- A run that never stops. -/
def SafeRun (s : State) : Prop := ∀ t, Reaches s t → ∃ u, Goes t u

/-! ### The agent of an instruction -/

/-- Agent a, with registers g of which none holds an uncorrectable error (R424), executes an instruction of which no part has been
executed before. -/
structure Issues (s : State) (a : Agent) (g : Group) : Prop where
  cur : s.cur.agent = a
  ag : s.ag? a = some g
  rest : g.rest = none
  fresh : g.srHeld = none ∧ g.reserved = 0
  clean : g.bad = []

/-- The same for a group that is not a col. -/
structure GroupIssues (s : State) (id : Nat) (g : Group) : Prop extends Issues s (.group id) g

/-- The instruction reads no outstanding result under STRICT (R70). -/
def Readable (f : LF) (g : Group) (lanes : W64) (srcs : List (Spec × Nat)) : Prop := hazardOf f g lanes srcs = false

/-- The instruction that a short form stands for (R53). -/
def Instr.asLong (g : Group) : Instr → Instr
  | .nopShort f => .nop (longOf f g false false)
  | .saddShort f => .sadd (longOf f g false false)
  | .ssubShort f => .ssub (longOf f g false false)
  | .sandShort f => .sand (longOf f g false false)
  | .sorShort f => .sor (longOf f g false false)
  | .sxorShort f => .sxor (longOf f g false false)
  | .sandnShort f => .sandn (longOf f g false false)
  | .sshlShort f => .sshl (longOf f g false false)
  | .sshrShort f => .sshr (longOf f g false false)
  | .ssarShort f => .ssar (longOf f g false false)
  | .smovShort f => .smov (longOf f g false false)
  | .spopcShort f => .spopc (longOf f g false false)
  | .vaddShort f => .vadd (longOf f g true false)
  | .vsubShort f => .vsub (longOf f g true false)
  | .vmulShort f => .vmul (longOf f g true false)
  | .vmulhShort f => .vmulh (longOf f g true false)
  | .vminShort f => .vmin (longOf f g true false)
  | .vmaxShort f => .vmax (longOf f g true false)
  | .vabsShort f => .vabs (longOf f g true false)
  | .vandShort f => .vand (longOf f g true false)
  | .vorShort f => .vor (longOf f g true false)
  | .vxorShort f => .vxor (longOf f g true false)
  | .vandnShort f => .vandn (longOf f g true false)
  | .vshlShort f => .vshl (longOf f g true false)
  | .vshrShort f => .vshr (longOf f g true false)
  | .vsarShort f => .vsar (longOf f g true false)
  | .vrolShort f => .vrol (longOf f g true false)
  | .vpopcShort f => .vpopc (longOf f g true false)
  | .vclzShort f => .vclz (longOf f g true false)
  | .vbrevShort f => .vbrev (longOf f g true false)
  | .vmovShort f => .vmov (longOf f g true false)
  | .faddShort f => .fadd (longOf f g true true)
  | .fsubShort f => .fsub (longOf f g true true)
  | .fmulShort f => .fmul (longOf f g true true)
  | .fminShort f => .fmin (longOf f g true false)
  | .fmaxShort f => .fmax (longOf f g true false)
  | .frcpShort f => .frcp (longOf f g true false)
  | .frsqShort f => .frsq (longOf f g true false)
  | .fsqrtShort f => .fsqrt (longOf f g true true)
  | .fexp2Short f => .fexp2 (longOf f g true false)
  | .flog2Short f => .flog2 (longOf f g true false)
  | .fsinShort f => .fsin (longOf f g true false)
  | .fcosShort f => .fcos (longOf f g true false)
  | .ftanhShort f => .ftanh (longOf f g true false)
  | .frintShort f => .frint (longOf f g true true)
  | .shflShort f => .shfl (longOf f g true false)
  | .bcastShort f => .bcast (longOf f g true false)
  | .ballotShort f => .ballot (longOf f g true false)
  | .vanyShort f => .vany (longOf f g true false)
  | .vallShort f => .vall (longOf f g true false)
  | i => i

/-! ### Frames -/

/-- The registers that only the instructions named for them write. -/
structure SameSpecial (g h : Group) : Prop where
  gmode : h.gmode = g.gmode
  fstat : h.fstat = g.fstat
  mstat : h.mstat = g.mstat
  fctl : h.fctl = g.fctl
  pri : h.pri = g.pri
  srSeed : h.srSeed = g.srSeed
  shape : h.shape = g.shape
  audTag : h.audTag = g.audTag
  audOrd : h.audOrd = g.audOrd
  trTag : h.trTag = g.trTag
  place : h.ctx = g.ctx ∧ h.tlin = g.tlin ∧ h.core = g.core ∧ h.quad = g.quad ∧ h.slice0 = g.slice0 ∧ h.root = g.root ∧ h.home = g.home
  seqs : h.seqCpy = g.seqCpy ∧ h.seqMtx = g.seqMtx ∧ h.seqNet = g.seqNet

/-- State t is s but for the registers of agent a, which are those of h, and trace records; in particular every byte of
memory, every other group, and every special register of the cols are as they were. -/
structure OnlyAgent (s : State) (a : Agent) (h : Group) (t : State) : Prop where
  state : t = { s.setAg a h with trc := t.trc }
  mem : ∀ k, readByte t.mem k = readByte s.mem k
  others : ∀ b, b ≠ a → t.ag? b = s.ag? b

/-- The instruction is complete: its agent stands at pc, ready or, with the switch marker and results
outstanding, parked with its PARK record (R45, R67, R387); without the marker no trace record is made. -/
structure Completes (s : State) (a : Agent) (h : Group) (sw : Bool) (pc : Pc) (t : State) : Prop extends OnlyAgent s a h t where
  pc_eq : h.pc = pc
  park_eq : h.park = if sw && !h.results.isEmpty then .marker else .ready
  untraced : h.park = .ready → t.trc = s.trc

/-- The flags of the lanes that raise any (R95). -/
def raisedBy (lanes : List Nat) (flags : Nat → Nat) : List (Nat × Nat) := (lanes.map fun l => (l, flags l)).filter fun p => p.2 != 0

/-- A result in the lanes of a group (R56, R60, R67): per lane its words, and the flags of the lanes that raise any; the
queue shifts by k slots for a push; no register changes until the result arrives. -/
structure VecEffect (s : State) (a : Agent) (g : Group) (f : LF) (k : Nat) (lanes : List Nat) (words : Nat → List W32)
    (flags : Nat → Nat) (counts : Bool) (t : State) : Prop where
  intro ::
  done : ∃ h, Completes s a h f.sw s.cur.next t ∧ SameSpecial g h ∧ h.sregs = g.sregs ∧ h.ops = g.ops ∧
    h.srCtr = (if counts then g.srCtr + 1 else g.srCtr) ∧
    h.lanes = (if isPush f.dst then (g.pushZeros k).lanes else g.lanes) ∧
    h.results = g.results ++ [{ writes := vWrites f.dst g.pushes (lanes.map fun l => (l, words l))
                                flags := raisedBy lanes flags }]

/-- A result in an s register of groups 0x2 to 0xA (R67), with the flags of the lanes that raise any. -/
structure SEffect (s : State) (a : Agent) (g : Group) (f : LF) (x : W64) (flags : List (Nat × Nat)) (counts : Bool) (t : State) : Prop where
  intro ::
  done : ∃ h, Completes s a h f.sw s.cur.next t ∧ SameSpecial g h ∧ h.sregs = g.sregs ∧ h.lanes = g.lanes ∧ h.ops = g.ops ∧
    h.srCtr = (if counts then g.srCtr + 1 else g.srCtr) ∧
    match f.dst with
    | .s n => h.results = g.results ++ [{ writes := [.s n.val x], flags := flags }]
    | _ => h.results = g.results ∨ h.results = g.results ++ [{ writes := [], flags := flags }]

/-- An interlocked result in an s register (R67): x in DST, when DST is one, and every other register as it was. -/
structure PutEffect (s : State) (a : Agent) (g : Group) (d : Spec) (x : W64) (sw : Bool) (pc : Pc) (t : State) : Prop where
  intro ::
  done : ∃ h, Completes s a h sw pc t ∧ SameSpecial g h ∧ h.lanes = g.lanes ∧ h.ops = g.ops ∧ h.srCtr = g.srCtr ∧
    (∀ n : Fin 32, h.getS n.val = if d = .s n then x else g.getS n.val) ∧
    h.results = match d with
      | .s n => g.results.map (Res.without [.s n.val x])
      | _ => g.results

/-- The agent parks at its instruction, with the address after it, its registers as they were and no byte of memory changed (R316). -/
structure Parks (s : State) (a : Agent) (g : Group) (p : Park) (t : State) : Prop where
  intro ::
  done : ∃ h, t.ag? a = some h ∧ h.park = p ∧ h.pnext = s.cur.next ∧ h.pc = g.pc ∧ h.sregs = g.sregs ∧ h.lanes = g.lanes ∧
    h.results = g.results ∧ SameSpecial g h
  mem : ∀ k, readByte t.mem k = readByte s.mem k

/-- The event ring of the col of a ridge has a slot, and no record waits for one (R329). -/
structure RecRoom (s : State) (n : Nat) : Prop where
  first : (s.col n).held = []
  slot : (s.col n).ringRoom = true
  place : (s.colPlace n ((s.col n).cevb.toNat + (s.col n).evw % 4096 * 64)).isSome = true

/-- The group is parked at its instruction on a precise fault, whose record names code and the program counter; its
registers are as they were (R71, R331). -/
structure Faults (s : State) (id : Nat) (g : Group) (code : Nat) (lanes : W64) (t : State) : Prop where
  intro ::
  done : ∃ h r, t.group? id = some h ∧ h.park = .held r ∧ r.code = code ∧ r.pc = g.pc.setWidth 64 ∧ r.lanes = lanes ∧ h.pc = g.pc ∧
    h.sregs = g.sregs ∧ h.lanes = g.lanes ∧ h.fstat = g.fstat ∧ h.gmode = g.gmode ∧ h.srCtr = g.srCtr ∧ h.results = []
  teams : t.teams = s.teams

/-- A branch target that the check of R163 accepts; s' is the state after the fetch of its line. -/
structure TargetOk (s : State) (a : Agent) (x : W64) (s' : State) : Prop where
  canonical : x.toNat < 2 ^ 57
  aligned : x.toNat % 4 = 0
  word : 2 ≤ x.toNat / 4 % 32
  line : ∃ ws, s.fetchLine a x.toNat = (.ok ws, s') ∧ lineOk ws = true ∧ (lineWord ws 1).getLsbD (x.toNat / 4 % 32) = true

/-- The active lanes of an instruction in ascending order (R61). -/
def activeLanes (f : LF) (s : State) (g : Group) : List Nat := lanesOf g.width (activeOf f (s.rd g))

/-- The operands of element e of a lane. -/
def elemArgs (f : LF) (s : State) (g : Group) (n l e : Nat) : List Nat :=
  (srcsOf f n).mapIdx fun i x => elemOf (packOf f.mod.toNat) e x ((s.rd g).src i f.lit f.ty x l)

/-! ### Memory instructions -/

/-- The space and the path counter of a memory instruction (R195, R202). -/
def memSpace (f : LF) : Instr → Option (Space × Nat)
  | .ld _ => some (.glob, 0)
  | .st _ | .atom _ => some (.glob, 1)
  | .lds _ | .sts _ | .atoms _ => some (.spad (f.ext.toNat % 8), 2)
  | .ldc _ | .stc _ | .atomc _ => some (.clu, 3)
  | .ldk _ | .stk _ => some (.chip, 4)
  | .ldp _ => some (.priv, 0)
  | .stp _ => some (.priv, 1)
  | _ => none

/-- The offset of a lane's access (R198). -/
def memOffset (f : LF) (sp : Space) (r : Rd) (l : Nat) : Int := if sp == .glob then globOffset f r (r.rcd f.sa) l else spaceOffset f r l

/-- An access of n bytes by the group. -/
def memReq (f : LF) (sp : Space) (r : Rd) (path n : Nat) (acc : Acc) : Req :=
  { sp := sp, rcd := if sp == .glob then r.rcd f.sa else Rcd.ofRegs [], n := n, path := some path, acc := acc }

/-- The access passes every check of R202 in the given lanes: its path counter has room, every offset is in bounds and
aligned, every address translates, to coherent pages, and no line is uncorrectable; no debug register watches the core
and races are not checked; no write waits for a place, and its own take theirs in this step (R138). pieces are the lanes' places, and s1 the state after the translations. -/
structure MemReady (s : State) (id : Nat) (g : Group) (q : Req) (offs : List (Nat × Int)) (pieces : Nat → List Piece) (s1 : State) : Prop where
  fresh : g.parkOp = none ∧ g.reserved = 0 ∧ g.redo = none ∧ g.watched = none ∧ g.raced = none
  room : ∀ p, q.path = some p → g.counter p < 63
  bounds : ∀ o ∈ offs, s.inBounds (.group id) g q o.2 = true
  aligned : ∀ o ∈ offs, q.alignAt o.2.toNat % q.n = 0
  placed : g.emul = false ∧ s.late = [] ∧ s.cut = none
  clean : s.poison = []
  unwatched : s.debug? g.core = none
  unchecked : ∀ c, s.ctx? g.ctx = some c → c.cflags.getLsbD 1 = false
  places : ∃ tr, (if q.sp.paged then s.transLines (.group id) q.acc
        (offs.flatMap fun o => (s.locate (.group id) g q o.1 o.2.toNat).map fun x => x.1 / 128) else ([], s)) = (tr, s1) ∧
    ∀ o ∈ offs, placeLane q.sp.paged tr (s.locate (.group id) g q o.1 o.2.toNat) = some (pieces o.1, [])
  coherent : ∀ o ∈ offs, ∀ p ∈ pieces o.1, p.coh = true

/-- The bytes at the places of a lane. -/
def bytesAt (m : Memory) (ps : List Piece) : List Byte := ps.flatMap fun p => readBytes m p.key p.n

/-- Bytes written to the places of a lane. -/
def writeAt (m : Memory) : List Piece → List Byte → Memory
  | [], _ => m
  | p :: ps, bs => writeAt (writeBytes m p.key (bs.take p.n)) ps (bs.drop p.n)

/-- A memory instruction has been issued: the group stands at the next instruction, its operation is counted on its path
(R148), and no register, no other agent and no team changes. -/
structure MemDone (s : State) (id : Nat) (g : Group) (f : LF) (path : Nat) (lanes : List Nat) (h : Group) (t : State) : Prop where
  ag : t.group? id = some h
  pc : h.pc = s.cur.next
  park : h.park = if f.sw && !h.results.isEmpty then .marker else .ready
  special : SameSpecial g h
  sregs : h.sregs = g.sregs
  ops : h.ops = g.ops ++ [{ path := path, op := s.nextNum, lanes := maskOf lanes }]
  others : ∀ b, b ≠ .group id → t.ag? b = s.ag? b
  teams : t.teams = s.teams

/-! ### Matrix instructions -/

/-- The matrix unit can accept an operation of the group now (R249, R252 to R254): 16 lanes or more, all active, the tile
exists and is not in the error state, the counter and the queue have room; the audit engine and race checks are off. -/
structure MtxReady (s : State) (id : Nat) (g : Group) (f : LF) (tiled : Bool) : Prop extends Issues s (.group id) g where
  unwatched : g.watched = none ∧ g.raced = none ∧ g.parkOp = none
  converged : tiled = true → Machine.converged f (s.rd g) = true
  tile : tiled = true → s.tileOk g f.tile = true
  sound : tiled = true → s.drainWaits g f.tile = false ∧ (s.tileOf g f.tile).err = false
  room : g.counter 6 < 63 ∧ (s.quadQueue g.core g.quad).length < 16
  unaudited : (s.audRegs g.ctx).admits g.audTag.toNat = false
  unspoiled : s.poison = []
  unchecked : ∀ c, s.ctx? g.ctx = some c → c.cflags.getLsbD 1 = false

/-- An operation m has been accepted: it stands last in the matrix queues, under the next operation number, counted on MTX, with the
group's next sequence number; the group stands at the next instruction and no tile and no byte of memory has changed since s1. -/
structure MtxQueued (s s1 : State) (id : Nat) (g : Group) (sw : Bool) (i : Instr) (m : MtxOp) (h : Group) (t : State) : Prop where
  ag : t.group? id = some h
  queue : t.mtx = s.mtx ++ [m]
  op : m.op = s.nextNum ∧ t.nextNum = s.nextNum + 1
  instr : m.i = i
  place : m.ctx = g.ctx ∧ m.tlin = g.tlin ∧ m.core = g.core ∧ m.quad = g.quad ∧ m.width = g.width ∧ m.home = g.home ∧ m.gmode = g.gmode
  ops : h.ops = g.ops ++ [{ path := 6, op := s.nextNum, lanes := g.live }]
  seq : h.seqMtx = g.seqMtx + 1
  pc : h.pc = s.cur.next
  park : h.park = if sw && !h.results.isEmpty then .marker else .ready
  regs : h.sregs = g.sregs ∧ h.gmode = g.gmode ∧ h.fstat = g.fstat ∧ h.mstat = g.mstat
  teams : t.teams = s.teams
  mem : t.mem = s1.mem

/-! ### Groups and barriers -/

/-- No wake of a synchronisation event waits for its trace record: the context's tenant is not lossless, and none is held (R393). -/
structure Prompt (s : State) (ctx : Nat) : Prop where
  lossy : ∀ t, s.tenant? (s.tenantNum ctx) = some t → t.mode ≠ 2
  none_ : s.trc.wakes = []

/-- Every resident group has a number of its own, below the next one to be given. -/
def Distinct (s : State) : Prop := (s.groups.map (·.id)).Nodup ∧ ∀ g ∈ s.groups, g.id < s.nextGroup

/-- A result of x for the s register DST (R67, R192); specifier 0x70 discards it. -/
def sResult (d : Spec) (x : W64) (op : Option Nat := none) : List Res :=
  match d with
  | .s n => [{ writes := [.s n.val x], op := op }]
  | _ => []

/-- A group parked at an instruction has completed it: it stands at the address after it, with these further results
outstanding. -/
structure Resumed (w : Group) (rs : List Res) (t : State) : Prop where
  intro ::
  done : ∃ h, t.group? w.id = some h ∧ h.pc = w.pnext ∧ h.sregs = w.sregs ∧ h.lanes = w.lanes ∧ h.results = w.results ++ rs

/-- The group's team holds b in barrier n, and in every other barrier what tm held (R284). -/
structure BarIs (tm : Team) (n : Nat) (b : Bar) (g : Group) (t : State) : Prop where
  intro ::
  done : ∃ u, t.team? g.ctx g.tlin = some u ∧ u.bar n = b ∧ ∀ k, k ≠ n → u.bar k = tm.bar k

/-- The other groups of the team that wait for generation k of barrier n have been woken: those of BARWAIT with a status, those
of BARPAY with a value (R285, R289). -/
def WokenAt (s : State) (id : Nat) (g : Group) (n k : Nat) (status : Nat) (pay : W64) (t : State) : Prop :=
  ∀ w ∈ s.groups, w.id ≠ id → w.ctx = g.ctx → w.tlin = g.tlin → w.rest = none → ∀ d,
    (w.park = .barwait n k d → Resumed w (sResult d (BitVec.ofNat 64 (status + k * 256))) t) ∧
    (w.park = .barpay n k d → Resumed w (sResult d pay) t)

/-- The group has executed its instruction on barrier n: it stands at the next one with the given further results, its registers
as they were, and no byte of memory has changed. -/
structure BarDone (s : State) (id : Nat) (g : Group) (rs : List Res) (t : State) : Prop where
  intro ::
  done : ∃ h, t.group? id = some h ∧ h.pc = s.cur.next ∧ h.sregs = g.sregs ∧ h.lanes = g.lanes ∧ h.results = g.results ++ rs ∧
    h.ops = g.ops ∧ SameSpecial g h
  mem : ∀ k, readByte t.mem k = readByte s.mem k

/-- The agent has executed an instruction of one access, counted on a path under the next operation number (R148): it stands at the
next instruction with these further results outstanding. -/
structure Counted (s : State) (a : Agent) (g : Group) (f : LF) (path : Nat) (rs : List Res) (t : State) : Prop where
  intro ::
  done : ∃ h, t.ag? a = some h ∧ h.pc = s.cur.next ∧ h.park = (if f.sw && !h.results.isEmpty then .marker else .ready) ∧ h.sregs = g.sregs ∧
    h.lanes = g.lanes ∧ h.results = g.results ++ rs ∧ h.ops = g.ops ++ [{ path := path, op := s.nextNum, lanes := g.live }] ∧ SameSpecial g h
  others : ∀ b, b ≠ a → t.ag? b = s.ag? b

/-- The agent has executed a network operation that is complete as it issues: counted on NET behind those before it (R148, R375), with
these further results outstanding. -/
structure NetCounted (s : State) (a : Agent) (g : Group) (rs : List Res) (t : State) : Prop where
  intro ::
  done : ∃ h, t.ag? a = some h ∧ h.pc = s.cur.next ∧ h.sregs = g.sregs ∧ h.lanes = g.lanes ∧ h.results = g.results ++ rs ∧
    h.ops = ((g.raise 7 s.nextNum g.live).complete s.nextNum).ops ∧ SameSpecial g h
  others : ∀ b, b ≠ a → t.ag? b = s.ag? b

/-- n bytes at a key hold x, and every other byte is as in memory m. -/
structure Wrote (m : Memory) (key n x : Nat) (t : State) : Prop where
  at_ : readLE t.mem key n = x
  rest : ∀ k, k < key ∨ key + n ≤ k → readByte t.mem k = readByte m k

/-- The agent may make a global access without a watch or a race check, and no write waits for a place (R138). -/
structure Unwatched (s : State) (g : Group) : Prop where
  none_ : g.watched = none ∧ g.raced = none
  core : s.debug? g.core = none
  clean : s.poison = []
  placed : s.late = [] ∧ s.cut = none
  races : ∀ c, s.ctx? g.ctx = some c → c.cflags.getLsbD 1 = false

/-! ### Cols -/

/-- The agent has executed its instruction: it stands at the next one, with its registers as they were but for the s register DST,
which holds x (R67). -/
structure AgPut (s : State) (a : Agent) (g : Group) (d : Spec) (x : W64) (t : State) : Prop where
  intro ::
  done : ∃ h, t.ag? a = some h ∧ h.pc = s.cur.next ∧ h.lanes = g.lanes ∧ h.gmode = g.gmode ∧ h.fstat = g.fstat ∧
    ∀ r : Fin 32, h.getS r.val = if d = .s r then x else g.getS r.val

/-- A col may take an exception in its handler (R309): at service privilege, with IE set, and CVEC names a branch target of a privileged line; no
access of its own waits for a place (R138). -/
structure HandlerReady (s : State) (n : Nat) : Prop where
  service : (s.col n).priv = .service
  ie : (s.col n).ie = true
  vector : (s.col n).cvec.toNat < 2 ^ 57 ∧ (s.target? n (s.col n).cvec.toNat true).1 = true
  placed : s.lateLs (.col n) = false

/-- A col has entered its handler (R309): CEPC and CECODE tell where and why, IE is clear, PIE and PPRV hold what IE and PRV were, and it
runs at service privilege at CVEC with its registers as they were. -/
structure EntersHandler (s : State) (n : Nat) (pc : W64) (code : Nat) (t : State) : Prop where
  saved : (t.col n).cepc = pc ∧ (t.col n).cecode = BitVec.ofNat 64 code
  status : (t.col n).ie = false ∧ (t.col n).priv = .service ∧ (t.col n).cstat.getLsbD 4 = (s.col n).ie ∧
    (t.col n).cstat.extractLsb' 2 2 = (s.col n).cstat.extractLsb' 8 2
  at_ : (t.col n).g.pc = (s.col n).cvec.setWidth 57 ∧ (t.col n).g.park = .ready
  regs : (t.col n).g.sregs = (s.col n).g.sregs ∧ (t.col n).g.lanes = (s.col n).g.lanes
  others : t.groups = s.groups ∧ t.teams = s.teams

/-- The monitor's code at MONVEC may be entered (R312), and no access of the col's own waits for a place (R138). -/
def MonitorReady (s : State) (n : Nat) : Prop :=
  s.lateLs (.col n) = false ∧ (s.col n).monvec.toNat < Config.monitorRegion ∧
    ((s.setCol n ((s.col n).setPrv 2)).target? n (s.col n).monvec.toNat false).1 = true

/-- A col has entered the monitor (R312): MEPC and MCODE tell where and why, MSAVE holds what CSTAT was, and it runs at monitor privilege
at MONVEC with its registers as they were. -/
structure EntersMonitor (s : State) (n : Nat) (pc : W64) (code : Nat) (t : State) : Prop where
  saved : (t.col n).mepc = pc ∧ (t.col n).mcode = BitVec.ofNat 64 code ∧ (t.col n).msave = (s.col n).status.setWidth 64
  status : (t.col n).priv = .monitor
  at_ : (t.col n).g.pc = (s.col n).monvec.setWidth 57 ∧ (t.col n).run = (s.col n).run
  regs : (t.col n).g.sregs = (s.col n).g.sregs ∧ (t.col n).g.lanes = (s.col n).g.lanes
  others : t.groups = s.groups ∧ t.teams = s.teams

/-! ### Calls, packets and commands -/

/-- Request q, of group g, is the next to be served: no device serves it, and its group, whose context is not stopped and has no
page on the move, waits for it alone, with registers r and r + 1 for its result (R320). -/
structure Serving (s : State) (q : SysReq) (g : Group) (r : Fin 64) : Prop where
  next : ∃ i, s.ev = .nat i ∧ s.sys[i]? = some q
  group : s.group? q.gid = some g
  park : g.park = .trapc (.v r)
  lanes : g.mask = q.lanes
  rest : g.rest = none
  free : q.dev = none
  runs : (s.ctxD g.ctx).stop ≠ .stopped
  still : s.moves g.ctx = false

/-- The request has been answered with x (R320, R321): its group stands at the address after its TRAPC, with x in its two registers in
the lanes of the request, and every other register as it was. -/
structure Answered (q : SysReq) (g : Group) (r : Fin 64) (x : W64) (t : State) : Prop where
  intro ::
  done : ∃ h, t.group? q.gid = some h ∧ h.pc = g.pnext ∧ h.sregs = g.sregs ∧ h.width = g.width ∧ ∀ l (n : Fin 64), l < g.width →
    (h.laneAt l).getV n.val =
      if q.lanes.getLsbD l && n.val == r.val then x.setWidth 32
      else if q.lanes.getLsbD l && n.val == r.val + 1 then (x >>> 32).setWidth 32
      else (g.laneAt l).getV n.val
  gone : ∀ y ∈ t.sys, y.gid = q.gid → y.lanes &&& q.lanes = 0

/-- The request waits for a storage device, which has been given a command, for a file and with data; its group waits as before (R332). -/
structure Submitted (s : State) (q : SysReq) (g : Group) (file : Nat) (data : List Byte) (t : State) : Prop where
  group : t.group? q.gid = some g
  given : ∃ n, t.mod.nvme = s.mod.nvme ++ [(n, g.ctx)] ∧ { q with dev := some n } ∈ t.sys ∧
    t.mod.replies = s.mod.replies ++ [(8, q.command n file data)]
  mem : t.mem = s.mem

/-- The tables of a context form a tree: no two of them share a byte. -/
def TablesApart (s : State) (c : Context) : Prop :=
  (tablesOf s.mem 3 (ptePfn c.croot)).Pairwise fun x y => x.1 + x.2 ≤ y.1 ∨ y.1 + y.2 ≤ x.1

/-- A leaf has the rights that the flags of MEMMAP ask for (R332, R125): reading always, and PCTX in a protected context. -/
structure Rights (flags : Nat) (prot : Bool) (e : W64) : Prop where
  read : pteR e = true ∧ pteU e = true
  write : pteW e = flags.testBit 0
  exec : pteX e = flags.testBit 1
  coherent : pteCoh e = !flags.testBit 3
  prot : ptePctx e = prot

/-- A packet of queue q is done (R348), with what its REL waits for in state s: the read index, here and at key k in the queue's descriptor,
names the next packet; other memory is as in u. -/
structure PacketOver (s : State) (q : Queue) (k : Nat) (u t : State) : Prop where
  queue : q.unreg = none → t.queue? q.num = some { q with idx := q.idx + 1, ph := .idle, pkt := [], img := [], gids := [] }
  gone : q.unreg ≠ none → t.queue? q.num = none
  index : q.unreg = none → Wrote u.mem (k + 16) 4 (q.idx + 1).toNat t
  groups : t.groups = s.groups ∧ t.teams = s.teams

/-- With its own effect done, in state s0, the packet of queue q ends in step i of s (R31, R348 steps 3 to 5): REL, then the completion signal of a
RESUME or a NOTE that names one, then the read index. -/
def PacketEnds (s0 : State) (q : Queue) (i : Instr) (s : State) : Prop :=
  let s1 := if q.kind = 1 then s0.placeAll else s0.fenceStreams (.col q.home) q.rel
  let ends := fun (s2 : State) => ∀ k c u, s2.qKey q .write q.desc = some (k, c, u) → Sound u → ∃ t, exec i s = .next t ∧ PacketOver s1 q k u t
  let sig := (q.kind = 1 ∨ q.kind = 5) ∧ q.word 16 ≠ 0
  (q.kind ≠ 1 → s0.late = []) →
  (¬sig → ends s1) ∧
  (sig → q.word 16 % 8 = 0 → ∀ k c s2, s1.ctxKey q.ctx .atomic (q.word 16) = some (k, c, s2) → Sound s2 →
    ∃ s3, s1.signal q (q.word 16) (q.word 24) = some s3 ∧ Wrote s2.mem k 8 ((readLE s2.mem k 8 + q.word 24) % 2 ^ 64) s3 ∧ ends s3)

/-- A host command block has completed with result x (R427); other memory is as in m. -/
structure CmdDone (s : State) (c : HostCmd) (x : Int) (m : Memory) (t : State) : Prop where
  tag : readLE t.mem (hostBase + c.at_ + 112) 4 = c.tag
  result : readLE t.mem (hostBase + c.at_ + 120) 8 = wrapTo 64 x
  rest : ∀ k, k < hostBase + c.at_ + 112 ∨ hostBase + c.at_ + 128 ≤ k → readByte t.mem k = readByte m k
  counts : t.mod.hcmds = s.mod.hcmds + 0x100000000 ∧ t.mod.hevt = s.mod.hevt ||| 1

/-- The monitor of col n is to serve call num with these arguments, whose result goes to registers r and r + 1 of the one lane (R310). -/
structure Monitors (s : State) (n num : Nat) (q : MonCall) (r : Fin 64) : Prop where
  ev : s.ev = .nat n
  col : n < 48
  priv : (s.col n).priv = .monitor
  call : (s.col n).call = some q
  num : q.num.toNat = num
  dst : q.dst = .v r
  lane : (s.col n).g.width = 1

/-- The monitor has served the call (R310, R311): x stands in its two registers, and the col runs on at MEPC with the status of MSAVE, its other
registers as they were. -/
structure MonServed (s : State) (n : Nat) (r : Fin 64) (x : W64) (t : State) : Prop where
  status : (t.col n).cstat = restoreStatus (s.col n).msave ∧ (t.col n).call = none
  at_ : (t.col n).g.pc = pcOf (s.col n).mepc ∧ (t.col n).g.park = .ready
  sregs : (t.col n).g.sregs = (s.col n).g.sregs
  regs : ∀ i : Fin 64, ((t.col n).g.laneAt 0).getV i.val =
    if i.val = r.val then x.setWidth 32 else if i.val = r.val + 1 then (x >>> 32).setWidth 32 else ((s.col n).g.laneAt 0).getV i.val
  others : t.groups = s.groups ∧ t.teams = s.teams

/-! ### Network packets -/

/-- A well-formed packet p of a kind is to be processed (R353): one that waited here, or one that has arrived at a port, as
a packet or as the bytes of a datagram; s0 is the state without it. -/
structure Arrives (s : State) (p : NetPkt) (k : PktKind) (s0 : State) : Prop where
  ok : p.kind = k ∧ pktOk p k = true
  from_ : s.ev = .pkt p ∧ p ∈ s.net.loop ∧ s0 = { s with net := { s.net with loop := s.net.loop.erase p } } ∨
    s.ev = .pkt p ∧ p ∉ s.net.loop ∧ p ∉ s.net.refused ∧ p.port < 16 ∧ s0 = s ∨
    (∃ port addr src ce b ps, s.ev = .udp port addr src ce b ps ∧ (pktOf port addr src ce b).map (fun x => { x with after := ps }) = some p ∧ port < 16) ∧ s0 = s

/-- Between s and t a packet has been sent: to this module through loopback, which passes through no port, or to the network. -/
structure Sent (s t : State) (p : NetPkt) : Prop where
  loop : p.port = 16 → ∃ l, t.net.loop = s.net.loop ++ l ∧ p ∈ l
  out : p.port ≠ 16 → ∃ l d, t.net.out = s.net.out ++ l ∧ d ∈ l ∧ d.pkt = p

/-- A reply to packet p of connection c has been sent: its kind, status and D bit. -/
def Replied (s t : State) (c : RxConn) (p : NetPkt) (k : PktKind) (status : Nat) (done : Bool) : Prop :=
  ∃ r, Sent s t r ∧ r.kind = k ∧ r.dconn = c.senderId ∧ r.msn = p.msn ∧ r.pidx = p.pidx ∧ r.status = status ∧ r.done = done

/-- Packet p is the first to arrive of a message on a cached connection c of a context: none of its message has been seen (R359, R376). -/
structure FirstOf (s : State) (p : NetPkt) (c : RxConn) : Prop where
  conn : s.net.rx.find? (fun x => x.num == p.dconn) = some c
  ctx : (s.ctx? c.ctx).isSome = true
  cached : c.cached = true
  fresh : c.failed.find? (fun f => f.1 == p.msn) = none ∧ c.isDone p.msn = false ∧
    s.net.reasm.find? (fun r => r.conn == c.num && r.msn == p.msn) = none

/-- The checks of R364 let the packet pass to window w: its generation, key, right and length. -/
structure Admitted (s : State) (p : NetPkt) (c : RxConn) (w : Win) : Prop extends FirstOf s p c where
  win : (s.ctxD c.ctx).win? p.win = some w
  gen : p.gen = w.gen ∧ w.gen % 2 = 1
  key : p.key = w.key
  right : w.perm.testBit (needs p.kind) = true
  len : pktReach p ≤ w.len
  room : s.net.reasm.length < Config.reassemblyLimit ∧ (p.kind = .puti → ∀ r ∈ s.net.reasm, r.ctx = c.ctx → r.win = p.win → r.held = none)

/-- Packet p has been performed (R365, R376): a message of one packet is over, and any other has it in its reassembly entry; the reply says which. -/
structure Performed (s0 : State) (p : NetPkt) (c : RxConn) (w : Win) (t : State) : Prop where
  one : p.pcnt = 1 → Replied s0 t c p .ack 0 true ∧ ∀ r ∈ t.net.reasm, ¬(r.conn = c.num ∧ r.msn = p.msn)
  more : p.pcnt ≠ 1 → Replied s0 t c p .ack 0 false ∧ ∃ r ∈ t.net.reasm, r.conn = c.num ∧ r.msn = p.msn ∧ r.got = [p.pidx] ∧ r.bytes = p.plen ∧
    r.base = w.base ∧ r.len = w.len ∧ r.ring = w.notif ∧ r.sem = w.sem

end Sys2Proof
end

