-- ==== Sys2Proof/Certificates/Slice0/Obligations.lean ====
section
/-! DEFINITION. The statements about the model, from the numbered rules of spec/. -/

open Sys2Proof Sys2Proof.Machine

/-! ### Decoding and encoding -/

/-- Words of the spec's own examples decode to the instructions they stand for, with their operands: R78 (FADD, FMUL,
EXIT), R162 and R167 (BRZM), R158 (SETMODE), R172 (SCMP), R246 (REDUX). -/
def Obligations.SpecWordsDecode : Prop :=
  decodeTableWord 32 0x28002A7D = some (.faddShort { sw := true, g := false, dst := .v 0, sa := .s 4, sb := .half }) ∧
  decodeTableWord 32 0x28408054 = some (.fmulShort { sw := true, g := false, dst := .v 2, sa := .v 0, sb := .s 4 }) ∧
  (decodeTableWord 96 (0x80400AA0 + 0x80 * 2 ^ 64)).map Instr.long? =
    some (some (0, 8, { sw := false, lit := some 0x80, dst := .v 0, sa := .s 5, ext := 0, sb := .v 0, sc := .v 0
                        guard := { inv := false, idx := 0 }, ty := .i32, rnd := .rne, mod := 0 })) ∧
  decodeTableWord 64 (0x428D8AC2 + 0xAE000001 * 2 ^ 32) =
    some (.scmp { sw := false, lit := none, dst := .s 8, sa := .s 6, ext := 2, sb := .s 7, sc := .v 0
                  guard := { inv := false, idx := 0 }, ty := .i32, rnd := .rne, mod := 1 }) ∧
  decodeTableWord 64 (0x40080E01 + 0xF8000000 * 2 ^ 32) =
    some (.setmode { sw := false, lit := none, dst := .v 0, sa := .zero, ext := 1, sb := .neg1, sc := .v 0
                     guard := { inv := false, idx := 0 }, ty := .i32, rnd := .rne, mod := 0 }) ∧
  decodeTableWord 64 (0x487DF040 + 0x00000100 * 2 ^ 32) =
    some (.redux { sw := false, lit := none, dst := .s 15, sa := .v 2, ext := 0, sb := .v 0, sc := .v 0
                   guard := { inv := false, idx := 0 }, ty := .n32, rnd := .rne, mod := 0 }) ∧
  decodeTableWord 64 0x40600000 =
    some (.exit { sw := false, lit := none, dst := .v 0, sa := .v 0, ext := 0, sb := .v 0, sc := .v 0
                  guard := { inv := false, idx := 0 }, ty := .i32, rnd := .rne, mod := 0 })

/-- Every well-formed instruction that has an encoding, with every operand at every value, is read back from its words,
whatever words follow it (R49-R51, R79, R80). -/
def Obligations.DecodeEncodeRoundTrip : Prop :=
  ∀ (i : Instr) (rest : List W32), i.wf = true → i.isEvent = false → decodeWords (encode i ++ rest) = .ok i

/-- The decoder answers only with well-formed instructions, and refuses length 11 (R49), every OPC7 value that the map leaves
unassigned, and in both long forms every function above those that the map assigns to its group, which are none for the groups 0xB
to 0xF (R79, R80). -/
def Obligations.DecoderRefusesReserved : Prop :=
  (∀ ws i, decodeWords ws = .ok i → i.wf = true ∧ i.isEvent = false) ∧
  (∀ (w : W32) ws, w.toNat / 2 ^ 30 = 3 → decodeWords (w :: ws) = .error .length) ∧
  (∀ (w : W32) ws, w.toNat / 2 ^ 30 = 0 → w.toNat / 2 ^ 21 % 128 ∉ 0 :: (List.range' 0x08 11 ++ List.range' 0x20 19 ++ List.range' 0x40 14 ++ List.range' 0x60 5) →
    decodeWords (w :: ws) = .error (.opc7 (w.toNat / 2 ^ 21 % 128))) ∧
  (∀ (w : W32) ws i, w.toNat / 2 ^ 30 = 1 ∨ w.toNat / 2 ^ 30 = 2 →
    [0x14, 0x19, 0x19, 0x13, 0x11, 0x13, 0x08, 0x12, 0x0D, 0x08, 0x06].getD (w.toNat / 2 ^ 25 % 16) 0 ≤ w.toNat / 2 ^ 19 % 64 →
    decodeWords (w :: ws) ≠ .ok i)

/-! ### Stepping -/

/-- The bytes at the program counter of the agent chosen to issue decode to i: the step is exec of i, by that agent,
with the address after the instruction (R45) as its next one and the line kept for the agent's next instruction (R48), in a state in
which the accesses that the instruction comes after (R139, R151) have taken their places; and then what follows every step. Where its
issue unit has no room for a record of a lossless tenant that the instruction creates, the group is held instead (R393).
The premises on State.inputs, State.issuing and the cached line are the model's (log entries 4 and 14). -/
def Obligations.StepRunsDecodedInstruction : Prop :=
  ∀ (s s1 : State) (a : Agent) (r : List Agent) (g : Group) (ws : List W32) (i : Instr),
    s.inputs = [] → s.issuing = a :: r →
    let s0 := { s with issuing := r }
    let p := g.pc.toNat / 4 % 32
    s0.ag? a = some g → s0.canIssue a g = true → s0.entersFirst a = false →
    (isCol a = false → s0.breakAt g = none) →
    ({ s0 with cur := { agent := a, next := g.pc + 4 } } : State).fetchLine a g.pc.toNat = (.ok ws, s1) →
    lineOk ws = true → (g.entry = true → (lineWord ws 1).getLsbD p = true) → 2 ≤ p → (lineWord ws 0).getLsbD p = true →
    ((lineWord ws 1).getLsbD 0 = true → s1.priv a ≠ .user) →
    let s2 := { s1 with cur := { agent := a, next := BitVec.ofNat 57 (nextPc ws g.pc.toNat (walkLen (lineWord ws p))) } }
    let x := if (accessOf i).1 then s2.settleOwn a g else (g, s2)
    let h := { x.1 with noBreak := false, entry := false, age := 0, waited := 0, yielded := false
                        line := some (x.2.ctxOf a, g.pc.toNat / 128 * 128, ws) }
    decodeWords (ws.drop p) = .ok i →
    step s = finishStep s false (s0.orHold a g (exec i (((x.2.obey a (accessOf i).2).setAg a h).begins a i)))

/-- The bytes at the program counter decode to no instruction: the step raises the illegal-instruction fault (R82), unless its record
has no room (R393).
The premises on State.inputs, State.issuing and the cached line are the model's (log entries 4 and 14). -/
def Obligations.StepFaultsOnUndecodable : Prop :=
  ∀ (s s1 : State) (a : Agent) (r : List Agent) (g : Group) (ws : List W32) (e : DecodeError),
    s.inputs = [] → s.issuing = a :: r →
    let s0 := { s with issuing := r }
    let p := g.pc.toNat / 4 % 32
    s0.ag? a = some g → s0.canIssue a g = true → s0.entersFirst a = false → (isCol a = false → s0.breakAt g = none) →
    ({ s0 with cur := { agent := a, next := g.pc + 4 } } : State).fetchLine a g.pc.toNat = (.ok ws, s1) →
    lineOk ws = true → (g.entry = true → (lineWord ws 1).getLsbD p = true) → 2 ≤ p → (lineWord ws 0).getLsbD p = true →
    ((lineWord ws 1).getLsbD 0 = true → s1.priv a ≠ .user) →
    decodeWords (ws.drop p) = .error e →
    ∃ n : Pc, step s = finishStep s false (s0.orHold a g (.next (({ s1 with cur := { agent := a, next := n } } : State).illegal a g)))

/-- Module time never decreases in a step, but where a module reset or a loss of power makes it count from 0 again
(R381, R382).
That each step advances the counter tick by 1 is the model's choice (log entry 10). -/
def Obligations.ModuleTimeNeverDecreases : Prop :=
  ∀ s t : State, (∀ e ∈ s.inputs.head?, restarts e.step = false) → step s = .next t → s.time ≤ t.time ∧ t.tick = s.tick + 1

/-- Every step keeps memory in its canonical form: keys rise strictly and no cell holds what an unlisted byte reads as.
The list of cells and its canonical form are the model's (log entries 1 and 2). -/
def Obligations.StepKeepsMemoryCanonical : Prop :=
  ∀ s t : State, Sound s → step s = .next t → Sound t

/-- What reset leaves (R307, R308, R312, R314, R315, R350, R381, R396): time 0, no group, team or context; the
boot col at monitor privilege with interrupts off, the other cols in reset; the ridge timers at their reset values;
and memory in canonical form.
That memory lists nothing, that no group, team or context exists and that the mode words of a col are zero are the model's choices (log entries 2 and 3). -/
def Obligations.ResetState : Prop :=
  let s := State.reset
  Sound s ∧ s.mem = [] ∧ s.time = 0 ∧ s.groups = [] ∧ s.teams = [] ∧ s.contexts = [] ∧
  (s.col 0).run = .running ∧ (s.col 0).priv = .monitor ∧ (s.col 0).ie = false ∧
  (∀ n, 1 ≤ n → n < 48 → (s.col n).run = .inReset) ∧
  (∀ n, n < 48 → (s.col n).rsoft = 100000 ∧ (s.col n).rslice = 2000000 ∧ (s.col n).rsemto = 1000000000 ∧ (s.col n).rstall = 1000000 ∧
    (s.col n).g.fctl = 0x1000 ∧ (s.col n).g.gmode = 0 ∧ (s.col n).g.fstat = 0) ∧
  s.trc.trfull = 10000 ∧ s.mod.hevt = 0 ∧ s.mod.hstat = 0 ∧ s.mod.limiting = false

/-! ### Operands -/

/-- With no outstanding result, a uniform operand is what R55, R57 and R59 say: an s register; the width; the live
lanes; a small constant; or the literal, sign-extended.
With no outstanding result, a lane's operand of 32 bits or fewer is the lane's register or queue slot, and one of 64
bits is a pair: v registers low word first, queue slots high word last pushed (R58, R60). -/
def Obligations.OperandValues : Prop :=
  (∀ (s : State) (g : Group) (pos : Nat) (lit : Option W32), g.results = [] →
     let u := (s.rd g).uni pos lit
     (∀ n : Fin 32, u (.s n) = g.sregs[n.val]) ∧ (u .zero).toInt = 0 ∧ (u .one).toInt = 1 ∧ (u .two).toInt = 2 ∧
     (u .four).toInt = 4 ∧ (u .eight).toInt = 8 ∧ (u .neg1).toInt = -1 ∧ (∀ l, lit = some l → (u .lit).toInt = l.toInt) ∧
     (g.width ≤ 64 → (u .width).toNat = g.width ∧ ∀ k, (u .live).getLsbD k = decide (k < g.width))) ∧
  (∀ (s : State) (g : Group) (pos : Nat) (lit : Option W32) (t : Ty) (l : Nat), g.results = [] →
     let r := s.rd g
     let x := g.laneAt l
     (∀ n : Fin 64, t.wide = false → r.src pos lit t (.v n) l = (x.v[n.val]).toNat) ∧
     (∀ k : Fin 16, t.wide = false → r.src pos lit t (.q k) l = (x.q[k.val]).toNat) ∧
     (∀ n : Fin 64, t.wide = true → n.val % 2 = 0 → r.src pos lit t (.v n) l = (x.v[n.val]).toNat + (x.getV (n.val + 1)).toNat * 2 ^ 32) ∧
     (∀ k : Fin 16, t.wide = true → k.val < 15 →
       r.src pos lit t (.q k) l = (x.q.getD (k.val + 1) 0).toNat + (x.q[k.val]).toNat * 2 ^ 32))

/-- An outstanding result arrives (R67, R95): the flags of all its lanes are ORed into FSTAT; with it gone, every v register of a lane,
every s register and every queue slot that none of its writes names is as it was, and one that its last write names holds the value; the slot that a
push reserved has moved with the pushes since (R60), and is lost beyond q15. -/
def Obligations.ResultArrivalWritesRegisters : Prop :=
  ∀ (g : Group) (r : Res), g.results = [r] →
    let h := g.arrive 0
    h.results = [] ∧ (∀ k, h.fstat.getLsbD k = (g.fstat.getLsbD k || decide (k < 32 ∧ ∃ p ∈ r.flags, p.2.testBit k = true))) ∧ h.pc = g.pc ∧ h.gmode = g.gmode ∧
    (∀ n x (ws : List Write), r.writes = ws ++ [.s n x] → n < 32 → h.getS n = x) ∧
    (∀ l n x (ws : List Write), r.writes = ws ++ [.v l n x] → l < g.lanes.length → n < 64 → (h.laneAt l).getV n = x) ∧
    (∀ n, (∀ x, .s n x ∉ r.writes) → h.getS n = g.getS n) ∧
    (∀ l n, (∀ x, .v l n x ∉ r.writes) → (h.laneAt l).getV n = (g.laneAt l).getV n) ∧
    h.pushes = g.pushes ∧
    (∀ l n x (ws : List Write), r.writes = ws ++ [.q l n x] → l < g.lanes.length → n < g.pushes → g.pushes - 1 - n < 16 →
      (h.laneAt l).q.getD (g.pushes - 1 - n) 0 = x) ∧
    (∀ l k, k < 16 → (∀ n x, .q l n x ∈ r.writes → n < g.pushes → g.pushes - 1 - n ≠ k) → (h.laneAt l).q.getD k 0 = (g.laneAt l).q.getD k 0)

/-! ### The scalar unit -/

/-- The number of 1 bits of a word. -/
def onesOf (x : W64) : Nat := (List.range 64).countP fun k => x.getLsbD k

/-- R172: the conditions of SCMP. -/
def scmpHolds (cc : Nat) (u : Bool) (a b : W64) : Prop :=
  match cc with
  | 0 => a = b
  | 1 => a ≠ b
  | 2 => if u then a.toNat < b.toNat else a.toInt < b.toInt
  | 3 => if u then a.toNat ≤ b.toNat else a.toInt ≤ b.toInt
  | 4 => if u then b.toNat < a.toNat else b.toInt < a.toInt
  | _ => if u then b.toNat ≤ a.toNat else b.toInt ≤ a.toInt

/-- R169 and R170: what a scalar instruction makes of a, b, c and the old d, in exact arithmetic. -/
def scalarRel (i : Instr) (a b c d x : W64) : Prop :=
  match i with
  | .sadd _ => x.toNat = (a.toNat + b.toNat) % 2 ^ 64
  | .ssub _ => (x.toNat + b.toNat) % 2 ^ 64 = a.toNat
  | .smul _ => x.toNat = a.toNat * b.toNat % 2 ^ 64
  | .smulh f => if f.mod = 1 then x.toNat = a.toNat * b.toNat / 2 ^ 64 else x.toInt = a.toInt * b.toInt / 2 ^ 64
  | .sdiv f => if b = 0 then x = BitVec.allOnes 64 else if f.mod = 1 then x.toNat = a.toNat / b.toNat
      else if b.toInt = -1 ∧ a.toInt = -2 ^ 63 then x = a else x.toInt = a.toInt.tdiv b.toInt
  | .srem f => if b = 0 then x = a else if f.mod = 1 then x.toNat = a.toNat % b.toNat else x.toInt = a.toInt.tmod b.toInt
  | .smin f => if f.mod = 1 then x.toNat = min a.toNat b.toNat else x.toInt = min a.toInt b.toInt
  | .smax f => if f.mod = 1 then x.toNat = max a.toNat b.toNat else x.toInt = max a.toInt b.toInt
  | .sand _ => ∀ k, x.getLsbD k = (a.getLsbD k && b.getLsbD k)
  | .sor _ => ∀ k, x.getLsbD k = (a.getLsbD k || b.getLsbD k)
  | .sxor _ => ∀ k, x.getLsbD k = (a.getLsbD k ^^ b.getLsbD k)
  | .sandn _ => ∀ k, x.getLsbD k = (a.getLsbD k && !b.getLsbD k)
  | .sshl _ => x.toNat = a.toNat * 2 ^ (b.toNat % 64) % 2 ^ 64
  | .sshr _ => x.toNat = a.toNat / 2 ^ (b.toNat % 64)
  | .ssar _ => x.toInt = a.toInt / 2 ^ (b.toNat % 64)
  | .smov _ => x = a
  | .sli f => if f.ext = 1 then x.toNat = d.toNat % 2 ^ 32 + (f.lit.getD 0).toNat * 2 ^ 32 else x = a
  | .scmp f => (scmpHolds f.ext.toNat (f.mod = 1) a b → x = 1) ∧ (¬ scmpHolds f.ext.toNat (f.mod = 1) a b → x = 0)
  | .ssel _ => if c = 0 then x = b else x = a
  | .spopc _ => x.toNat = onesOf a
  | .sclz _ => if a = 0 then x.toNat = 64 else x.toNat < 64 ∧ a.toNat / 2 ^ (63 - x.toNat) = 1
  | .sctz _ => if a = 0 then x.toNat = 64 else x.toNat < 64 ∧ a.getLsbD x.toNat = true ∧ a.toNat % 2 ^ x.toNat = 0
  | .sffs _ => if b.toNat < onesOf a then x.toNat < 64 ∧ a.getLsbD x.toNat = true ∧ onesOf (a % (1 <<< x.toNat : W64)) = b.toNat
      else x.toNat = 64
  | .sbfx f =>
    let pos := b.toNat % 64
    let len := min c.toNat (64 - pos)
    let y := a.toNat / 2 ^ pos % 2 ^ len
    if f.mod = 1 ∨ y < 2 ^ (len - 1) ∨ len = 0 then x.toNat = y else x.toInt = (y : Int) - 2 ^ len
  | .sbfi _ =>
    let pos := b.toNat % 64
    let len := min c.toNat (64 - pos)
    ∀ k, x.getLsbD k = if pos ≤ k ∧ k < pos + len then a.getLsbD (k - pos) else d.getLsbD k
  | _ => False

/-- The old value of DST is an operand (R169). -/
def readsOld : Instr → Bool
  | .sli f => f.ext == 1
  | .sbfi _ => true
  | _ => false

/-- Every scalar instruction, short or long, by a group or a col: the result of R169 and R170 stands in DST when the next
instruction issues; no other register, no flag and no byte of memory changes, and the agent goes on at the next
instruction.
COMPLETION: it concludes that exec answers a next state (exec i s = .next t), from premises on the state and the operands
alone, for the constructors saddShort, ssubShort, sandShort, sorShort, sxorShort, sandnShort, sshlShort, sshrShort, ssarShort,
smovShort, spopcShort, sadd, ssub, smul, smulh, sdiv, srem, smin, smax, sand, sor, sxor, sandn, sshl, sshr, ssar, smov, sli,
scmp, ssel, spopc, sclz, sctz, sffs, sbfx, sbfi. -/
def Obligations.ScalarInstructionResults : Prop :=
  ∀ (s : State) (a : Agent) (g : Group) (i j : Instr) (fn : Nat) (f : LF),
    Issues s a g → i.wf = true → i.asLong g = j → j.wf = true → j.long? = some (1, fn, f) →
    Readable f g g.allLanes (scalarSrcs f (readsOld j)) →
    ∃ x t, exec i s = .next t ∧
      scalarRel j ((s.rd g).uni 0 f.lit f.sa) ((s.rd g).uni 1 f.lit f.sb) ((s.rd g).uni 2 f.lit f.sc) ((s.rd g).uni 3 f.lit f.dst) x ∧
      PutEffect s a g f.dst x f.sw s.cur.next t

/-! ### Integer vector instructions -/

/-- A slot that holds v, wrapped to the type (R83, R84). -/
def wraps (t : Ty) (v : Int) (y : Nat) : Prop := (intOf t y - v) % (2 ^ t.bits : Nat) = 0 ∧ y = slotOf t (intOf t y)

/-- The exact result v as the instruction gives it: wrapped, or with saturation clamped to the type and flagged when
clamping changed it (R83). -/
def givesInt (t : Ty) (sat : Bool) (v : Int) (y fl : Nat) : Prop :=
  if sat then intOf t y = max (intMin t) (min (intMax t) v) ∧ y = slotOf t (intOf t y) ∧ (fl = 0 ∨ fl = flSATF) ∧ (fl = 0 ↔ intOf t y = v)
  else wraps t v y ∧ fl = 0

/-- A slot that holds the low bits of n (R84), without a flag. -/
def givesBits (t : Ty) (p : Nat → Bool) (y fl : Nat) : Prop :=
  (∀ k, k < t.bits → y.testBit k = p k) ∧ y = slotOf t (intOf t y) ∧ fl = 0

/-- R226, R227 and R229: what an elementwise integer instruction makes of its operands. -/
def vecIntRel (i : Instr) (t : Ty) (sat : Bool) (xs : List Nat) (y fl : Nat) : Prop :=
  let x := fun k => intOf t (xs.getD k 0)
  let u := fun k => xs.getD k 0 % 2 ^ t.bits
  let b := fun k (j : Nat) => (xs.getD k 0).testBit j
  let c := xs.getD 1 0 % 2 ^ 32 % t.bits
  match i with
  | .vadd _ => givesInt t sat (x 0 + x 1) y fl
  | .vsub _ => givesInt t sat (x 0 - x 1) y fl
  | .vmul _ => givesInt t sat (x 0 * x 1) y fl
  | .vmad _ => givesInt t sat (x 0 * x 1 + x 2) y fl
  | .vmulh _ => givesInt t false (x 0 * x 1 / (2 ^ t.bits : Nat)) y fl
  | .vmin _ => givesInt t false (if x 0 ≤ x 1 then x 0 else x 1) y fl
  | .vmax _ => givesInt t false (if x 0 ≤ x 1 then x 1 else x 0) y fl
  | .vabs _ => givesInt t sat (if x 0 < 0 then - x 0 else x 0) y fl
  | .vand _ => givesBits t (fun k => b 0 k && b 1 k) y fl
  | .vor _ => givesBits t (fun k => b 0 k || b 1 k) y fl
  | .vxor _ => givesBits t (fun k => b 0 k ^^ b 1 k) y fl
  | .vandn _ => givesBits t (fun k => b 0 k && !b 1 k) y fl
  | .vshl _ => givesBits t (fun k => decide (c ≤ k) && b 0 (k - c)) y fl
  | .vshr _ => givesBits t (fun k => decide (k + c < t.bits) && b 0 (k + c)) y fl
  | .vsar _ => givesBits t (fun k => b 0 (min (k + c) (t.bits - 1))) y fl
  | .vrol _ => givesBits t (fun k => b 0 ((k + t.bits - c) % t.bits)) y fl
  | .vpopc _ => wraps t ((List.range t.bits).countP (b 0) : Nat) y ∧ fl = 0
  | .vclz _ => fl = 0 ∧ if u 0 = 0 then wraps t t.bits y else y < t.bits ∧ u 0 / 2 ^ (t.bits - 1 - y) = 1
  | .vbrev _ => givesBits t (fun k => b 0 (t.bits - 1 - k)) y fl
  | .vmov _ => y = xs.getD 0 0 ∧ fl = 0
  | _ => False

/-- The sources of an elementwise instruction. -/
def vecArity : Instr → Nat
  | .vmad _ | .fma _ => 3
  | .vabs _ | .vpopc _ | .vclz _ | .vbrev _ | .vmov _ | .frcp _ | .frsq _ | .fsqrt _ | .fexp2 _ | .flog2 _ | .fsin _ | .fcos _
  | .ftanh _ | .frint _ => 1
  | _ => 2

/-- The instructions that read a count from the low register of b alone (R227, R58: countSlot). -/
def isShift : Instr → Bool
  | .vshl _ | .vshr _ | .vsar _ | .vrol _ => true
  | _ => false

/-- Every elementwise integer instruction, short or long, packed or not: each element of each active lane gets the result
of R226, R227 or R229 with its flags, as one outstanding result; nothing else changes.
COMPLETION: it concludes that exec answers a next state (exec i s = .next t), from premises on the state and the operands
alone, for the constructors vaddShort, vsubShort, vmulShort, vmulhShort, vminShort, vmaxShort, vabsShort, vandShort, vorShort,
vxorShort, vandnShort, vshlShort, vshrShort, vsarShort, vrolShort, vpopcShort, vclzShort, vbrevShort, vmovShort, vadd, vsub,
vmul, vmulh, vmad, vmin, vmax, vabs, vand, vor, vxor, vandn, vshl, vshr, vsar, vrol, vpopc, vclz, vbrev, vmov. -/
def Obligations.IntegerVectorResults : Prop :=
  ∀ (s : State) (a : Agent) (g : Group) (i j : Instr) (fn : Nat) (f : LF),
    Issues s a g → i.wf = true → i.asLong g = j → j.wf = true → j.long? = some (2, fn, f) →
    fn ∉ [0x10, 0x11, 0x15, 0x17, 0x18] →
    Readable f g (activeOf f (s.rd g)) (if isShift j then srcSlots f.ty [f.sa] ++ [countSlot f.ty f.sb] else srcSlots f.ty (srcsOf f (vecArity j))) →
    ∃ (y fl : Nat → Nat → Nat) (t : State), exec i s = .next t ∧
      (∀ l ∈ activeLanes f s g, ∀ e, e < packOf f.mod.toNat →
        vecIntRel j f.ty (f.mod.getLsbD 0 || gmSat g.gmode) (elemArgs f s g (vecArity j) l e) (y l e) (fl l e)) ∧
      VecEffect s a g f (if f.ty.wide then 2 else 1) (activeLanes f s g)
        (fun l => packWords f.ty (packOf f.mod.toNat) ((List.range (packOf f.mod.toNat)).map (y l)))
        (fun l => orAll ((List.range (packOf f.mod.toNat)).map (fl l))) false t

/-- Bit fields and moves of the vector engine (R227, R229): VBFX, VBFI, VSEL and VLI. That VBFX and VBFI read b and c as one n32, and the
slots that VLI.hi pushes to a queue, are the model's readings (assumption 28). -/
def vecMoveRel (i : Instr) (s : State) (g : Group) (f : LF) (l : Nat) (y : Nat) : Prop :=
  let w := f.ty.bits
  let r := s.rd g
  let a := r.src 0 f.lit f.ty f.sa l
  let pos := r.src 1 f.lit .n32 f.sb l % w
  let len := min (r.src 2 f.lit .n32 f.sc l) (w - pos)
  match i with
  | .vbfx _ => (∀ k, k < len → y.testBit k = a.testBit (pos + k)) ∧
      ∀ k, len ≤ k → k < w → y.testBit k = (f.ty.signed && decide (0 < len) && a.testBit (pos + len - 1))
  | .vbfi _ => ∀ k, k < w → y.testBit k = if pos ≤ k ∧ k < pos + len then a.testBit (k - pos) else (r.src 3 f.lit f.ty f.dst l).testBit k
  | .vsel _ => y = if (r.uni 2 f.lit f.sc).getLsbD l then a else r.src 1 f.lit f.ty f.sb l
  | _ => False

/-- VBFX, VBFI, VSEL and VLI.
What VLI.hi pushes to a queue, and that VBFX and VBFI read b and c as one n32 each, are readings (log entry 28).
COMPLETION: it concludes that exec answers a next state (exec i s = .next t), from premises on the state and the operands
alone, for the constructors vbfx, vbfi, vsel, vli. -/
def Obligations.VectorFieldAndMoveResults : Prop :=
  (∀ (s : State) (a : Agent) (g : Group) (i : Instr) (fn : Nat) (f : LF),
    Issues s a g → i.wf = true → i.long? = some (2, fn, f) → fn ∈ [0x10, 0x11, 0x15] →
    Readable f g (activeOf f (s.rd g)) (match i with
      | .vbfx _ => srcSlots f.ty [f.sa] ++ srcSlots .n32 [f.sb, f.sc]
      | .vbfi _ => srcSlots f.ty [f.sa, f.dst] ++ srcSlots .n32 [f.sb, f.sc]
      | _ => srcSlots f.ty [f.sa, f.sb] ++ [(f.sc, 1)]) →
    ∃ (y : Nat → Nat) (t : State), exec i s = .next t ∧
      (∀ l ∈ activeLanes f s g, vecMoveRel i s g f l (y l)) ∧
      VecEffect s a g f (if f.ty.wide then 2 else 1) (activeLanes f s g) (fun l => slotWords f.ty (y l)) (fun _ => 0) false t) ∧
  (∀ (s : State) (a : Agent) (g : Group) (f : LF), Issues s a g → (Instr.vli f).wf = true →
    Readable f g (activeOf f (s.rd g)) [] →
    ∃ t, exec (.vli f) s = .next t ∧
      match f.dst with
      | .v n => if f.ext = 1
          then VecEffect s a g { f with dst := .v (n + 1) } 1 (activeLanes f s g) (fun _ => [f.lit.getD 0]) (fun _ => 0) false t
          else VecEffect s a g f (if f.ty.wide then 2 else 1) (activeLanes f s g)
            (fun _ => if f.ty.wide then [f.lit.getD 0, 0] else [f.lit.getD 0]) (fun _ => 0) false t
      | _ => VecEffect s a g f (if f.ty.wide then 2 else 1) (activeLanes f s g)
          (fun _ => if f.ty.wide then (if f.ext = 1 then [0, f.lit.getD 0] else [f.lit.getD 0, 0]) else [f.lit.getD 0]) (fun _ => 0) false t)

/-! ### Masks and votes -/

/-- A mask of the active lanes for which p holds; 0 elsewhere (R228, R232, R244). -/
def isMask (lanes : List Nat) (p : Nat → Bool) (m : W64) : Prop := ∀ l, m.getLsbD l = (decide (l ∈ lanes) && decide (l < 64) && p l)

/-- VCMP and the votes, short or long: the compare mask of R228, or BALLOT, VANY and VALL of R244 over the non-zero
elements of the active lanes, in the s register DST.
COMPLETION: it concludes that exec answers a next state (exec i s = .next t), from premises on the state and the operands
alone, for the constructors ballotShort, vanyShort, vallShort, vcmp, vany, vall, ballot. -/
def Obligations.CompareAndVoteResults : Prop :=
  (∀ (s : State) (a : Agent) (g : Group) (f : LF), Issues s a g → (Instr.vcmp f).wf = true →
    Readable f g (activeOf f (s.rd g)) (srcSlots f.ty [f.sa, f.sb]) →
    ∃ m t, exec (.vcmp f) s = .next t ∧ SEffect s a g f m [] false t ∧
      isMask (activeLanes f s g) (fun l =>
        let x := intOf f.ty ((s.rd g).src 0 f.lit f.ty f.sa l)
        let y := intOf f.ty ((s.rd g).src 1 f.lit f.ty f.sb l)
        match f.ext.toNat with
        | 0 => x == y | 1 => x != y | 2 => decide (x < y) | 3 => decide (x ≤ y) | 4 => decide (x > y) | _ => decide (x ≥ y)) m) ∧
  (∀ (s : State) (a : Agent) (g : Group) (i j : Instr) (f : LF), Issues s a g → i.wf = true → i.asLong g = j → j.wf = true →
    j = .ballot f ∨ j = .vany f ∨ j = .vall f →
    Readable f g (activeOf f (s.rd g)) (srcSlots f.ty [f.sa]) →
    let p := fun l => (s.rd g).src 0 f.lit f.ty f.sa l % 2 ^ f.ty.bits != 0
    ∃ m t, exec i s = .next t ∧ SEffect s a g f m [] false t ∧
      (j = .ballot f → isMask (activeLanes f s g) p m) ∧
      (j = .vany f → m = if ∃ l ∈ activeLanes f s g, p l = true then 1 else 0) ∧
      (j = .vall f → m = if ∀ l ∈ activeLanes f s g, p l = true then 1 else 0))

/-! ### Float instructions -/

/-- The environment of an element of a lane. -/
def elemEnv (f : LF) (g : Group) (rounds : Bool) (l e : Nat) : Env := envOf f g f.ty rounds l e

/-- The instructions of R230 and R231 that round. -/
def floatRounds : Instr → Bool
  | .fadd _ | .fsub _ | .fmul _ | .fma _ | .fdiv _ | .fsqrt _ | .frint _ => true
  | _ => false

/-- What an elementwise float instruction makes of its operands, after flush and negation (R87, R223): the exact result
of R230, rounded once; R231's choice of a bit pattern; the function of R110. -/
def vecFloatRel (i : Instr) (e : Env) (xs : List Nat) (y fl : Nat) : Prop :=
  let na := match i.long? with
    | some (_, _, f) => f.mod.getLsbD 1
    | none => false
  let nc := match i.long? with
    | some (_, _, f) => f.mod.getLsbD 2
    | none => false
  let x := fun k n => fval e n (xs.getD k 0)
  match i with
  | .fadd _ => (y, fl) = fround e [x 0 na, x 1 nc] (FV.add e.down (x 0 na) (x 1 nc))
  | .fsub _ => (y, fl) = fround e [x 0 na, x 1 nc] (FV.add e.down (x 0 na) (x 1 nc).negate)
  | .fmul _ => (y, fl) = fround e [x 0 na, x 1 nc] (FV.mul (x 0 na) (x 1 nc))
  | .fdiv _ => (y, fl) = fround e [x 0 na, x 1 nc] (FV.div (x 0 na) (x 1 nc))
  | .fsqrt _ => (y, fl) = fround e [x 0 false] (FV.sqrt (x 0 false))
  | .fma _ => ∃ p q, FV.mul (x 0 na) (x 1 false) = p ∧ FV.add e.down p.1 (x 2 nc) = q ∧
      (y, fl) = fround e [x 0 na, x 1 false, x 2 nc] (q.1, p.2 ||| q.2)
  | .fmin _ => y = fPick e.ty false (fbits e na (xs.getD 0 0)) (fbits e nc (xs.getD 1 0)) ∧ fl = snan (x 0 na) ||| snan (x 1 nc)
  | .fmax _ => y = fPick e.ty true (fbits e na (xs.getD 0 0)) (fbits e nc (xs.getD 1 0)) ∧ fl = snan (x 0 na) ||| snan (x 1 nc)
  | .frint _ => (y, fl) = fRint e xs
  | .frcp _ => (y, fl) = fSpecial 0 e xs
  | .frsq _ => (y, fl) = fSpecial 1 e xs
  | .fexp2 _ => (y, fl) = fSpecial 2 e xs
  | .flog2 _ => (y, fl) = fSpecial 3 e xs
  | .fsin _ => (y, fl) = fSpecial 4 e xs
  | .fcos _ => (y, fl) = fSpecial 5 e xs
  | .ftanh _ => (y, fl) = fSpecial 6 e xs
  | _ => False

/-- Every elementwise float instruction, short or long, packed or not, of which no active lane raises an enabled exception
(R96): each element of each active lane gets its result and raises its flags, as one outstanding result, and the SR
counter counts an instruction that rounds stochastically (R100).
The values of FRCP, FRSQ, FEXP2, FLOG2, FSIN, FCOS and FTANH are those of an implementation (log entry 9).
COMPLETION: it concludes that exec answers a next state (exec i s = .next t), from premises on the state and the operands
alone, for the constructors faddShort, fsubShort, fmulShort, fminShort, fmaxShort, frcpShort, frsqShort, fsqrtShort, fexp2Short,
flog2Short, fsinShort, fcosShort, ftanhShort, frintShort, fadd, fsub, fmul, fma, fmin, fmax, frcp, frsq, fsqrt, fdiv, fexp2,
flog2, fsin, fcos, ftanh, frint. -/
def Obligations.FloatVectorResults : Prop :=
  ∀ (s : State) (a : Agent) (g : Group) (i j : Instr) (fn : Nat) (f : LF),
    Issues s a g → i.wf = true → i.asLong g = j → j.wf = true → j.long? = some (3, fn, f) → fn ∉ [0x06, 0x10, 0x11] →
    Readable f g (activeOf f (s.rd g)) (srcSlots f.ty (srcsOf f (vecArity j))) →
    let args := elemArgs f s g (vecArity j)
    let env := elemEnv f g (floatRounds j)
    (gmFexc g.gmode = true → ∀ l ∈ activeLanes f s g, ∀ e, e < packOf f.mod.toNat → ∀ y fl, vecFloatRel j (env l e) (args l e) y fl → fl % 8 = 0) →
    ∃ (y fl : Nat → Nat → Nat) (t : State), exec i s = .next t ∧
      (∀ l ∈ activeLanes f s g, ∀ e, e < packOf f.mod.toNat → vecFloatRel j (env l e) (args l e) (y l e) (fl l e)) ∧
      VecEffect s a g f (if f.ty.wide then 2 else 1) (activeLanes f s g)
        (fun l => packWords f.ty (packOf f.mod.toNat) ((List.range (packOf f.mod.toNat)).map (y l)))
        (fun l => orAll ((List.range (packOf f.mod.toNat)).map (fl l))) (floatRounds j && modeOf f g == .sr) t

/-- R96: under GMODE.FEXC a FADD of which an active lane raises NV, DZ or OF takes the float-exception fault with those
lanes, and no register, flag or counter of its own changes: the group is parked at the instruction, of which every
active lane is unfinished. The event ring of the group's ridge has a slot (R329).
R219 and R424: an instruction that reads a register with an uncorrectable error takes the machine check with structure code 1: SADD of an
s register, VADD of a v register in an active lane. The group is parked at the instruction, which has had no effect. -/
def Obligations.FloatExceptionFault : Prop :=
  (∀ (s : State) (id : Nat) (g : Group) (f : LF), Issues s (.group id) g → (Instr.fadd f).wf = true → packOf f.mod.toNat = 1 →
     Readable f g (activeOf f (s.rd g)) (srcSlots f.ty [f.sa, f.sb]) → gmFexc g.gmode = true → g.results = [] → RecRoom s g.ridge →
     let fl := fun l => (fAdd (f.mod.getLsbD 1) (f.mod.getLsbD 2) (envOf f g f.ty true l 0) (elemArgs f s g 2 l 0)).2
     (∃ l ∈ activeLanes f s g, fl l % 8 ≠ 0) →
     ∃ t h r, exec (.fadd f) s = .next t ∧ t.group? id = some h ∧ h.park = .held r ∧ r.code = 0x06 ∧ r.pc = g.pc.setWidth 64 ∧
       r.lanes = maskOf ((activeLanes f s g).filter fun l => fl l % 8 != 0) ∧ h.pc = g.pc ∧ h.sregs = g.sregs ∧ h.lanes = g.lanes ∧
       h.results = [] ∧ h.fstat = g.fstat ∧ h.srCtr = g.srCtr ∧ h.mask = maskOf (activeLanes f s g)) ∧
  (∀ (s : State) (id : Nat) (g : Group) (f : LF), s.cur.agent = .group id → s.group? id = some g → g.results = [] → RecRoom s g.ridge →
     let checks := fun (i : Instr) => ∃ t h r, exec i s = .next t ∧ Faults s id g 0x0C g.allLanes t ∧ t.group? id = some h ∧ h.park = .held r ∧ r.d40 = 1
     (∀ n x, (Instr.sadd f).wf = true → f.sa = .s n ∨ f.sb = .s n → Write.s n.val x ∈ g.bad → checks (.sadd f)) ∧
     (∀ n l x, (Instr.vadd f).wf = true → f.sa = .v n → l ∈ activeLanes f s g → Write.v l n.val x ∈ g.bad → checks (.vadd f)))

/-- R91: a rounding of m units to units 2^k times as large, k at least 1, gives a neighbour: at most half a unit away when
rounding to nearest, ties to the even one (rne) or away from zero (rna); toward zero, down or up otherwise. -/
def Obligations.RoundingIsToANeighbour : Prop :=
  ∀ (neg : Bool) (m k : Nat), 1 ≤ k →
    let n := fun mode => (roundShift mode 0 neg m false k).1
    (∀ mode, (n mode = m / 2 ^ k ∨ n mode = m / 2 ^ k + 1) ∧
      ((roundShift mode 0 neg m false k).2 = false ↔ m % 2 ^ k = 0) ∧ (m % 2 ^ k = 0 → mode ≠ .sr → n mode = m / 2 ^ k)) ∧
    (2 * m ≤ (2 * n .rne + 1) * 2 ^ k ∧ (2 * n .rne - 1) * 2 ^ k ≤ 2 * m) ∧
    (2 * m ≤ (2 * n .rna + 1) * 2 ^ k ∧ (2 * n .rna - 1) * 2 ^ k ≤ 2 * m) ∧
    (2 * (m % 2 ^ k) = 2 ^ k → n .rne % 2 = 0 ∧ n .rna = m / 2 ^ k + 1) ∧
    n .rz = m / 2 ^ k ∧
    (m % 2 ^ k ≠ 0 → n .rup = (if neg then m / 2 ^ k else m / 2 ^ k + 1) ∧ n .rdn = (if neg then m / 2 ^ k + 1 else m / 2 ^ k))

/-- R93 and R105: sums and products of finite values are exact, and one of unlike infinities, or of zero by infinity, is
a NaN that raises NV.
R105, R106 and R246: a sum of finite terms is exact, so no order of the terms changes it. -/
def Obligations.FloatSumsAndProductsAreExact : Prop :=
  ((∀ (down n1 n2 : Bool) (m1 m2 : Nat) (e1 e2 : Int),
     let x := FV.fin n1 m1 e1 false
     let y := FV.fin n2 m2 e2 false
     (FV.add down x y).1.rat = x.rat + y.rat ∧ (FV.mul x y).1.rat = x.rat * y.rat ∧ (FV.add down x y).2 = 0 ∧ (FV.mul x y).2 = 0 ∧
     ((FV.add down x y).1.isZero = true → n1 ≠ n2 → (FV.add down x y).1.neg? = down)) ∧
   (∀ down n, FV.add down (.inf n) (.inf (!n)) = (.nan false, flNV)) ∧
   (∀ n1 n2 e, FV.mul (.inf n1) (.fin n2 0 e false) = (.nan false, flNV))) ∧
  (∀ (down : Bool) (xs : List FV), (∀ x ∈ xs, ∃ n m e, x = FV.fin n m e false) →
     (sumFV down xs).1.rat = (xs.map FV.rat).sum ∧ (sumFV down xs).2 = 0 ∧
     ∀ ys, xs.Perm ys → (sumFV down xs).1.rat = (sumFV down ys).1.rat ∧ ((sumFV down xs).1.isZero = true → (sumFV down ys).1.neg? = (sumFV down xs).1.neg?))

/-- Each active lane of FCLASS gets the class word of its element (R233); each active lane of FSCALE gets a times 2 to
the b, rounded once, with its flags (R234); FCMP writes the mask of the active lanes whose comparison holds, and raises
the flags of its comparisons (R232). Each completes with nothing else changed, where no active lane raises an exception
that GMODE.FEXC enables (R96). A comparison of finite numbers is that of their values, one with a NaN holds for .ne and
.un alone, and NV is raised for a NaN by .lt, .le, .gt and .ge. R233's three examples of class words hold.
COMPLETION: it concludes that exec answers a next state (exec i s = .next t), from premises on the state and the operands
alone, for the constructors fcmp, fclass, fscale. -/
def Obligations.FloatCompareClassScale : Prop :=
  (∀ (s : State) (a : Agent) (g : Group) (f : LF), Issues s a g → (Instr.fclass f).wf = true →
    Readable f g (activeOf f (s.rd g)) (srcSlots f.ty [f.sa]) →
    ∃ t, exec (.fclass f) s = .next t ∧
      VecEffect s a g f 1 (activeLanes f s g) (fun l => [BitVec.ofNat 32 (classWord f.ty ((s.rd g).src 0 f.lit f.ty f.sa l))]) (fun _ => 0) false t) ∧
  (∀ (s : State) (a : Agent) (g : Group) (f : LF), Issues s a g → (Instr.fscale f).wf = true →
    Readable f g (activeOf f (s.rd g)) (srcSlots f.ty [f.sa] ++ srcSlots .i32 [f.sb]) →
    let y := fun l =>
      let e := envOf f g f.ty true l 0
      let x := fval e false ((s.rd g).src 0 f.lit f.ty f.sa l)
      fround e [x] (x.scale (signed 32 ((s.rd g).src 1 f.lit .i32 f.sb l)), 0)
    (gmFexc g.gmode = true → ∀ l ∈ activeLanes f s g, (y l).2 % 8 = 0) →
    ∃ t, exec (.fscale f) s = .next t ∧
      VecEffect s a g f (if f.ty.wide then 2 else 1) (activeLanes f s g) (fun l => slotWords f.ty (y l).1) (fun l => (y l).2) (modeOf f g == .sr) t) ∧
  (∀ (s : State) (a : Agent) (g : Group) (f : LF), Issues s a g → (Instr.fcmp f).wf = true →
    Readable f g (activeOf f (s.rd g)) (srcSlots f.ty [f.sa, f.sb]) →
    let e := envOf f g f.ty false 0 0
    let c := fun l => cmpFloat f.ext.toNat (fval e (f.mod.getLsbD 1) ((s.rd g).src 0 f.lit f.ty f.sa l))
      (fval e (f.mod.getLsbD 2) ((s.rd g).src 1 f.lit f.ty f.sb l))
    (gmFexc g.gmode = true → ∀ l ∈ activeLanes f s g, (c l).2 % 8 = 0) →
    ∃ m t, exec (.fcmp f) s = .next t ∧ isMask (activeLanes f s g) (fun l => (c l).1) m ∧
      SEffect s a g f m (raisedBy (activeLanes f s g) fun l => (c l).2) false t) ∧
  (∀ (n1 n2 : Bool) (m1 m2 : Nat) (e1 e2 : Int) (st1 st2 : Bool),
    let x := FV.fin n1 m1 e1 st1
    let y := FV.fin n2 m2 e2 st2
    ((cmpFloat 0 x y).1 = true ↔ x.rat = y.rat) ∧ ((cmpFloat 1 x y).1 = true ↔ x.rat ≠ y.rat) ∧
    ((cmpFloat 2 x y).1 = true ↔ x.rat < y.rat) ∧ ((cmpFloat 3 x y).1 = true ↔ x.rat ≤ y.rat) ∧
    ((cmpFloat 4 x y).1 = true ↔ y.rat < x.rat) ∧ ((cmpFloat 5 x y).1 = true ↔ y.rat ≤ x.rat) ∧
    (cmpFloat 6 x y).1 = false ∧ (cmpFloat 7 x y).1 = true) ∧
  (∀ (x y : FV) (cc : Nat), cc < 8 → x.isNan = true ∨ y.isNan = true →
    ((cmpFloat cc x y).1 = true ↔ cc = 1 ∨ cc = 6) ∧ (2 ≤ cc → cc < 6 → (cmpFloat cc x y).2 = flNV)) ∧
  classWord .f32 0xBF400000 = 0x0FFF001A ∧ classWord .f32 0x41000000 = 0x00030072 ∧ classWord .f32 0x7F800001 = 0x00000005

/-! ### Conversions, the SR registers and the cross-lane instructions -/

/-- R94, R236 and R237: CVT converts one element of each active lane; PACK converts a run of registers into the elements
of one register; UNPK the elements of one register into a run. Each completes, with its flags, where no active lane
raises an exception that GMODE.FEXC enables (R96).
COMPLETION: it concludes that exec answers a next state (exec i s = .next t), from premises on the state and the operands
alone, for the constructors cvt, pack, unpk. -/
def Obligations.ConversionResults : Prop :=
  ∀ (s : State) (a : Agent) (g : Group) (f : LF), Issues s a g →
    let calm := fun (fl : Nat → Nat) => gmFexc g.gmode = true → ∀ l ∈ activeLanes f s g, fl l % 8 = 0
    ((Instr.cvt f).wf = true → Readable f g (activeOf f (s.rd g)) (srcSlots f.sty [f.sa]) →
      let y := fun l => convert (envOf f g f.ty true l 0) f.sty ((s.rd g).src 0 f.lit f.sty f.sa l)
      calm (fun l => (y l).2) →
      ∃ t, exec (.cvt f) s = .next t ∧
        VecEffect s a g f (if f.ty.wide then 2 else 1) (activeLanes f s g) (fun l => slotWords f.ty (y l).1) (fun l => (y l).2) (modeOf f g == .sr) t) ∧
    ((Instr.pack f).wf = true → Readable f g (activeOf f (s.rd g)) [(f.sa, runLen (packCount f.ty) f.sty)] →
      let k := packCount f.ty
      let y := fun l e => convert (envOf f g f.ty true l e) f.sty (runSlot ((s.rd g).run 0 l (vnum f.sa) (runLen k f.sty)) f.sty.wide e)
      calm (fun l => orAll ((List.range k).map fun e => (y l e).2)) →
      ∃ t, exec (.pack f) s = .next t ∧
        VecEffect s a g f 1 (activeLanes f s g) (fun l => packWords f.ty k ((List.range k).map fun e => (y l e).1))
          (fun l => orAll ((List.range k).map fun e => (y l e).2)) (modeOf f g == .sr) t) ∧
    ((Instr.unpk f).wf = true → Readable f g (activeOf f (s.rd g)) [(f.sa, 1)] →
      let k := packCount f.sty
      let y := fun l e => convert (envOf f g f.ty true l e) f.sty (elemOf k e f.sa ((s.rd g).src 0 f.lit .x32 f.sa l))
      calm (fun l => orAll ((List.range k).map fun e => (y l e).2)) →
      ∃ t, exec (.unpk f) s = .next t ∧
        VecEffect s a g f (runLen k f.ty) (activeLanes f s g) (fun l => (List.range k).flatMap fun e => slotWords f.ty (y l e).1)
          (fun l => orAll ((List.range k).map fun e => (y l e).2)) (modeOf f g == .sr) t)

/-- R94: a number outside an integer type converts to the type's nearest bound and raises NV, a NaN converts to 0 and
raises NV; and an integer converts to a wider integer type unchanged. -/
def Obligations.ConversionBounds : Prop :=
  (∀ mode sr (t : Ty) x, x.isNan = true → floatToInt mode sr t x = (0, flNV)) ∧
  (∀ mode sr (t : Ty) n m (e : Int), t.isInt = true →
    let v := (roundInt mode sr n m e false).1
    let r := floatToInt mode sr t (.fin n m e false)
    intOf t r.1 = max (intMin t) (min (intMax t) v) ∧ (r.2 % 2 = 1 ↔ v < intMin t ∨ intMax t < v)) ∧
  (∀ (e : Env) (st : Ty) x, st.isInt = true → e.ty.isInt = true → intMin e.ty ≤ intOf st x → intOf st x ≤ intMax e.ty →
    intOf e.ty (convert e st x).1 = intOf st x ∧ (convert e st x).2 = 0)

/-- R240, R241 and R243: the lane that each lane of a shuffle or broadcast reads: within its segment, never outside the group. -/
def shuffleLane (i : Instr) (f : LF) (r : Rd) (l : Nat) : Nat :=
  let k := r.src 1 f.lit .n32 f.sb l
  let seg := if f.mod = 0 then r.g.width else min r.g.width (2 ^ (f.mod.toNat + 1))
  let base := l / seg * seg
  match i with
  | .shfl _ => base + k % seg
  | .shflx _ => base + (l % seg ^^^ k % seg)
  | .shflup _ => if k ≤ l % seg then l - k else l
  | .shfldn _ => if l % seg + k < seg then l + k else l
  | _ => r.src 1 f.lit .n32 f.sb 0 % r.g.width

/-- SHFL, SHFLX, SHFLUP, SHFLDN and BCAST, short or long: each active lane gets the element of the lane that R241 or, for BCAST,
R243 names, active or not. Under STRICT no index of an active lane and no element that is taken is outstanding (R239).
COMPLETION: it concludes that exec answers a next state (exec i s = .next t), from premises on the state and the operands
alone, for the constructors shflShort, bcastShort, shfl, shflx, shflup, shfldn, bcast. -/
def Obligations.ShuffleResults : Prop :=
  ∀ (s : State) (a : Agent) (g : Group) (i j : Instr) (f : LF), Issues s a g → i.wf = true → i.asLong g = j → j.wf = true →
    j = .shfl f ∨ j = .shflx f ∨ j = .shflup f ∨ j = .shfldn f ∨ j = .bcast f →
    Readable f g (activeOf f (s.rd g)) (if j = .bcast f then [(f.sb, 1)] else srcSlots .n32 [f.sb]) →
    (gmStrict g.gmode = true → g.unchecked (maskOf ((activeLanes f s g).map (shuffleLane j f (s.rd g)))) (srcSlots f.ty [f.sa]) = false) →
    ∃ t, exec i s = .next t ∧
      VecEffect s a g f (if f.ty.wide then 2 else 1) (activeLanes f s g)
        (fun l => slotWords f.ty ((s.rd g).src 0 f.lit f.ty f.sa (shuffleLane j f (s.rd g) l))) (fun _ => 0) false t

/-- PUT: each active lane in ascending order sends its element to the lane that its index names, modulo the width, and no
other lane is written (R242). MATCH: each active lane gets the mask of the active lanes with its element, and each other
lane 0 (R245). REDUX: the reduction of the active lanes' elements in the s register DST; SCAN: in each active lane that of
the active lanes up to it, or below it with .ex (R246). Each completes, where no exception that GMODE.FEXC enables is
raised.
COMPLETION: it concludes that exec answers a next state (exec i s = .next t), from premises on the state and the operands
alone, for the constructors put, matchLanes, redux, scan. -/
def Obligations.CrossLaneResults : Prop :=
  ∀ (s : State) (a : Agent) (g : Group) (f : LF), Issues s a g →
    let r := s.rd g
    let lanes := activeLanes f s g
    let val := fun l => r.src 0 f.lit f.ty f.sa l
    ((Instr.put f).wf = true → Readable f g (activeOf f r) (srcSlots f.ty [f.sa] ++ srcSlots .n32 [f.sb]) →
      ∃ t h, exec (.put f) s = .next t ∧ Completes s a h f.sw s.cur.next t ∧ SameSpecial g h ∧ h.sregs = g.sregs ∧ h.lanes = g.lanes ∧
        h.results = g.results ++ [{ writes := vWrites f.dst g.pushes (lanes.map fun l => (r.src 1 f.lit .n32 f.sb l % g.width, slotWords f.ty (val l))) }]) ∧
    ((Instr.matchLanes f).wf = true → g.width ≤ 64 → Readable f g (activeOf f r) (srcSlots f.ty [f.sa]) →
      ∃ (m : Nat → W64) (t : State), exec (.matchLanes f) s = .next t ∧
        VecEffect s a g f 2 (List.range g.width) (fun l => [(m l).setWidth 32, (m l >>> 32).setWidth 32]) (fun _ => 0) false t ∧
        ∀ l, l < g.width → isMask lanes (fun k => decide (l ∈ lanes) && matches' (f.ext == 1) f.ty (val l % 2 ^ f.ty.bits) (val k % 2 ^ f.ty.bits)) (m l)) ∧
    ((Instr.redux f).wf = true → Readable f g (activeOf f r) (srcSlots f.ty [f.sa]) →
      let y := reduce f.mod.toNat (reduxEnv f g f.mod.toNat 0) (lanes.map val)
      (gmFexc g.gmode = true → lanes ≠ [] → y.2 % 8 = 0) →
      ∃ x t, exec (.redux f) s = .next t ∧ (x : W64) = (if f.ty.isInt then BitVec.ofInt 64 (intOf f.ty y.1) else BitVec.ofNat 64 y.1) ∧
        SEffect s a g f x (raisedBy lanes fun _ => y.2) (f.mod.toNat == 6 && modeOf f g == .sr) t) ∧
    ((Instr.scan f).wf = true → Readable f g (activeOf f r) (srcSlots f.ty [f.sa]) →
      let op := f.mod.toNat % 16
      let y := fun l => reduce op (reduxEnv f g op l) ((lanes.filter fun k => if f.mod.getLsbD 4 then decide (k < l) else decide (k ≤ l)).map val)
      (gmFexc g.gmode = true → ∀ l ∈ lanes, (y l).2 % 8 = 0) →
      ∃ t, exec (.scan f) s = .next t ∧
        VecEffect s a g f (if f.ty.wide then 2 else 1) lanes (fun l => slotWords f.ty (y l).1) (fun l => (y l).2) (op == 6 && modeOf f g == .sr) t)

/-- R246: integer reductions are wrapped exact sums, least and greatest values, and bitwise operations, whatever the order
of the lanes, and each gives R246's value over no lanes. -/
def Obligations.IntegerReductionValues : Prop :=
  ∀ (e : Env) (xs : List Nat), e.ty.isInt = true →
    let v := xs.map (intOf e.ty)
    (intOf e.ty (reduce 0 e xs).1 - v.sum) % (2 ^ e.ty.bits : Nat) = 0 ∧
    (xs = [] → intOf e.ty (reduce 1 e xs).1 = intMax e.ty ∧ intOf e.ty (reduce 2 e xs).1 = intMin e.ty ∧ (reduce 4 e xs).1 = 0 ∧ (reduce 5 e xs).1 = 0) ∧
    (xs ≠ [] → intOf e.ty (reduce 1 e xs).1 ∈ v ∧ (∀ x ∈ v, intOf e.ty (reduce 1 e xs).1 ≤ x) ∧
      intOf e.ty (reduce 2 e xs).1 ∈ v ∧ ∀ x ∈ v, x ≤ intOf e.ty (reduce 2 e xs).1) ∧
    (∀ k, k < e.ty.bits → (reduce 3 e xs).1.testBit k = xs.all (·.testBit k) ∧ (reduce 4 e xs).1.testBit k = xs.any (·.testBit k) ∧
      (reduce 5 e xs).1.testBit k = decide (xs.countP (·.testBit k) % 2 = 1)) ∧
    ∀ ys, xs.Perm ys → ∀ op, op < 6 → reduce op e xs = reduce op e ys

/-! ### The sequencer -/

/-- R190: the identity values of GETID, for a group and for a col. -/
def idValue (s : State) (a : Agent) (g : Group) (sel : Nat) : Nat :=
  let tm := s.teamOf g
  let cx := s.ctx? (s.ctxOf a)
  let own := fun (x : Nat) => if isCol a then 0 else x
  match sel with
  | 0 => own (g.quad * 64 + g.slice0)
  | 1 => own g.root
  | 2 => own ((tm.map (·.idx)).getD 0)
  | 3 => match isCol a, tm with
    | false, some t => t.cx + 16 * t.cy + 256 * (t.idx % max 1 t.cx) + 4096 * (t.idx / max 1 t.cx)
    | _, _ => 0x0011
  | 4 => own ((tm.map (·.clu)).getD 0)
  | 5 => if isCol a then 12 else g.core % 12
  | 6 => match a with
    | .col n => n
    | .group _ => g.core / 12
  | 7 => own g.quad
  | 8 => (cx.map (·.rank)).getD 0
  | 9 => (cx.map fun c => max 1 c.members.length).getD 1
  | 10 => s.ctxOf a
  | 11 => own (g.pktIdx % 2 ^ 32 + 2 ^ 32 * (g.pktQueue % 2 ^ 16))
  | _ => s.time

/-- Each of these completes, with nothing but what is named changed. NOP, short or long, changes no register (R159). GETMODE writes
GMODE, FSTAT, MSTAT, FCTL, or the group priority and the context level, to DST (R158). SETMODE writes the bits of its mode
word that the mask names and that are not reserved, at once (R157 to R159), and is illegal where that would make a reserved
rounding mode. SETPRI sets the priority to the lesser of 7 and its operand, and YIELD gives key 0 until the next issue
(R187, R188); neither changes anything of a col. GETID writes the value of R190 to DST.
R101 and R102: SRSEED loads the seed and the counter at once; SRGET reads one of them as a register result.
COMPLETION: it concludes that exec answers a next state (exec i s = .next t), from premises on the state and the operands
alone, for the constructors nopShort, nop, setmode, getmode, setpri, yield, getid, srseed, srget. -/
def Obligations.SequencerRegisterResults : Prop :=
  (∀ (s : State) (a : Agent) (g : Group) (f : LF), Issues s a g →
     ((Instr.nop f).wf = true → Readable f g g.allLanes [] → ∃ t, exec (.nop f) s = .next t ∧ PutEffect s a g .zero 0 f.sw s.cur.next t) ∧
     (∀ k : SF, (Instr.nopShort k).wf = true → ∃ t, exec (.nopShort k) s = .next t ∧ PutEffect s a g .zero 0 k.sw s.cur.next t) ∧
     ((Instr.getmode f).wf = true → Readable f g g.allLanes [] →
       ∃ x t, exec (.getmode f) s = .next t ∧ PutEffect s a g f.dst x f.sw s.cur.next t ∧
         (f.ext = 0 → x = g.gmode.setWidth 64) ∧ (f.ext = 1 → x = g.fstat.setWidth 64) ∧ (f.ext = 2 → x = g.mstat.setWidth 64) ∧
         (f.ext = 3 → x = g.fctl.setWidth 64) ∧ (f.ext = 4 → x.toNat = g.pri.toNat + 256 * s.levelOf a)) ∧
     ((Instr.setmode f).wf = true → Readable f g g.allLanes [(f.sa, 1), (f.sb, 1)] →
       let v := (s.rd g).uni 0 f.lit f.sa
       let m := (s.rd g).uni 1 f.lit f.sb
       let n := f.ext.toNat
       let bits := [17, 6, 1, 20].getD n 0
       ∀ w : W32, (∀ k, k < 32 → w.getLsbD k = if decide (k < bits) && m.getLsbD k then v.getLsbD k else (g.modeWord n).getLsbD k) →
         ((n = 0 → w.toNat / 16 % 8 < 6) →
           ∃ t h, exec (.setmode f) s = .next t ∧ Completes s a h f.sw s.cur.next t ∧ h.modeWord n = w ∧
             (∀ k, k < 4 → k ≠ n → h.modeWord k = g.modeWord k) ∧ h.sregs = g.sregs ∧ h.lanes = g.lanes ∧ h.results = g.results ∧
             h.srSeed = g.srSeed ∧ h.srCtr = g.srCtr ∧ h.pri = g.pri) ∧
         (n = 0 → 6 ≤ w.toNat / 16 % 8 → ∀ id, a = .group id → g.results = [] → RecRoom s g.ridge →
           ∃ t, exec (.setmode f) s = .next t ∧ Faults s id g 0x01 g.allLanes t)) ∧
     ((Instr.setpri f).wf = true → Readable f g g.allLanes [(f.sa, 1)] →
       ∃ t h, exec (.setpri f) s = .next t ∧ Completes s a h f.sw s.cur.next t ∧
         h.pri.toNat = (if isCol a then g.pri.toNat else min 7 ((s.rd g).uni 0 f.lit f.sa).toNat) ∧
         h.gmode = g.gmode ∧ h.fstat = g.fstat ∧ h.mstat = g.mstat ∧ h.fctl = g.fctl ∧ h.sregs = g.sregs ∧ h.lanes = g.lanes ∧ h.results = g.results) ∧
     ((Instr.yield f).wf = true → Readable f g g.allLanes [] →
       ∃ t h, exec (.yield f) s = .next t ∧ Completes s a h f.sw s.cur.next t ∧ h.yielded = (if isCol a then g.yielded else true) ∧
         SameSpecial g h ∧ h.sregs = g.sregs ∧ h.lanes = g.lanes ∧ h.results = g.results) ∧
     ((Instr.getid f).wf = true → Readable f g g.allLanes [] →
       ∃ t, exec (.getid f) s = .next t ∧ PutEffect s a g f.dst (BitVec.ofNat 64 (idValue s a g f.ext.toNat)) f.sw s.cur.next t)) ∧
  ((∀ (s : State) (a : Agent) (g : Group) (f : LF), Issues s a g → (Instr.srseed f).wf = true → Readable f g g.allLanes [(f.sa, 1), (f.sb, 1)] →
     ∃ t h, exec (.srseed f) s = .next t ∧ Completes s a h f.sw s.cur.next t ∧ h.srSeed = (s.rd g).uni 0 f.lit f.sa ∧
       h.srCtr = (s.rd g).uni 1 f.lit f.sb ∧ h.sregs = g.sregs ∧ h.lanes = g.lanes ∧ h.results = g.results ∧ h.gmode = g.gmode ∧ h.fstat = g.fstat) ∧
   (∀ (s : State) (a : Agent) (g : Group) (f : LF), Issues s a g → (Instr.srget f).wf = true → Readable f g g.allLanes [] →
     ∃ t, exec (.srget f) s = .next t ∧ SEffect s a g f (if f.ext = 0 then g.srSeed else g.srCtr) [] false t))

/-- The branches that R162 to R166 describe, where the check of R163 accepts the target: the link is the address of the next
instruction, the counter counts down, and the program counter is the target; a branch that is not taken goes on.
R163: where the event ring has a slot, a jump whose target has bits 1:0 set, or is word 0 or 1 of its line, takes the branch-target fault at the jump,
which has no effect.
COMPLETION: it concludes that exec answers a next state (exec i s = .next t), from premises on the state and the operands
alone, for the constructors bra, bral, jmp, jmpl, ret, brzm, brnzm, brallm, loop. -/
def Obligations.BranchResults : Prop :=
  (∀ (s : State) (a : Agent) (g : Group) (f : LF), Issues s a g →
     let rel : W64 := g.pc.setWidth 64 + (f.lit.getD 0).signExtend 64
     let x := (s.rd g).uni 0 f.lit f.sa
     let m := x &&& g.live
     let c := (s.rd g).uni 0 f.lit f.dst
     (∀ s', TargetOk s a rel s' →
       ((Instr.bra f).wf = true → Readable f g g.allLanes [] → ∃ t, exec (.bra f) s = .next t ∧ PutEffect s' a g .zero 0 f.sw (rel.setWidth 57) t) ∧
       ((Instr.bral f).wf = true → Readable f g g.allLanes [] →
         ∃ t, exec (.bral f) s = .next t ∧ PutEffect s' a g f.dst (s.cur.next.setWidth 64) f.sw (rel.setWidth 57) t) ∧
       (∀ i, i = .brzm f ∧ m = 0 ∨ i = .brnzm f ∧ m ≠ 0 ∨ i = .brallm f ∧ m = g.live → i.wf = true → Readable f g g.allLanes [(f.sa, 1)] →
         ∃ t, exec i s = .next t ∧ PutEffect s' a g .zero 0 f.sw (rel.setWidth 57) t) ∧
       ((Instr.loop f).wf = true → 2 ≤ c.toNat → Readable f g g.allLanes [(f.dst, 1)] →
         ∃ t, exec (.loop f) s = .next t ∧ PutEffect s' a g f.dst (c - 1) f.sw (rel.setWidth 57) t)) ∧
     (∀ s', TargetOk s a x s' → Readable f g g.allLanes [(f.sa, 1)] →
       (∀ i, i = .jmp f ∨ i = .ret f → i.wf = true → ∃ t, exec i s = .next t ∧ PutEffect s' a g .zero 0 f.sw (x.setWidth 57) t) ∧
       ((Instr.jmpl f).wf = true → ∃ t, exec (.jmpl f) s = .next t ∧ PutEffect s' a g f.dst (s.cur.next.setWidth 64) f.sw (x.setWidth 57) t)) ∧
     (∀ i, i = .brzm f ∧ m ≠ 0 ∨ i = .brnzm f ∧ m = 0 ∨ i = .brallm f ∧ m ≠ g.live → i.wf = true → Readable f g g.allLanes [(f.sa, 1)] →
       ∃ t, exec i s = .next t ∧ PutEffect s a g .zero 0 f.sw s.cur.next t) ∧
     ((Instr.loop f).wf = true → c.toNat < 2 → Readable f g g.allLanes [(f.dst, 1)] →
       ∃ t, exec (.loop f) s = .next t ∧ PutEffect s a g (if c = 0 then .zero else f.dst) 0 f.sw s.cur.next t)) ∧
  (∀ (s : State) (id : Nat) (g : Group) (f : LF) (i : Instr), Issues s (.group id) g → g.results = [] → i.wf = true →
     i = .jmp f ∨ i = .jmpl f ∨ i = .ret f → RecRoom s g.ridge →
     let x := (s.rd g).uni 0 f.lit f.sa
     x.toNat < 2 ^ 57 → (x.toNat % 4 ≠ 0 ∨ x.toNat / 4 % 32 < 2) →
     ∃ t, exec i s = .next t ∧ Faults s id g 0x04 g.allLanes t)

/-- R174 to R176: SPLIT and SPLITM. A group that does not split goes on with 0 or 256 in DST. A group that splits is gone,
each of its slices is held by one new group with the parent's lanes in order, its s registers but for DST, and its home
lanes; DST tells the first slice, and 256 more for the named set; every other group is as it was.
The numbers of groups are the model's own (log entry 38).
COMPLETION: it concludes that exec answers a next state (exec i s = .next t), from premises on the state and the operands
alone, for the constructors split, splitm. -/
def Obligations.SplitResults : Prop :=
  ∀ (s : State) (id : Nat) (g : Group) (f : LF) (i : Instr), Issues s (.group id) g → i.wf = true → g.width % 4 = 0 →
    (∀ x ∈ s.groups, x.id < s.nextGroup) →
    let m := (s.rd g).uni 0 f.lit f.sa
    let n := g.slices
    let named := fun k => m.getLsbD k
    let parted := fun (t : State) (add : Nat → Nat) =>
      t.group? id = none ∧ (∀ x ∈ s.groups, x.id ≠ id → x ∈ t.groups) ∧
      (∀ k, k < n → ∃ h ∈ t.groups, h.ctx = g.ctx ∧ h.tlin = g.tlin ∧ h.core = g.core ∧ h.quad = g.quad ∧ h.pc = s.cur.next ∧
        h.slice0 ≤ g.slice0 + k ∧ g.slice0 + k < h.slice0 + h.slices ∧ g.slice0 ≤ h.slice0 ∧
        h.lanes = (g.lanes.drop (4 * (h.slice0 - g.slice0))).take h.width ∧ h.home = g.home + 4 * (h.slice0 - g.slice0) ∧
        ∀ r : Fin 32, h.getS r.val = if f.dst = .s r then BitVec.ofNat 64 (4 * (h.slice0 - g.slice0) + add k) else g.getS r.val)
    (i = .split f → Readable f g g.allLanes [] →
      (g.width ≤ 4 * 2 ^ f.ext.toNat → ∃ t, exec i s = .next t ∧ PutEffect s (.group id) g f.dst 0 f.sw s.cur.next t) ∧
      (4 * 2 ^ f.ext.toNat < g.width → g.width % (4 * 2 ^ f.ext.toNat) = 0 → ∃ t, exec i s = .next t ∧ parted t (fun _ => 0) ∧
        ∀ h ∈ t.groups, s.nextGroup ≤ h.id → h.width = 4 * 2 ^ f.ext.toNat)) ∧
    (i = .splitm f → Readable f g g.allLanes [(f.sa, 1)] →
      ((∀ k, k < n → named k = true) → ∃ t, exec i s = .next t ∧ PutEffect s (.group id) g f.dst 256 f.sw s.cur.next t) ∧
      ((∀ k, k < n → named k = false) → 0 < n → ∃ t, exec i s = .next t ∧ PutEffect s (.group id) g f.dst 0 f.sw s.cur.next t) ∧
      ((∃ k, k < n ∧ named k = true) → (∃ k, k < n ∧ named k = false) →
        ∃ t, exec i s = .next t ∧ parted t (fun k => if named k then 256 else 0)))

/-- EXIT, SLEEP and FUSE park their group (R178, R189, R191): EXIT to leave when its work is done; SLEEP until n ns have
passed, n at most 2^32 - 1, and not at all for n = 0; FUSE to a width above its own, in a block of its own team, in the
attempt of its key; and FUSE to a width that is not above its own gives code 4.
That time limits are kept as due times is the model's (log entry 10).
COMPLETION: it concludes that exec answers a next state (exec i s = .next t), from premises on the state and the operands
alone, for the constructors exit, fuse, sleep. -/
def Obligations.ExitSleepFuse : Prop :=
  ∀ (s : State) (id : Nat) (g : Group) (f : LF), Issues s (.group id) g →
    let x := (s.rd g).uni 0 f.lit f.sa
    ((Instr.exit f).wf = true → Readable f g g.allLanes [] → ∃ t, exec (.exit f) s = .next t ∧ Parks s (.group id) g .exiting t) ∧
    ((Instr.sleep f).wf = true → Readable f g g.allLanes [(f.sa, 1)] →
      (x = 0 → ∃ t, exec (.sleep f) s = .next t ∧ PutEffect s (.group id) g .zero 0 f.sw s.cur.next t) ∧
      (x ≠ 0 → let n := min x.toNat 4294967295
        ∃ t, exec (.sleep f) s = .next t ∧ Parks s (.group id) g (.sleep n (s.time + 16 * n)) t)) ∧
    ((Instr.fuse f).wf = true → Readable f g g.allLanes [(f.sa, 1)] →
      let w := 4 * 2 ^ f.ext.toNat
      let first := g.slice0 / (w / 4) * (w / 4)
      (w ≤ g.width → ∃ t h, exec (.fuse f) s = .next t ∧ t.group? id = some h ∧ h.pc = s.cur.next ∧
        ∀ r : Fin 32, h.getS r.val = if f.dst = .s r then 4 else g.getS r.val) ∧
      (g.width < w → blockBroken (s.teamOf g) (s.holders g.core g.quad first (w / 4)) g first (w / 4) = false →
        exitedIn (s.teamOf g) g.quad first (w / 4) = false →
        ∃ t, exec (.fuse f) s = .next t ∧ Parks s (.group id) g (.fuse f.ext.toNat x (f.mod == 1) f.dst) t ∧
          ∃ k ∈ t.fuses, k.core = g.core ∧ k.quad = g.quad ∧ k.first = first ∧ k.len = w / 4 ∧ k.tag = x ∧ k.strict = (f.mod == 1) ∧
            (id, g.sregs) ∈ k.arrived))

/-! ### The memory engine -/

/-- Every load (R203, R204), where it passes the checks of R202: each active lane's elements, read little-endian from its
places, become one outstanding result that arrives with the operation on the path counter; no byte of memory changes.
LD.uni (R204): one access for the whole group, whose element, sign-extended in a signed type and zero-extended in any other,
is the result for the s register DST; specifier 0x70 discards it.
The writes that stand without a place, and the premise that there is none, are the model's form of R138 and R139 (log entry 6).
COMPLETION: it concludes that exec answers a next state (exec i s = .next t), from premises on the state and the operands
alone, for the constructors ld, lds, ldc, ldk, ldp. -/
def Obligations.LoadResults : Prop :=
  (∀ (s s1 : State) (id : Nat) (g : Group) (f : LF) (i : Instr) (sp : Space) (path : Nat) (pieces : Nat → List Piece),
     Issues s (.group id) g → i.wf = true → i ∈ [.ld f, .lds f, .ldc f, .ldk f, .ldp f] → memSpace f i = some (sp, path) → (i = .ld f → f.isUni = false) →
     let r := s.rd g
     let n := f.ty.size * countOf f.mod.toNat
     let q := memReq f sp r path n .read
     let lanes := activeLanes f s g
     Readable f g (activeOf f r) ((if sp == .glob then sRun f.sa 4 else sRun f.sa 1) ++ [(f.sb, 1)]) →
     (sp = .glob → q.rcd.valid n = true) →
     MemReady s id g q (lanes.map fun l => (l, memOffset f sp r l)) pieces s1 →
     ∃ t h, exec i s = .next t ∧ MemDone s id g f path lanes h t ∧ (∀ k, readByte t.mem k = readByte s1.mem k) ∧
       h.lanes = (if isPush f.dst then (g.pushZeros f.nreg).lanes else g.lanes) ∧
       h.results = g.results ++ [{ writes := vWrites f.dst g.pushes (lanes.map fun l => (l, wordsOfBytes f.ty (countOf f.mod.toNat) (bytesAt s1.mem (pieces l))))
                                   op := some s.nextNum }]) ∧
  (∀ (s s1 : State) (id : Nat) (g : Group) (f : LF) (pieces : Nat → List Piece),
     Issues s (.group id) g → (Instr.ld f).wf = true → f.isUni = true →
     let r := s.rd g
     let q := memReq f .glob r 0 f.ty.size .read
     Readable f g g.allLanes (sRun f.sa 4 ++ [(f.sb, 1)]) → q.rcd.valid f.ty.size = true →
     MemReady s id g q [(0, dispOf f + r.offX f 0)] pieces s1 →
     let v := leBytes ((bytesAt s1.mem (pieces 0)).take f.ty.size)
     ∃ t h x, exec (.ld f) s = .next t ∧ t.group? id = some h ∧ h.pc = s.cur.next ∧ h.sregs = g.sregs ∧ h.lanes = g.lanes ∧
       (∀ k, readByte t.mem k = readByte s1.mem k) ∧ (x : W64) = (if f.ty.isInt then BitVec.ofInt 64 (intOf f.ty v) else BitVec.ofNat 64 v) ∧
       h.results = match f.dst with
         | .s n => g.results ++ [{ writes := [.s n.val x], op := some s.nextNum }]
         | _ => g.results)

/-- Every store (R205), where it passes the checks of R202 and reports nothing: the elements of the active lanes, in ascending lane
order, are written little-endian to their places; every byte outside those places reads as before, and no register changes.
The writes that stand without a place, and the premise that there is none, are the model's form of R138 and R139 (log entry 6).
COMPLETION: it concludes that exec answers a next state (exec i s = .next t), from premises on the state and the operands
alone, for the constructors st, sts, stc, stk, stp. -/
def Obligations.StoreResults : Prop :=
  ∀ (s s1 : State) (id : Nat) (g : Group) (f : LF) (i : Instr) (sp : Space) (path : Nat) (pieces : Nat → List Piece),
    Issues s (.group id) g → i.wf = true → i ∈ [.st f, .sts f, .stc f, .stk f, .stp f] → memSpace f i = some (sp, path) →
    let r := s.rd g
    let count := countOf f.mod.toNat
    let n := f.ty.size * count
    let q := memReq f sp r path n .write
    let lanes := activeLanes f s g
    Readable f g (activeOf f r) ((if sp == .glob then sRun f.sa 4 else sRun f.sa 1) ++ [(f.sb, 1), dataSlots f.sc f.nreg]) →
    (sp = .glob → q.rcd.valid n = true) → (reportsStore sp f.ty q.rcd = true → (s.audRegs g.ctx).admits q.rcd.tag = false) →
    MemReady s id g q (lanes.map fun l => (l, memOffset f sp r l)) pieces s1 → Sound s1 →
    ∃ t h, exec i s = .next t ∧ MemDone s id g f path lanes h t ∧ h.results = g.results ∧ h.lanes = g.lanes ∧
      t.mem = lanes.foldl (fun m l => writeAt m (pieces l) (r.dataBytes 2 f f.sc count l)) s1.mem ∧
      ∀ k, (∀ l ∈ lanes, ∀ p ∈ pieces l, k < p.key ∨ p.key + p.n ≤ k) → readByte t.mem k = readByte s1.mem k

/-- One atomic after another (R141): the old values that the lanes read, and memory after them. -/
def atomsRun (f : LF) (r : Rd) (pieces : Nat → List Piece) (x : List (Nat × Nat) × Memory) (l : Nat) : List (Nat × Nat) × Memory :=
  match pieces l with
  | p :: _ =>
    let old := readLE x.2 p.key p.n
    let v := r.atomArgs f l
    (x.1 ++ [(l, old)], writeBytes x.2 p.key (toLE p.n (atomNew (f.mod.toNat % 16) f.ty old v.1 v.2)))
  | [] => x

/-- Every atomic (R141, R208, R209), where it passes the checks of R202: the active lanes' operations take place one after another in
ascending lane order, also on one address; each lane's result is the old value at its place, and no other byte changes.
R208: the operations of the atomics on n-byte values.
The writes that stand without a place, and the premise that there is none, are the model's form of R138 and R139 (log entry 6).
COMPLETION: it concludes that exec answers a next state (exec i s = .next t), from premises on the state and the operands
alone, for the constructors atom, atoms, atomc. -/
def Obligations.AtomicResults : Prop :=
  (∀ (s s1 : State) (id : Nat) (g : Group) (f : LF) (i : Instr) (sp : Space) (path : Nat) (pieces : Nat → List Piece),
     Issues s (.group id) g → i.wf = true → i ∈ [.atom f, .atoms f, .atomc f] → memSpace f i = some (sp, path) →
     let r := s.rd g
     let n := atomSize f
     let k := max 1 (n / 4)
     let q := memReq f sp r path n .atomic
     let lanes := activeLanes f s g
     Readable f g (activeOf f r) ((if sp == .glob then sRun f.sa 4 else sRun f.sa 1) ++ [(f.sb, 1), dataSlots f.sc (if f.mod.toNat % 16 = 7 then 2 * k else k)]) →
     (sp = .glob → q.rcd.valid n = true) → (∀ l ∈ lanes, (pieces l).length = 1 ∧ ∀ p ∈ pieces l, p.n = n) →
     MemReady s id g q (lanes.map fun l => (l, memOffset f sp r l)) pieces s1 → Sound s1 →
     let x := lanes.foldl (atomsRun f r pieces) ([], s1.mem)
     ∃ t h, exec i s = .next t ∧ MemDone s id g f path lanes h t ∧ t.mem = x.2 ∧
       h.lanes = (if isPush f.dst then (g.pushZeros k).lanes else g.lanes) ∧
       h.results = g.results ++ [{ writes := vWrites f.dst g.pushes (x.1.map fun p =>
           (p.1, if f.mod.getLsbD 4 then natWords 4 p.2 else slotWords f.ty (elemSlot f.ty p.2))), op := some s.nextNum }] ∧
       ∀ a, (∀ l ∈ lanes, ∀ p ∈ pieces l, a < p.key ∨ p.key + p.n ≤ a) → readByte t.mem a = readByte s1.mem a) ∧
  (∀ (t : Ty) (old v cmp : Nat), old < 2 ^ t.bits → v < 2 ^ t.bits →
     atomNew 0 t old v cmp = (old + v) % 2 ^ t.bits ∧
     (t.isInt = true → intOf t (atomNew 1 t old v cmp) = min (intOf t old) (intOf t v) ∧ intOf t (atomNew 2 t old v cmp) = max (intOf t old) (intOf t v)) ∧
     (∀ k, (atomNew 3 t old v cmp).testBit k = (old.testBit k && v.testBit k) ∧ (atomNew 4 t old v cmp).testBit k = (old.testBit k || v.testBit k) ∧
       (atomNew 5 t old v cmp).testBit k = (old.testBit k ^^ v.testBit k)) ∧
     atomNew 6 t old v cmp = v ∧ atomNew 7 t old v cmp = (if old = cmp then v else old))

/-- PREF (R214) changes no register and no byte of memory, where the model's choice is that it sets neither A nor D (log entry 41); DISCARD (R215) zeroes the 128 bytes at each active lane's line, and no
other byte.
That a prefetch sets neither A nor D is the model's choice (log entry 41).
COMPLETION: it concludes that exec answers a next state (exec i s = .next t), from premises on the state and the operands
alone, for the constructors pref, discard. -/
def Obligations.PrefetchAndDiscard : Prop :=
  ∀ (s s1 : State) (id : Nat) (g : Group) (f : LF) (pieces : Nat → List Piece), Issues s (.group id) g →
    let r := s.rd g
    let lanes := activeLanes f s g
    let offs := lanes.map fun l => (l, memOffset f .glob r l)
    Readable f g (activeOf f r) (sRun f.sa 4 ++ [(f.sb, 1)]) →
    ((Instr.pref f).wf = true → (r.rcd f.sa).valid 1 = true → g.watched = none → g.raced = none →
      (∀ o ∈ offs, s.inBounds (.group id) g { sp := .glob, rcd := r.rcd f.sa, n := 1, path := none, acc := .prefetch } o.2 = true) →
      ∃ t h, exec (.pref f) s = .next t ∧ t.group? id = some h ∧ h.pc = s.cur.next ∧ h.sregs = g.sregs ∧ h.lanes = g.lanes ∧ h.results = g.results ∧
        h.ops = g.ops ∧ SameSpecial g h ∧ t.mem = s.mem) ∧
    ((Instr.discard f).wf = true → (r.rcd f.sa).swz ≤ 4 →
      MemReady s id g { sp := .glob, rcd := r.rcd f.sa, n := 128, path := some 1, acc := .write, plain := true } offs pieces s1 → Sound s1 →
      ∃ t h, exec (.discard f) s = .next t ∧ MemDone s id g f 1 lanes h t ∧ h.results = g.results ∧ h.lanes = g.lanes ∧
        (∀ l ∈ lanes, ∀ p ∈ pieces l, ∀ k, p.key ≤ k → k < p.key + p.n → readByte t.mem k = 0) ∧
        ∀ k, (∀ l ∈ lanes, ∀ p ∈ pieces l, k < p.key ∨ p.key + p.n ≤ k) → readByte t.mem k = readByte s1.mem k)

/-- The bounds fault and the misalignment fault of a scratchpad load (R118, R136, R202): the group is parked at the instruction, with the
failing lanes, and nothing else changes; bounds come before alignment. The event ring of its ridge has a slot.
R121 and R122: a load through a record that is not strict, of which every active lane is out of bounds, reads zeros, sets
MSTAT.OOB and touches no memory.
R121 and R122: an access through a record that is not strict, of which some lanes are out of bounds. With OOB in MSTAT, the lanes in
bounds, which pass the checks of R202, load, store or make their atomic operation; a lane out of bounds loads zeros, or returns
zero and stores nothing. so is s with the record of R387 for the lanes out of bounds. -/
def Obligations.MemoryBounds : Prop :=
  (∀ (s : State) (id : Nat) (g : Group) (f : LF), Issues s (.group id) g → (Instr.lds f).wf = true → g.results = [] → g.counter 2 < 63 → g.parkOp = none → g.emul = false → RecRoom s g.ridge →
     let r := s.rd g
     let q := memReq f (.spad (f.ext.toNat % 8)) r 2 (f.ty.size * countOf f.mod.toNat) .read
     let lanes := activeLanes f s g
     let off := fun l => memOffset f (.spad (f.ext.toNat % 8)) r l
     let out := lanes.filter fun l => !s.inBounds (.group id) g q (off l)
     let mis := lanes.filter fun l => (off l).toNat % q.n != 0
     (out ≠ [] → ∃ t, exec (.lds f) s = .next t ∧ Faults s id g 0x08 (maskOf out) t) ∧
     (out = [] → mis ≠ [] → ∃ t, exec (.lds f) s = .next t ∧ Faults s id g 0x09 (maskOf mis) t)) ∧
  (∀ (s : State) (id : Nat) (g : Group) (f : LF), Issues s (.group id) g → (Instr.ld f).wf = true → f.isUni = false →
     g.parkOp = none ∧ g.reserved = 0 ∧ g.emul = false ∧ g.watched = none ∧ g.raced = none → g.counter 0 < 63 → s.late = [] →
     let r := s.rd g
     let n := f.ty.size * countOf f.mod.toNat
     let q := memReq f .glob r 0 n .read
     let lanes := activeLanes f s g
     Readable f g (activeOf f r) (sRun f.sa 4 ++ [(f.sb, 1)]) → q.rcd.valid n = true → q.rcd.strict = false → lanes ≠ [] →
     (∀ l ∈ lanes, s.inBounds (.group id) g q (globOffset f r q.rcd l) = false) →
     ∃ t h, exec (.ld f) s = .next t ∧ t.group? id = some h ∧ h.pc = s.cur.next ∧ h.mstat = g.mstat ||| 1 ∧ h.fstat = g.fstat ∧ h.sregs = g.sregs ∧
       t.mem = s.mem ∧ h.results = g.results ++ [{ writes := vWrites f.dst g.pushes (lanes.map fun l => (l, List.replicate f.nreg 0)), op := some s.nextNum }]) ∧
  (∀ (s s1 : State) (id : Nat) (g : Group) (f : LF) (i : Instr) (pieces : Nat → List Piece), Issues s (.group id) g → i.wf = true →
     i ∈ [.ld f, .st f, .atom f] → (i = .ld f → f.isUni = false) →
     let r := s.rd g
     let count := countOf f.mod.toNat
     let n := if i = .atom f then atomSize f else f.ty.size * count
     let k := max 1 (n / 4)
     let q := memReq f .glob r (if i = .ld f then 0 else 1) n (if i = .ld f then .read else if i = .st f then .write else .atomic)
     let lanes := activeLanes f s g
     let off := fun (l : Nat) => globOffset f r q.rcd l
     let inb := lanes.filter fun l => s.inBounds (.group id) g q (off l)
     let out := lanes.filter fun l => !s.inBounds (.group id) g q (off l)
     let so := s.traceG (.group id) g 1 0x22 (q.rcd.traceTag g) g.pc.toNat 0 ((maskOf out).toNat % 2 ^ 32)
     out ≠ [] → q.rcd.valid n = true → q.rcd.strict = false →
     Readable f g (activeOf f r) (sRun f.sa 4 ++ [(f.sb, 1)] ++ (if i = .ld f then [] else
       [dataSlots f.sc (if i = .st f then f.nreg else if f.mod.toNat % 16 = 7 then 2 * k else k)])) →
     (i = .st f → reportsStore .glob f.ty q.rcd = true → (s.audRegs g.ctx).admits q.rcd.tag = false) →
     (i = .atom f → ∀ l ∈ inb, (pieces l).length = 1 ∧ ∀ p ∈ pieces l, p.n = n) →
     MemReady so id g q (inb.map fun l => (l, off l)) pieces s1 → Sound s1 →
     let zeros := fun (k : Nat) => out.map fun l => (l, List.replicate k (0 : W32))
     let x := inb.foldl (atomsRun f r pieces) ([], s1.mem)
     ∃ t h, exec i s = .next t ∧ t.group? id = some h ∧ h.pc = s.cur.next ∧ h.mstat = g.mstat ||| 1 ∧ h.fstat = g.fstat ∧ h.sregs = g.sregs ∧
       (∀ a, (i = .ld f ∨ ∀ l ∈ inb, ∀ p ∈ pieces l, a < p.key ∨ p.key + p.n ≤ a) → readByte t.mem a = readByte s1.mem a) ∧
       (i = .ld f → h.results = g.results ++ [{ writes := vWrites f.dst g.pushes ((inb.map fun l =>
         (l, wordsOfBytes f.ty count (bytesAt s1.mem (pieces l)))) ++ zeros f.nreg), op := some s.nextNum }]) ∧
       (i = .st f → h.results = g.results ∧ t.mem = inb.foldl (fun m l => writeAt m (pieces l) (r.dataBytes 2 f f.sc count l)) s1.mem) ∧
       (i = .atom f → t.mem = x.2 ∧ h.results = g.results ++ [{ writes := vWrites f.dst g.pushes ((x.1.map fun p =>
         (p.1, if f.mod.getLsbD 4 then natWords 4 p.2 else slotWords f.ty (elemSlot f.ty p.2))) ++ zeros k), op := some s.nextNum }]))

/-- R124 to R128: a translation that succeeds changes no byte of memory but those of the leaf entry, in which it sets at most the A and D bits;
one that fails, and a prefetch's, changes none; that a prefetch's sets neither A nor D is the model's choice (log entry 41).
R127: a leaf that denies an access denies it with the cause of the first check that fails: user, encryption, read, write, execute.
That a prefetch sets neither A nor D is the model's choice (log entry 41). -/
def Obligations.Translation : Prop :=
  (∀ (s s' : State) (ctx : Nat) (user : Bool) (acc : Acc) (va : Nat) (x : Trans), s.tlb = [] → Sound s → s.translate ctx user acc va = (x, s') →
     s'.groups = s.groups ∧ s'.teams = s.teams ∧ s'.contexts = s.contexts ∧ s'.cols = s.cols ∧
     (∀ c, x = .fail c → s'.mem = s.mem) ∧ (acc = .prefetch → s'.mem = s.mem) ∧
     ∀ size e ea, s.walk ctx va = .leaf size e ea →
       (∀ k, k < ea ∨ ea + 8 ≤ k → readByte s'.mem k = readByte s.mem k) ∧
       ∀ k, k < 64 → k ≠ 52 → k ≠ 53 → (readLE s'.mem ea 8).testBit k = (readLE s.mem ea 8).testBit k) ∧
  (∀ (prot user : Bool) (acc : Acc) (e : W64) (pa t : Nat), tierOf pa = some t →
     (user = true → pteU e = false → leafCheck prot user acc e pa = some 5) ∧
     ((user = true → pteU e = true) →
       (ptePctx e = true → prot = false → leafCheck prot user acc e pa = some 6) ∧
       ((ptePctx e = true → prot = true) →
         (acc = .read → pteR e = false → leafCheck prot user acc e pa = some 2) ∧
         (acc = .write → pteW e = false → leafCheck prot user acc e pa = some 3) ∧
         (acc = .fetch → pteX e = false → leafCheck prot user acc e pa = some 4) ∧
         (acc = .read → pteR e = true → leafCheck prot user acc e pa = none) ∧
         (acc = .write → pteW e = true → leafCheck prot user acc e pa = none) ∧
         (acc = .fetch → pteX e = true → leafCheck prot user acc e pa = none))))

/-- WAITC completes at once where its counter is at most the threshold, of which 64 and more are alike, and parks for it otherwise
(R217). CNTRD reads one counter, or with .all the eight in six bits each (R218). A FENCE with first class LS parks while an LS
counter is not zero, and every other FENCE completes at once; it changes no register and no byte of memory (R216). With an
engine's class first, each write without a place of an operation that the agent has observed complete comes from then on
before accesses of the second class, for the parties of the scope, when its engine is one of them (R144, R151).
COMPLETION: it concludes that exec answers a next state (exec i s = .next t), from premises on the state and the operands
alone, for the constructors fence, waitc, cntrd. -/
def Obligations.FencesAndPathCounters : Prop :=
  ∀ (s : State) (a : Agent) (g : Group) (f : LF), Issues s a g →
    let x := min 64 ((s.rd g).uni 0 f.lit f.sa).toNat
    let p := f.ext.toNat
    let first := f.mod.toNat / 4
    let second := f.mod.toNat % 4
    ((Instr.waitc f).wf = true → Readable f g g.allLanes [(f.sa, 1)] →
      (g.counter p ≤ x → ∃ t, exec (.waitc f) s = .next t ∧ PutEffect s a g .zero 0 f.sw s.cur.next t) ∧
      (x < g.counter p → ∃ t, exec (.waitc f) s = .next t ∧ Parks s a g (.waitc p x) t)) ∧
    ((Instr.cntrd f).wf = true → Readable f g g.allLanes [] →
      ∃ v t, exec (.cntrd f) s = .next t ∧ SEffect s a g f v [] false t ∧ (p < 8 → v = BitVec.ofNat 64 (g.counter p)) ∧
        (p = 8 → v.toNat < 2 ^ 48 ∧ ∀ k, k < 8 → v.toNat / 2 ^ (6 * k) % 64 = min (g.counter k) 63)) ∧
    ((Instr.fence f).wf = true → Readable f g g.allLanes [] →
      (first = 0 → g.lsZero = false → ∃ t, exec (.fence f) s = .next t ∧ Parks s a g (.drain .ls) t) ∧
      ((first = 0 → g.lsZero = true) → ∃ t h, exec (.fence f) s = .next t ∧ t.ag? a = some h ∧ h.pc = s.cur.next ∧
        h.park = (if f.sw && !h.results.isEmpty then .marker else .ready) ∧ h.sregs = g.sregs ∧ h.lanes = g.lanes ∧ h.results = g.results ∧
        h.ops = g.ops ∧ SameSpecial g h ∧ t.mem = s.mem ∧ (∀ b, b ≠ a → t.ag? b = s.ag? b) ∧ t.teams = s.teams ∧
        (1 ≤ first → first ≤ 4 → t.late = s.late.map fun w =>
          if w.cls = first ∧ w.op ∈ g.seen ∧ (s.party a).hasEngine f.ext.toNat w.cls w.core = true then { w with fences := w.fences ++ [(s.party a, f.ext.toNat, second)] } else w)))

/-! ### The matrix engine -/

/-- Register word k of a run of registers that starts at a specifier (R256). -/
def runWord (g : Group) (x : Spec) (k : Nat) : W32 := (g.laneAt (k % g.width)).getV (vnum x + k / g.width)

/-- MMA, MCONV, MZERO, MLOAD, MDRAIN, MDRAINS and MROWS (R252, R255, R258 to R265), where the matrix unit can accept them: the operation is
queued with the registers it read at issue, and its register results, of MDRAIN and MROWS, are late: of every word of the run, which
have no value yet.
The record of a queued operation and its number are the model's (log entries 6 and 38).
COMPLETION: it concludes that exec answers a next state (exec i s = .next t), from premises on the state and the operands
alone, for the constructors mma, mconv, mzero, mload, mdrain, mdrains, mrows. -/
def Obligations.MatrixOperationsAreQueued : Prop :=
  ∀ (s : State) (id : Nat) (g : Group) (f : LF), MtxReady s id g f true → g.results = [] →
    let r := s.rd g
    let n := fragWords f.ty
    let pos := r.uni 2 f.lit f.sc
    let late := fun (h : Group) (words : Nat) =>
      h.results = [{ writes := runWrites g f.dst g.pushes words fun _ => 0, op := some s.nextNum, late := true }]
    ((Instr.mma f).wf = true → runOk f.sa (nregOf n g.width) = true → runOk f.sb (nregOf n g.width) = true →
      ∃ t h m, exec (.mma f) s = .next t ∧ MtxQueued s s id g f.sw (.mma f) m h t ∧ m.tile = some f.tile ∧ m.sampled = false ∧
        m.a = (List.range n).map (runWord g f.sa) ∧ m.b = (List.range n).map (runWord g f.sb) ∧ h.results = [] ∧ h.lanes = g.lanes) ∧
    ((Instr.mconv f).wf = true → runOk f.sb (nregOf n g.width) = true →
      (let sh := Shp.of g.shape
       let rc := r.rcd f.sa
       g.shape ≠ 0 ∧ sh.c % kbOf f.ty = 0 ∧ (f.ty ≠ .f32 → sh.c % 128 = 0) ∧ pos.toNat / 2 ^ 32 * kbOf f.ty < sh.fh * sh.fw * sh.c ∧
         rc.valid f.ty.size = true ∧ rc.rowlen ≠ 0) →
      ∃ t h m, exec (.mconv f) s = .next t ∧ MtxQueued s s id g f.sw (.mconv f) m h t ∧ m.tile = some f.tile ∧
        m.b = (List.range n).map (runWord g f.sb) ∧ m.shape = g.shape ∧ h.results = [] ∧ h.lanes = g.lanes) ∧
    ((Instr.mzero f).wf = true → ∃ t h m, exec (.mzero f) s = .next t ∧ MtxQueued s s id g f.sw (.mzero f) m h t ∧ m.tile = some f.tile ∧ h.results = []) ∧
    ((Instr.mload f).wf = true → runOk f.sa (nregOf 256 g.width) = true →
      ∃ t h m, exec (.mload f) s = .next t ∧ MtxQueued s s id g f.sw (.mload f) m h t ∧ m.tile = some f.tile ∧
        m.a = (List.range 256).map (runWord g f.sa) ∧ h.results = []) ∧
    ((Instr.mdrain f).wf = true → runOk f.dst (nregOf (drainWords f.ty) g.width) = true →
      ∃ t h m, exec (.mdrain f) s = .next t ∧ MtxQueued s s id g f.sw (.mdrain f) m h t ∧ m.tile = some f.tile ∧ late h (drainWords f.ty) ∧
        h.srCtr = (if modeOf f g == .sr then g.srCtr + 1 else g.srCtr)) ∧
    (∀ tm, s.teamOf g = some tm → (Instr.mdrains f).wf = true →
      (let u := (r.uni 3 f.lit f.sb).toNat
       let w := tm.window (vnum f.dst)
       let o := u % 2 ^ 32
       let pitch := u / 2 ^ 32
       o + 15 * pitch + 16 * f.ty.size ≤ winSize w ∧ 16 * f.ty.size ≤ pitch ∧ o % 16 = 0 ∧ pitch % 16 = 0 ∧ (winFmt w = 0 ∨ winFmt w = f.ty.code)) →
      ∃ t h m, exec (.mdrains f) s = .next t ∧ MtxQueued s s id g f.sw (.mdrains f) m h t ∧ m.tile = some f.tile ∧ h.results = []) ∧
    ((Instr.mrows f).wf = true → ∃ t h m, exec (.mrows f) s = .next t ∧ MtxQueued s s id g f.sw (.mrows f) m h t ∧ m.tile = some f.tile ∧ late h (2 * g.width))

/-- MSHAPE loads the shape register from six s registers, when the record is valid (R266). LDF (R210 to R213), where its region is found, is
queued with the places of its elements, or with .scl of its scales, and its register results are late.
The record of a queued operation and its number are the model's (log entries 6 and 38).
COMPLETION: it concludes that exec answers a next state (exec i s = .next t), from premises on the state and the operands
alone, for the constructors ldf, mshape. -/
def Obligations.ShapeAndFragmentLoads : Prop :=
  (∀ (s : State) (id : Nat) (g : Group) (f : LF), Issues s (.group id) g → (Instr.mshape f).wf = true → g.results = [] →
    let x : BitVec 384 := BitVec.ofNat 384 (((List.range 6).map fun k => g.getS (snum f.sa + k)).foldr (fun w n => w.toNat + 2 ^ 64 * n) 0)
    (Shp.of x).valid = true →
    ∃ t h, exec (.mshape f) s = .next t ∧ Completes s (.group id) h f.sw s.cur.next t ∧ h.shape = x ∧ h.sregs = g.sregs ∧ h.lanes = g.lanes ∧
      h.results = [] ∧ h.gmode = g.gmode ∧ h.fstat = g.fstat ∧ h.mstat = g.mstat) ∧
  (∀ (s s1 : State) (id : Nat) (g : Group) (f : LF) (keys : List (Option Nat)) (geom : Option Nat), MtxReady s id g f false → (Instr.ldf f).wf = true →
    g.results = [] → 16 ≤ g.width →
    let r := s.rd g
    let rc := r.rcd f.sa
    let o := (r.uni 1 f.lit f.sb).toNat
    let elems := regionElems f.roleB (kbOf f.ty) (o % 2 ^ 32) (o / 2 ^ 32)
    (if f.roleB then o % 2 ^ 32 else o / 2 ^ 32) % kbOf f.ty = 0 →
    ∀ tm, (f.isWin = true → s.teamOf g = some tm ∧ winRowlen (tm.window (windowOf f)) ≠ 0 ∧
      s.regionWindow (.group id) g f tm (tm.window (windowOf f)) elems = .ok keys geom s1) →
    (f.isWin = false → rc.valid f.ty.size = true ∧ rc.rowlen ≠ 0 ∧ s.regionRecord (.group id) g f rc elems = .ok keys geom s1) →
    (f.scl = false → runOk f.dst (nregOf (fragWords f.ty) g.width) = true →
      ∃ t h m, exec (.ldf f) s = .next t ∧ MtxQueued s s1 id g f.sw (.ldf f) m h t ∧ m.keys = keys ∧ m.tile = none ∧
        m.sb = some (BitVec.ofNat 32 (zeroCode f.ty)) ∧
        h.results = [{ writes := runWrites g f.dst g.pushes (fragWords f.ty) fun _ => 0, op := some s.nextNum, late := true }]) ∧
    (f.scl = true →
      let c := if f.isWin then winRowlen (tm.window (windowOf f)) else rc.rowlen
      let rn := if f.isWin then winSize (tm.window (windowOf f)) / (c * f.ty.size) else rc.extent / (c * f.ty.size)
      let at_ := scaleAt f.roleB c rn (o % 2 ^ 32) (o / 2 ^ 32)
      let base : Nat ⊕ Nat := if f.isWin then .inr (spadKey tm.core (tm.base + winScoff (tm.window (windowOf f)))) else .inl rc.scale
      ∀ ks s2, (geom = some 0 → ks = at_.map (fun _ => none) ∧ s2 = s1) →
        (geom ≠ some 0 → ∃ x, s1.scaleKeys (.group id) g (rc.traceTag g) base at_ = .ok ks x s2) →
        ∃ t h m, exec (.ldf f) s = .next t ∧ MtxQueued s s2 id g f.sw (.ldf f) m h t ∧ m.keys = ks ∧ m.tile = none ∧
          m.sb = some (if geom = some 0 then oneF32 else 0) ∧
          h.results = match f.dst with
            | .v n => [{ writes := (List.range g.width).map fun l => .v l n.val 0, op := some s.nextNum, late := true }]
            | .s n => [{ writes := [.s n.val 0], op := some s.nextNum, late := true }]
            | _ => []))

/-- R252, R258: when an operation that may complete does, a MZERO leaves its tile zero, a MLOAD the words it read, a MMA the tile of R105 and
R106; the operation leaves the queue and the other tiles stay.
That a tile operation takes effect in the one step in which it completes, and the sign of an exact zero, are the model's (log entries 6 and 42).
COMPLETION: it concludes that exec answers a next state (exec i s = .next t), from premises on the state and the operands
alone, for the constructors matrixOpComplete. -/
def Obligations.TileOperationsComplete : Prop :=
  ∀ (s : State) (m : MtxOp) (tm : Team) (f : LF), s.ev = .nat m.op → s.mtx.find? (fun x => x.op == m.op) = some m → s.mtxReady m = true →
    s.mtxHeld m = false → m.lost = none → s.team? m.ctx m.tlin = some tm → m.sampled = false →
    let n := m.tile.getD 0
    let old := tm.tile m.quad n
    ∃ t, exec .matrixOpComplete s = .next t ∧
      (m.i = .mzero f ∨ m.i = .mload f ∨ m.i = .mma f ∧ old.err = false ∧ old.bad = false →
        t.mtx = s.mtx.filter (fun x => x.op != m.op) ∧ t.mem = s.mem ∧ ∃ tm', t.team? m.ctx m.tlin = some tm' ∧ (∀ q k, (q, k) ≠ (m.quad, n) → tm'.tile q k = tm.tile q k) ∧
        ((tm'.tile m.quad n).err = false) ∧
        ∀ i j, i < 16 → j < 16 → (tm'.tile m.quad n).get i j =
          match m.i with
          | .mzero _ => 0
          | .mload _ => m.a.getD (16 * i + j) 0
          | _ => mmaCell f.ty f.bty (old.get i j) ((List.range (kbOf f.ty)).map (fragElem f.ty m.a i)) ((List.range (kbOf f.ty)).map (fragElem f.bty m.b j))
              (m.sa.getD i 0x3F800000) (m.sb.getD 0x3F800000))

/-- R256, R261, R264, R210 to R213: when an operation with register results that may complete does, its group's late result holds the words
of the run: of MDRAIN the cells of R261 and their flags, of MROWS the maximum and the sum of each row, of LDF the elements at their places, or
the scales; where there are none, the code of zero, or the scale that the operation holds. It arrives later as any other.
R262, R267, R268: MDRAINS writes its rows to the window, PITCH bytes apart, and no other byte, where its accesses take their places at once and no
line there is uncorrectable; MCONV updates its tile by the A fragment and the row scales that its accesses give, and its group has OOB where one is
out of bounds.
R104, R268: what an access of MCONV gives. An element outside the image is a constant; one at an offset beyond EXTENT is the code of zero, with OOB,
or ends the operation with a bounds error where the record is strict; any other, of a page of the right FMT and GEOM, is what memory holds there.
That an operation takes effect in the one step in which it completes is the model's choice (log entry 6).
COMPLETION: it concludes that exec answers a next state (exec i s = .next t), from premises on the state and the operands
alone, for the constructors matrixOpComplete. -/
def Obligations.MatrixResultsComplete : Prop :=
  (∀ (s : State) (m : MtxOp) (tm : Team) (f : LF) (id : Nat) (g : Group) (p : Nat), s.ev = .nat m.op →
     s.mtx.find? (fun x => x.op == m.op) = some m → s.mtxReady m = true → s.mtxHeld m = false → m.lost = none →
     s.team? m.ctx m.tlin = some tm → m.audOn = false → s.cut = none → m.got = {} → Distinct s →
     s.group? id = some g → g.width = m.width → g.home = m.home → 16 ≤ g.width →
     (∀ x ∈ s.groups, x.id ≠ id → ∀ y ∈ x.results, y.op ≠ some m.op) →
     let n := m.tile.getD 0
     let x := tm.tile m.quad n
     let cells := drainAll m f x
     let fl := orAll (cells.map Prod.snd)
     let row := fun (k : Nat) => (List.range 16).map fun j => x.get (k % m.width % 16) j
     let z := if f.scl then 4 else f.ty.size
     let elem := fun (k : Nat) => match m.keys.getD k none with
       | some key => readLE s.mem key z
       | none => (m.sb.getD 0).toNat
     let word := fun (k : Nat) => match m.i with
       | .mdrain _ => (packDrain f.ty (cells.map Prod.fst)).getD k 0
       | .mrows _ => BitVec.ofNat 32 (if k < m.width then rowMax (f.mod.getLsbD 0) (row k) else rowSum (f.mod.getLsbD 0) (row k))
       | _ => if f.scl then BitVec.ofNat 32 (elem (k % m.width % 16))
         else (packWords f.ty (4 / f.ty.size) ((List.range (4 / f.ty.size)).map fun e => elem (k * (4 / f.ty.size) + e))).headD 0
     let words := match m.i with
       | .mdrain _ => drainWords f.ty
       | .mrows _ => 2 * m.width
       | _ => if f.scl then m.width else fragWords f.ty
     let ends := fun (ws vs : List Write) (flags : List (Nat × Nat)) =>
       g.results = [{ writes := ws, op := some m.op, late := true }] →
       ∃ t h, exec .matrixOpComplete s = .next t ∧ t.group? id = some h ∧ h.lanes = g.lanes ∧ h.sregs = g.sregs ∧ t.mem = s.mem ∧
         h.results = (if vs = [] ∧ flags = [] then [] else [{ writes := vs, flags := flags, op := some m.op }]) ∧
         ∃ tm', t.team? m.ctx m.tlin = some tm' ∧ ∀ q k, tm'.tile q k =
           if m.i = .mdrain f ∧ f.mod.getLsbD 1 = true ∧ q = m.quad ∧ k = n then { x with words := Vector.replicate 256 0 } else tm.tile q k
     ((m.i = .mdrain f ∨ m.i = .mrows f) ∧ x.err = false ∧ x.bad = false ∨ m.i = .ldf f ∧ f.scl = false ∧ m.keys.length = fragWords f.ty * (4 / f.ty.size) →
       ends (runWrites g f.dst p words fun _ => 0) (runWrites g f.dst p words word)
         (if m.i = .mdrain f ∧ fl ≠ 0 then (List.range g.width).map fun l => (l, fl) else [])) ∧
     (m.i = .ldf f → f.scl = true → m.keys.length = (if f.roleB then 1 else 16) →
       (∀ v, f.dst = .v v → f.roleB = false → ends ((List.range g.width).map fun l => .v l v.val 0) ((List.range g.width).map fun l => .v l v.val (word l)) []) ∧
       (∀ v, f.dst = .s v → ends [.s v.val 0] [.s v.val (BitVec.ofNat 64 (elem 0))] []))) ∧
  (∀ (s : State) (m : MtxOp) (tm : Team) (f : LF), s.ev = .nat m.op → s.mtx.find? (fun x => x.op == m.op) = some m → s.mtxReady m = true →
     s.mtxHeld m = false → m.lost = none → s.team? m.ctx m.tlin = some tm → m.audOn = false → m.sampled = false →
     s.cut = none → s.lag = false → s.late = [] → s.poison = [] → m.got = {} → Sound s →
     let n := m.tile.getD 0
     let x := tm.tile m.quad n
     x.err = false → x.bad = false →
     (m.i = .mdrains f → ∀ key u, m.keys = [some key] → m.sv = [u] → 16 * f.ty.size ≤ u.toNat / 2 ^ 32 →
       let at_ := fun (i j : Nat) => key + i * (u.toNat / 2 ^ 32) + j * f.ty.size
       ∃ t, exec .matrixOpComplete s = .next t ∧
         (∀ i j, i < 16 → j < 16 → readLE t.mem (at_ i j) f.ty.size = (drainCell m f x i j).1 % 2 ^ (8 * f.ty.size)) ∧
         (∀ k, (∀ i j, i < 16 → j < 16 → k < at_ i j ∨ at_ i j + f.ty.size ≤ k) → readByte t.mem k = readByte s.mem k)) ∧
     (m.i = .mconv f → ∀ c s1,
       let pos := (m.sv.getD 4 0).toNat
       let steps := ((List.range 16).map fun i => convRow (Shp.of m.shape) (pos % 2 ^ 32) (pos / 2 ^ 32) (kbOf f.ty) i).flatMap fun r =>
         r.steps f.ty (Rcd.ofRegs m.sv) (Shp.of m.shape).padv
       s.convRun m.ctx f.ty (Rcd.ofRegs m.sv) steps {} = (none, c, s1) →
       let a := (List.range (fragWords f.ty)).map fun w =>
         (packWords f.ty (4 / f.ty.size) ((List.range (4 / f.ty.size)).map fun p => c.elems.getD (w * (4 / f.ty.size) + p) 0)).headD 0
       ∃ t tm', exec .matrixOpComplete s = .next t ∧ t.mem = s1.mem ∧ t.team? m.ctx m.tlin = some tm' ∧
         (∀ q k, (q, k) ≠ (m.quad, n) → tm'.tile q k = tm.tile q k) ∧
         (∀ i j, i < 16 → j < 16 → (tm'.tile m.quad n).get i j = mmaCell f.ty f.bty (x.get i j) ((List.range (kbOf f.ty)).map (fragElem f.ty a i))
           ((List.range (kbOf f.ty)).map (fragElem f.bty m.b j)) (c.sa.getD i 0x3F800000) (m.sb.getD 0x3F800000)) ∧
         (c.oob = true → ∀ g id, s.group? id = some g → g.ops.any (fun o => o.op == m.op) = true → ∃ h, t.group? id = some h ∧ h.mstat.getLsbD 0 = true))) ∧
  (∀ (s s1 : State) (ctx : Nat) (t : Ty) (rc : Rcd) (c : Gather), c.units = [] →
     (∀ v, s.convStep ctx t rc (.const v) c = (.ok { c with pos := c.pos + 1, elems := c.elems ++ [v] }, s)) ∧
     (∀ o, rc.strict = false → s.convStep ctx t rc (.oob o) c = (.ok { c with pos := c.pos + 1, elems := c.elems ++ [zeroCode t], oob := true }, s)) ∧
     (∀ o, rc.strict = true → s.convStep ctx t rc (.oob o) c = (.error (.error 0x08 ((rc.base + o) % 2 ^ 64) 0), s)) ∧
     (∀ o key p, s.translate ctx true .read ((rc.base + rc.swizzle o) % 2 ^ 64) = (.ok key p, s1) → s1.poisoned key t.size = none →
       (pteFmt p = t.code ∧ geomOk false t (pteGeom p) = true →
         ∃ d, s.convStep ctx t rc (.elem o) c = (.ok d, s1) ∧ d.elems = c.elems ++ [readLE s1.mem key t.size] ∧ d.oob = c.oob ∧ pteGeom p ∈ d.geoms) ∧
       (pteFmt p ≠ t.code ∨ geomOk false t (pteGeom p) = false →
         ∃ d, s.convStep ctx t rc (.elem o) c = (.error (.error 0x0A ((rc.base + rc.swizzle o) % 2 ^ 64) d), s1))))

/-! ### Copies -/

/-- CPY, CPYG and CPYS (R273 to R279), where the copy's record, its ends and its barrier pass the checks of R278: the copy stands last among
the copies in progress with the rows of R276 and R279, counted on CPY, and no byte of memory has changed; an empty active set issues
nothing (R275).
The record of a copy in progress and its number are the model's (log entries 6 and 38).
COMPLETION: it concludes that exec answers a next state (exec i s = .next t), from premises on the state and the operands
alone, for the constructors cpy, cpyg, cpys. -/
def Obligations.CopiesAreQueued : Prop :=
  ∀ (s : State) (id : Nat) (g : Group) (f : LF) (i : Instr) (list : Option Bool), Issues s (.group id) g → i.wf = true → g.results = [] →
    (i = .cpy f ∧ list = none ∨ i = .cpyg f ∧ list = some false ∨ i = .cpys f ∧ list = some true) →
    let r := s.rd g
    let lanes := activeLanes f s g
    let b := r.sregs 2 f.sb 6
    let x := Box.of b
    let dst := s.copyEnd g r 8 (f.mod.toNat % 4) f.dst
    let src := s.copyEnd g r 12 (f.mod.toNat / 4) f.sa
    let n := if list.isSome then lanes.length else x.y * x.z
    let entry := fun k => let l := (lanes.getD k 0); signed 64 (((g.laneAt l).getV (vnum f.sc)).toNat + 2 ^ 32 * ((g.laneAt l).getV (vnum f.sc + 1)).toNat)
    let so : Nat → Int := fun k => match list with
      | none => x.soff + (k / x.y) * x.spp + (k % x.y) * x.srp
      | some sc => if sc then x.soff + k * x.srp else x.soff + entry k
    let dof : Nat → Int := fun k => match list with
      | none => x.doff + (k / x.y) * x.dpp + (k % x.y) * x.drp
      | some sc => if sc then x.doff + entry k else x.doff + k * x.drp
    let within := fun (e : CopyEnd) (o : Nat → Int) => ∀ k, k < n → 0 ≤ o k ∧ o k + x.x ≤ e.size
    (lanes = [] → ∃ t, exec i s = .next t ∧ PutEffect s (.group id) g .zero 0 f.sw s.cur.next t) ∧
    (lanes ≠ [] → g.counter 5 < 63 → boxOk b (f.ext == 1) list.isSome = true →
      (dst.space = 0 → dst.rcd.valid 0 = true) → (src.space = 0 → src.rcd.valid 0 = true) →
      (dst.strict = true → within dst dof) → (src.strict = true → within src so) → (f.ext = 1 → s.barReady g x.bar = true) →
      ∃ t h c, exec i s = .next t ∧ t.group? id = some h ∧ t.copies = s.copies ++ [c] ∧ c.op = s.nextNum ∧ t.nextNum = s.nextNum + 1 ∧
        c.ctx = g.ctx ∧ c.tlin = g.tlin ∧ c.core = g.core ∧ c.rows = n ∧ c.x = x.x ∧ c.dst = dst ∧ c.src = src ∧
        c.bar = (if f.ext = 1 then some x.bar else none) ∧ c.done = [] ∧ c.wait = none ∧ c.lost = none ∧
        (∀ k, k < n → c.row k = (so k, dof k)) ∧
        h.ops = g.ops ++ [{ path := 5, op := s.nextNum, lanes := g.live }] ∧ h.seqCpy = g.seqCpy + 1 ∧ h.pc = s.cur.next ∧
        h.sregs = g.sregs ∧ h.lanes = g.lanes ∧ h.results = [] ∧ h.gmode = g.gmode ∧ h.fstat = g.fstat ∧
        (within dst dof ∧ within src so → h.mstat = g.mstat) ∧ (¬(within dst dof ∧ within src so) → h.mstat = g.mstat ||| 1) ∧
        t.mem = s.mem ∧ t.teams = s.teams)

/-! ### Barriers -/

/-- BARINIT, BAREXP, BARARR, BARWAIT and BARTEST (R283 to R286, R288, R289) on a barrier of the group's team: the fields they write, what they
return, and the release of a phase, with the groups that it wakes.
The premise that group numbers are distinct is about the model's own numbers (log entry 38).
COMPLETION: it concludes that exec answers a next state (exec i s = .next t), from premises on the state and the operands
alone, for the constructors barinit, barexp, bararr, barwait, bartest. -/
def Obligations.BarrierOperations : Prop :=
  ∀ (s : State) (id : Nat) (g : Group) (f : LF) (tm : Team), Issues s (.group id) g → g.results = [] → Distinct s → s.teamOf g = some tm → Prompt s g.ctx →
    let r := s.rd g
    let n := r.barNum f.sa
    let b := tm.bar n
    let x := (r.uni 1 f.lit f.sb)
    let tx : Int := b.tx + x.toNat
    let released : Bar := { b with lstat := 1 + 2 * bit b.err + 4 * bit b.ovr, gen := (b.gen + 1) % 64, pend := b.cnt, tx := 0
                                   err := false, ovr := false, pval := false, pay := 0, pays := [], outs := b.ends b.pay, ops := []
                                   past := if s.late.isEmpty then [] else b.past ++ b.ops }
    n < tm.bcnt → n < 64 →
    ((Instr.barinit f).wf = true → 1 ≤ x.toNat → x.toNat ≤ 1023 →
      ∃ t, exec (.barinit f) s = .next t ∧ BarDone s id g [] t ∧ WokenAt s id g n b.gen 0x09 0 t ∧
        BarIs tm n { b with gen := (b.gen + 1) % 64, cnt := x.toNat, pend := x.toNat, tx := 0, err := false, ovr := false, pval := false, pay := 0, pays := [], outs := b.ends 0 } g t) ∧
    (b.cnt ≠ 0 →
      ((Instr.barexp f).wf = true → x.toNat < 2 ^ 32 → tx < 2 ^ 39 → b.pend ≠ 0 ∨ tx ≠ 0 →
        ∃ t, exec (.barexp f) s = .next t ∧ BarDone s id g [] t ∧ BarIs tm n { b with tx := tx } g t) ∧
      ((Instr.bararr f).wf = true → x.toNat < 2 ^ 32 → tx < 2 ^ 39 → g.lsZero = true →
        ∃ t, exec (.bararr f) s = .next t ∧ BarDone s id g (sResult f.dst (BitVec.ofNat 64 b.gen)) t ∧
          (2 ≤ b.pend ∨ b.pend = 1 ∧ tx ≠ 0 → BarIs tm n { b with tx := tx, pend := b.pend - 1 } g t) ∧
          (b.pend = 0 → tx ≠ 0 → BarIs tm n { b with tx := tx, ovr := true } g t) ∧
          (b.pend = 1 → tx = 0 → BarIs tm n released g t ∧ WokenAt s id g n b.gen released.lstat b.pay t)) ∧
      ((Instr.barwait f).wf = true →
        (b.gen ≠ x.toNat % 64 → ∃ t, exec (.barwait f) s = .next t ∧
          SEffect s (.group id) g f (BitVec.ofNat 64 (b.lstat + x.toNat % 64 * 256)) [] false t) ∧
        (b.gen = x.toNat % 64 → ∃ t, exec (.barwait f) s = .next t ∧ Parks s (.group id) g (.barwait n b.gen f.dst) t)) ∧
      ((Instr.bartest f).wf = true → ∃ t, exec (.bartest f) s = .next t ∧
        SEffect s (.group id) g f (if b.gen = x.toNat % 64 then 0 else BitVec.ofNat 64 (b.lstat + x.toNat % 64 * 256)) [] false t))

/-- BARPAY, TEAMBAR and PHASE (R287, R300 to R304): BARPAY adds its payload and waits, or releases the phase with the payload of all;
TEAMBAR waits for the last group of the team; PHASE leaves residency with its carry set, or waits resident when the core's
reserve has no room.
The premise that group numbers are distinct is about the model's own numbers (log entry 38).
COMPLETION: it concludes that exec answers a next state (exec i s = .next t), from premises on the state and the operands
alone, for the constructors barpay, phase, teambar. -/
def Obligations.PayloadTeamBarrierAndPhase : Prop :=
  ∀ (s : State) (id : Nat) (g : Group) (f : LF) (tm : Team), Issues s (.group id) g → g.results = [] → Distinct s → s.teamOf g = some tm → Prompt s g.ctx →
    g.lsZero = true →
    let r := s.rd g
    let n := r.barNum f.sa
    let b := tm.bar n
    let x := r.uni 1 f.lit f.sb
    (n < tm.bcnt → n < 64 → b.cnt ≠ 0 → (Instr.barpay f).wf = true →
      let op := if b.pval then b.pop else f.ext.toNat
      let pay : W64 := if !b.pval then x
        else if op = 0 then b.pay + x else if op = 2 then (if b.pay.toInt < x.toInt then b.pay else x)
        else if op = 3 then (if b.pay.toInt < x.toInt then x else b.pay) else if op = 4 then b.pay &&& x else b.pay ||| x
      op ≠ 1 →
      (2 ≤ b.pend ∨ b.pend = 1 ∧ b.tx ≠ 0 → ∃ t, exec (.barpay f) s = .next t ∧ Parks s (.group id) g (.barpay n b.gen f.dst) t ∧
        BarIs tm n { b with pend := b.pend - 1, pval := true, pop := op, pay := pay, pays := b.pays ++ [(g.home, x)] } g t) ∧
      (b.pend = 1 → b.tx = 0 → ∃ t, exec (.barpay f) s = .next t ∧ BarDone s id g (sResult f.dst pay) t ∧
        WokenAt s id g n b.gen (1 + 2 * bit b.err + 4 * bit b.ovr) pay t)) ∧
    ((Instr.teambar f).wf = true →
      (tm.phases ≠ [] ∨ (∃ w ∈ s.groups, w.id ≠ id ∧ w.ctx = g.ctx ∧ w.tlin = g.tlin ∧ w.park ≠ .teambar) →
        ∃ t, exec (.teambar f) s = .next t ∧ Parks s (.group id) g .teambar t) ∧
      (tm.phases = [] → (∀ w ∈ s.groups, w.id ≠ id → w.ctx = g.ctx → w.tlin = g.tlin → w.park = .teambar ∧ w.rest = none) →
        ∃ t, exec (.teambar f) s = .next t ∧ BarDone s id g [] t ∧
          ∀ w ∈ s.groups, w.id ≠ id → w.ctx = g.ctx → w.tlin = g.tlin → Resumed w [] t)) ∧
    (∀ s', TargetOk s (.group id) (g.pc.setWidth 64 + (f.lit.getD 0).signExtend 64) s' → (Instr.phase f).wf = true →
      n < tm.bcnt → n < 64 → 2 ≤ b.pend → b.cnt ≠ 0 →
      let label := (g.pc.setWidth 64 + (f.lit.getD 0).signExtend 64).setWidth 57
      let size := phaseSize g.width x (f.mod == 1)
      let room := size ≤ s'.reserveFree g.core ∧ tm.freeSlot < 64
      (room → ∃ t u p, exec (.phase f) s = .next t ∧ t.group? id = none ∧ (∀ w ∈ s.groups, w.id ≠ id → w ∈ t.groups) ∧
        t.team? g.ctx g.tlin = some u ∧ u.phases = tm.phases ++ [p] ∧ p.grp.pc = label ∧ p.grp.lanes = g.lanes ∧ p.grp.sregs = g.sregs ∧
        p.carry = x ∧ p.q = (f.mod == 1) ∧ p.bar = n ∧ p.gen = b.gen ∧ p.ended = none ∧ u.bar n = { b with pend := b.pend - 1 }) ∧
      (¬room → ∃ t, exec (.phase f) s = .next t ∧ Parks s' (.group id) g (.phase n b.gen label x (f.mod == 1)) t ∧
        BarIs tm n { b with pend := b.pend - 1 } g t))

/-! ### Futures, semaphores and rings -/

/-- FWAIT, FFILL and FCLR (R290 to R293) on a cell that the group may access: FFILL writes the value and the full bit and wakes the cell's
waiters with the value, also where the cell was full; FWAIT takes the value of a full cell and waits for an empty one; FCLR empties it. Each returns what its rule says.
The premise that group numbers are distinct is about the model's own numbers (log entry 38).
COMPLETION: it concludes that exec answers a next state (exec i s = .next t), from premises on the state and the operands
alone, for the constructors fwait, ffill, fclr. -/
def Obligations.FutureOperations : Prop :=
  ∀ (s : State) (id : Nat) (g : Group) (f : LF) (key off : Nat), Issues s (.group id) g → g.results = [] → Sound s → Distinct s → Unwatched s g → Prompt s g.ctx →
    g.counter (futPath f) < 63 → s.cell (.group id) g f (s.rd g) = .at_ key off →
    let full := readLE s.mem (key + 8) 8 % 2
    let x := (s.rd g).uni 2 f.lit f.sc
    let sw := fun (d : Spec) (v : W64) => match d with
      | .s n => [Write.s n.val v]
      | _ => []
    let res := fun (v : W64) => [({ writes := sw f.dst v, op := some s.nextNum } : Res)]
    ((Instr.fwait f).wf = true →
      (full = 1 → ∃ t, exec (.fwait f) s = .next t ∧ t.mem = s.mem ∧ Counted s (.group id) g f (futPath f) (res (BitVec.ofNat 64 (readLE s.mem key 8))) t) ∧
      (full = 0 → ∃ t, exec (.fwait f) s = .next t ∧ Parks s (.group id) g (.fwait key (futPath f) f.dst) t)) ∧
    ((Instr.ffill f).wf = true → ∃ t h, exec (.ffill f) s = .next t ∧ readLE t.mem key 8 = x.toNat ∧ Wrote s.mem key 16 (x.toNat + 2 ^ 64) t ∧
      t.group? id = some h ∧ h.pc = s.cur.next ∧ h.sregs = g.sregs ∧ h.lanes = g.lanes ∧ h.results = res (BitVec.ofNat 64 full) ∧
      ∀ w ∈ s.groups, w.id ≠ id → w.rest = none → w.watched = none → w.raced = none → ∀ path d, w.park = .fwait key path d →
        ∃ u k, t.group? w.id = some u ∧ u.pc = w.pnext ∧ u.sregs = w.sregs ∧ u.lanes = w.lanes ∧
          u.results = w.results ++ [{ writes := sw d x, op := some k }]) ∧
    ((Instr.fclr f).wf = true → ∃ t, exec (.fclr f) s = .next t ∧ Wrote s.mem (key + 8) 8 0 t ∧
      Counted s (.group id) g f (futPath f) (res (BitVec.ofNat 64 full)) t)

/-- SEMSIG adds to its counter and returns the old value; SEMWAIT subtracts and then fences, when it is alone and the counter suffices, and
registers as a waiter otherwise (R294, R295, R315); a waiter of a context that is not stopped is tested again as at issue; its timeout is told once (R296).
The list of waiters and their numbers, and that an event whose condition does not hold answers the same state, are the model's (log entries 20 and 38).
COMPLETION: it concludes that exec answers a next state (exec i s = .next t), from premises on the state and the operands
alone, for the constructors semsig, semwait, semaphoreReevaluation, semaphoreWaitTimeout. -/
def Obligations.SemaphoreResults : Prop :=
  (∀ (s s1 : State) (a : Agent) (g : Group) (f : LF) (p : Piece), Issues s a g → g.results = [] → Sound s1 → Unwatched s g → g.counter 1 < 63 →
    let r := s.rd g
    let x := r.uni 2 f.lit f.sc
    let o := dispOf f + r.offX f 0
    let old := readLE s1.mem p.key 8
    ((Instr.semsig f).wf = true → g.lsZero = true → s.spot a g (r.rcd f.sa) .atomic o 8 true = .at_ p s1 →
      ∃ t, exec (.semsig f) s = .next t ∧ Wrote s1.mem p.key 8 ((old + x.toNat) % 2 ^ 64) t ∧
        Counted s a g f 1 (sResult f.dst (BitVec.ofNat 64 old) (some s.nextNum)) t) ∧
    (∀ id, a = .group id → (Instr.semwait f).wf = true → s.spot a g (r.rcd f.sa) .atomic o 8 false = .at_ p s1 →
      ((∀ w ∈ s.waiters, w.key ≠ p.key) → x.toNat ≤ old →
        ∃ t h, exec (.semwait f) s = .next t ∧ Wrote s1.mem p.key 8 (old - x.toNat) t ∧ t.waiters = s.waiters ∧
          t.group? id = some h ∧ h.park = .fence f.ext.toNat false ∧ h.pnext = s.cur.next ∧ h.pc = g.pc ∧ h.sregs = g.sregs ∧ h.lanes = g.lanes ∧
          h.results = sResult f.dst (BitVec.ofNat 64 old) (some s.nextNum)) ∧
      ((∃ w ∈ s.waiters, w.key = p.key) ∨ old < x.toNat →
        ∃ t w, exec (.semwait f) s = .next t ∧ Parks s1 a g (.semwait f.dst) t ∧ t.waiters = s.waiters ++ [w] ∧ w.gid = some id ∧
          w.key = p.key ∧ w.va = p.va ∧ w.n = x ∧ w.scope = f.ext.toNat ∧ w.since = s.time ∧ w.limit = (s.col g.ridge).rsemto.toNat))) ∧
  (∀ (s s1 : State) (id : Nat) (g : Group) (w : Waiter) (d : Spec) (key : Nat) (e : W64), s.ev = .nat w.order →
    s.waiters.find? (fun x => x.order == w.order) = some w → w.gid = some id → w.ring = false → s.group? id = some g → g.park = .semwait d →
    (∀ c, s.ctx? g.ctx = some c → c.stop ≠ .stopped) → g.rest = none → g.lsZero = true → Sound s1 → Unwatched s g → s.trans (.group id) .atomic w.va = (.ok key e, s1) →
    let old := readLE s1.mem key 8
    ((∀ x ∈ s.waiters, x.key = key → x.before w = false) → w.n.toNat ≤ old →
      ∃ t, exec .semaphoreReevaluation s = .next t ∧ Wrote s1.mem key 8 (old - w.n.toNat) t ∧ Resumed g (sResult d (BitVec.ofNat 64 old)) t ∧
        ∀ x ∈ t.waiters, x.order ≠ w.order) ∧
    (old < w.n.toNat → exec .semaphoreReevaluation s = .next s)) ∧
  (∀ (s : State) (w : Waiter), s.ev = .nat w.order → s.waiters.find? (fun x => x.order == w.order) = some w →
    (w.ring = false → w.told = false → w.limit ≠ 0 → w.since + 16 * w.limit ≤ s.time →
      ∃ t, exec .semaphoreWaitTimeout s = .next t ∧ t.groups = s.groups ∧ t.teams = s.teams ∧
        t.waiters = s.waiters.map fun x => if x.order = w.order then { x with told := true } else x) ∧
    (w.told = true ∨ w.limit = 0 ∨ s.time < w.since + 16 * w.limit → exec .semaphoreWaitTimeout s = .next s))

/-- RNGRES reserves k entries of a ring, or consumes k of them, when it can, and returns the first index, with bit 63 set when it cannot;
RNGPUB sets the phase bit of a slot (R297 to R299).
COMPLETION: it concludes that exec answers a next state (exec i s = .next t), from premises on the state and the operands
alone, for the constructors rngres, rngpub. -/
def Obligations.RingResults : Prop :=
  ∀ (s s1 : State) (a : Agent) (g : Group) (f : LF) (p : Piece), Issues s a g → g.results = [] → Sound s1 → Unwatched s g → g.counter 1 < 63 →
    let r := s.rd g
    let x := r.uni 2 f.lit f.sc
    let o := dispOf f + r.offX f 0
    let res := readLE s1.mem p.key 4
    let con := readLE s1.mem (p.key + 4) 4
    let logn := readLE s1.mem (p.key + 8) 4
    let logs := readLE s1.mem (p.key + 12) 4
    let used := (res + 2 ^ 32 - con) % 2 ^ 32
    logn ≤ 16 → 4 ≤ logs → logs ≤ 12 →
    ((Instr.rngres f).wf = true → 1 ≤ x.toNat → x.toNat ≤ 65536 → s.spot a g (r.rcd f.sa) .atomic o 16 false = .at_ p s1 →
      (f.mod = 0 →
        (used + x.toNat ≤ 2 ^ logn → ∃ t, exec (.rngres f) s = .next t ∧ Wrote s1.mem p.key 4 ((res + x.toNat) % 2 ^ 32) t ∧
          Counted s a g f 1 (sResult f.dst (BitVec.ofNat 64 res) (some s.nextNum)) t) ∧
        (2 ^ logn < used + x.toNat → ∃ t, exec (.rngres f) s = .next t ∧ t.mem = s1.mem ∧
          Counted s a g f 1 (sResult f.dst (BitVec.ofNat 64 (res + 2 ^ 63)) (some s.nextNum)) t)) ∧
      (f.mod = 1 →
        (x.toNat ≤ used → ∃ t, exec (.rngres f) s = .next t ∧ Wrote s1.mem (p.key + 4) 4 ((con + x.toNat) % 2 ^ 32) t ∧
          Counted s a g f 1 (sResult f.dst (BitVec.ofNat 64 con) (some s.nextNum)) t) ∧
        (used < x.toNat → ∃ t, exec (.rngres f) s = .next t ∧ t.mem = s1.mem ∧
          Counted s a g f 1 (sResult f.dst (BitVec.ofNat 64 (con + 2 ^ 63)) (some s.nextNum)) t))) ∧
    (∀ q s2, (Instr.rngpub f).wf = true → s.spot a g (r.rcd f.sa) .read o 16 false = .at_ p s1 →
      let i : Nat := x.toNat % 2 ^ 32
      s1.spot a g (r.rcd f.sa) .atomic (o + ((128 + i % 2 ^ logn * 2 ^ logs : Nat) : Int)) 4 false = .at_ q s2 → Sound s2 →
      ∃ t, exec (.rngpub f) s = .next t ∧ Wrote s2.mem q.key 4 (readLE s2.mem q.key 4 / 2 * 2 + i / 2 ^ logn % 2) t ∧
        Counted s a g f 1 [] t)

/-! ### The service engine -/

/-- SYSRD and SYSWR (R313 to R315, R318): what a register reads as, that what a col writes is what reads back, the privilege fault of a
group that names a bank above its own, and the system-register fault of a value that is refused.
The banks .team, .grp, .ctx and .dbg (R313 to R318, R396), which a col reads and writes by handle: the registers of the team, group, context
or core that the handle names read as what it holds, and read back what is written but for the bits that are reserved, with everything else as it was; a write
to a group that may run, to a context that holds cores, of a window outside the allocation, of a value out of range, and any access
by a handle that names nothing take the system-register fault.
COMPLETION: it concludes that exec answers a next state (exec i s = .next t), from premises on the state and the operands
alone, for the constructors sysrd, syswr, evring. -/
def Obligations.SystemRegisterAccess : Prop :=
  (∀ (s : State) (a : Agent) (g : Group) (f : LF), Issues s a g → g.results = [] →
     let r := s.rd g
     let bank := f.ext.toNat
     let i := (r.uni 1 f.lit f.sb).toNat % 2 ^ 32
     let x := r.uni 0 f.lit f.sa
     assigned bank i = true →
     ((Instr.sysrd f).wf = true → f.sc = .zero →
       (bank = 0 → ∃ v t, exec (.sysrd f) s = .next t ∧ SEffect s a g f v [] false t ∧ (i = 0 → v = s.mod.modid) ∧
         (i = 1 → v = BitVec.ofNat 64 (s.ctxOf a)) ∧ (i = 2 → v = BitVec.ofNat 64 s.time)) ∧
       (∀ n, a = .col n → bank = 1 → 1 ≤ i → i ≤ 7 → ∃ t, exec (.sysrd f) s = .next t ∧ SEffect s a g f ((s.col n).reg i) [] false t) ∧
       (∀ n, a = .col n → bank = 2 → ∃ t, exec (.sysrd f) s = .next t ∧ SEffect s a g f (s.ridgeReg n i) [] false t)) ∧
     (∀ id, a = .group id → bank ≠ 0 → (Instr.sysrd f).wf = true → RecRoom s g.ridge → ∃ t, exec (.sysrd f) s = .next t ∧ Faults s id g 0x02 g.allLanes t) ∧
     (∀ n, a = .col n → (Instr.syswr f).wf = true → f.sc = .zero →
       let written := fun (t : State) => AgPut s (.col n) g .zero 0 t ∧ (∀ m, m ≠ n → t.col m = s.col m) ∧ t.mem = s.mem ∧ t.groups = s.groups ∧ t.teams = s.teams
       (bank = 1 → 1 ≤ i → i ≤ 6 → ∃ t, exec (.syswr f) s = .next t ∧ written t ∧ (t.col n).reg i = x ∧ (t.col n).cstat = (s.col n).cstat) ∧
       (bank = 1 → i = 0 → ∃ t, exec (.syswr f) s = .next t ∧ written t ∧ (t.col n).ie = x.getLsbD 0 ∧ (t.col n).priv = (s.col n).priv) ∧
       (bank = 2 → i = 0x41 ∨ i = 0x43 ∨ i = 0x44 ∨ i = 0x42 ∧ 10000 ≤ x.toNat % 2 ^ 48 →
         ∃ t, exec (.syswr f) s = .next t ∧ written t ∧ (t.ridgeReg n i).toNat = x.toNat % 2 ^ 48) ∧
       (bank = 2 → 0x50 ≤ i → i ≤ 0xBF → ∃ t, exec (.syswr f) s = .next t ∧ written t ∧ t.ridgeReg n i = x) ∧
       (bank = 2 → i = 0x42 → x.toNat % 2 ^ 48 < 10000 → HandlerReady s n → ∃ t, exec (.syswr f) s = .next t ∧ EntersHandler s n (g.pc.setWidth 64) 0x0E t) ∧
       (bank = 6 → (s.col n).priv = .monitor → i ≤ 3 ∨ i = 0x10 → ∃ t, exec (.syswr f) s = .next t ∧ written t ∧ t.monReg n i = x))) ∧
  (∀ (s : State) (n : Nat) (g : Group) (f : LF), Issues s (.col n) g → g.results = [] → f.sc ≠ .zero →
     let r := s.rd g
     let bank := f.ext.toNat
     let i := (r.uni 1 f.lit f.sb).toNat % 2 ^ 32
     let h := Hnd.of (r.uni 2 f.lit f.sc)
     let x := r.uni 0 f.lit f.sa
     let reads := fun (v : W64) => (Instr.sysrd f).wf = true → ∃ t, exec (.sysrd f) s = .next t ∧ SEffect s (.col n) g f v [] false t
     let writes := fun (p : State → Prop) => (Instr.syswr f).wf = true → ∃ t, exec (.syswr f) s = .next t ∧ AgPut s (.col n) g .zero 0 t ∧ t.mem = s.mem ∧ p t
     let refused := fun (j : Instr) => j.wf = true → HandlerReady s n → ∃ t, exec j s = .next t ∧ EntersHandler s n (g.pc.setWidth 64) 0x0E t
     assigned bank i = true →
     (∀ tm, bank = 3 → s.findTeam n h = some tm → s.team? tm.ctx tm.tlin = some tm →
       (i < 0x10 → reads (BitVec.ofNat 64 ((tm.window (i / 2)).toNat / 2 ^ (64 * (i % 2))))) ∧
       (∀ k, k < 64 → (i = 0x10 + 3 * k → reads (tm.barriers.getD k {}).w0) ∧ (i = 0x11 + 3 * k → reads (tm.barriers.getD k {}).w1) ∧
         (i = 0x12 + 3 * k → reads (tm.barriers.getD k {}).w2)) ∧
       (i = 0xD0 → reads (BitVec.ofNat 64 (tm.tcnt + 256 * tm.bcnt))) ∧
       (s.teamWritable tm = false → i < 0xD0 → refused (.syswr f)) ∧
       (s.teamWritable tm = true →
         (∀ w : BitVec 128, i < 0x10 → (∀ k, k < 128 → w.getLsbD k = (winMask.getLsbD k && if k / 64 = i % 2 then x.getLsbD (k % 64) else (tm.window (i / 2)).getLsbD k)) →
           (tm.winOk w = true → writes fun t => t.groups = s.groups ∧ ∃ u, t.team? tm.ctx tm.tlin = some u ∧ u.barriers = tm.barriers ∧
             ∀ k, k < 8 → u.window k = if k = i / 2 then w else tm.window k) ∧
           (tm.winOk w = false → refused (.syswr f))) ∧
         (0x10 ≤ i → i < 0xD0 → writes fun t => t.groups = s.groups ∧ ∃ u, t.team? tm.ctx tm.tlin = some u ∧ u.windows = tm.windows ∧
           ∀ k, k < 64 → let b := u.barriers.getD k {}; let o := tm.barriers.getD k {}
             b.w0 = (if i = 0x10 + 3 * k then x &&& 0x0000FF7EFFFF03FF else o.w0) ∧ b.w1 = (if i = 0x11 + 3 * k then x &&& 0xFFFFFFFFFF else o.w1) ∧
             b.w2 = (if i = 0x12 + 3 * k then x else o.w2)))) ∧
     (∀ q, bank = 4 → s.findGroup n h = some (.res q) → s.group? q.id = some q → q.results = [] →
       (i = 0 → reads (q.pc.setWidth 64)) ∧ (i = 1 → reads (q.gmode.setWidth 64)) ∧ (i = 2 → reads (q.fstat.setWidth 64)) ∧
       (i = 3 → reads (q.mstat.setWidth 64)) ∧ (i = 4 → reads (q.fctl.setWidth 64)) ∧ (i = 6 → reads q.mask) ∧ (i = 7 → reads q.srSeed) ∧ (i = 8 → reads q.srCtr) ∧
       (i = 10 → reads (q.pri.setWidth 64)) ∧ (i = 5 → reads (BitVec.ofNat 64 (q.park.code + 256 * bit q.halted.isSome))) ∧
       (0x20 ≤ i → i < 0x40 → reads (q.getS (i - 0x20))) ∧
       (h.lane < q.width → 0x100 ≤ i → i < 0x140 → reads (((q.laneAt h.lane).getV (i - 0x100)).setWidth 64)) ∧
       (h.lane < q.width → 0x140 ≤ i → i < 0x150 → reads (((q.laneAt h.lane).q.getD (i - 0x140) 0).setWidth 64)) ∧
       (q.width ≤ h.lane → 0x100 ≤ i → refused (.sysrd f) ∧ refused (.syswr f)) ∧
       (s.writable q = false → refused (.syswr f)) ∧
       (s.writable q = true → (i < 0x100 ∨ h.lane < q.width) → writes fun t => t.teams = s.teams ∧ ∃ u, t.group? q.id = some u ∧
         u.pc = (if i = 0 then pcOf x else q.pc) ∧ u.gmode = (if i = 1 then x.setWidth 32 &&& 0x1FFFF else q.gmode) ∧
         u.fstat = (if i = 2 then x.setWidth 32 &&& 0x3F else q.fstat) ∧ u.mstat = (if i = 3 then x.setWidth 32 &&& 1 else q.mstat) ∧
         u.fctl = (if i = 4 then x.setWidth 32 &&& 0xFFFFF else q.fctl) ∧ u.mask = (if i = 6 then x else q.mask) ∧ u.srSeed = (if i = 7 then x else q.srSeed) ∧
         u.srCtr = (if i = 8 then x else q.srCtr) ∧ u.pri = (if i = 10 then x.setWidth 3 else q.pri) ∧ u.park = q.park ∧ u.halted = q.halted ∧
         (∀ k : Fin 32, u.getS k.val = if i = 0x20 + k.val then x else q.getS k.val) ∧
         ∀ l, l < q.width → (∀ k : Fin 64, (u.laneAt l).getV k.val = if l = h.lane ∧ i = 0x100 + k.val then x.setWidth 32 else (q.laneAt l).getV k.val) ∧
           ∀ k : Fin 16, (u.laneAt l).q.getD k.val 0 = if l = h.lane ∧ i = 0x140 + k.val then x.setWidth 32 else (q.laneAt l).q.getD k.val 0)) ∧
     (bank = 5 → h.isCtx = true →
       let c := s.ctxD h.ctx
       (i = 0 → reads c.croot) ∧ (i = 1 → reads c.pbase) ∧ (i = 2 → reads c.psize) ∧ (i = 3 → reads c.ksize) ∧ (i = 4 → reads c.clevel) ∧
       (i = 6 → reads (BitVec.ofNat 64 (match c.stop with | .none => 0 | .stopped => 2 | _ => 1))) ∧ (i = 7 → reads c.evring) ∧ (i = 8 → reads c.cflags) ∧
       (i = 9 → reads (BitVec.ofNat 64 c.chome)) ∧
       (i ≠ 5 → s.holdsCores h.ctx = true → refused (.syswr f)) ∧ (i = 5 → x = 0 ∨ 4 < x.toNat → refused (.syswr f)) ∧
       (i ≠ 3 → i ≠ 5 → s.holdsCores h.ctx = false → writes fun t => t.groups = s.groups ∧ t.teams = s.teams ∧
         (t.ctxD h.ctx).croot = (if i = 0 then x else c.croot) ∧ (t.ctxD h.ctx).pbase = (if i = 1 then x else c.pbase) ∧
         (t.ctxD h.ctx).psize = (if i = 2 then x else c.psize) ∧ (t.ctxD h.ctx).ksize = c.ksize ∧
         (t.ctxD h.ctx).clevel = (if i = 4 then x &&& 31 else c.clevel) ∧ (t.ctxD h.ctx).evring = (if i = 7 then x else c.evring) ∧
         (t.ctxD h.ctx).cflags = (if i = 8 then x &&& 3 else c.cflags) ∧ (t.ctxD h.ctx).chome = (if i = 9 then x.toNat % 2 ^ 16 else c.chome) ∧
         ∀ k, k ≠ h.ctx → t.ctx? k = s.ctx? k)) ∧
     (bank = 5 → h.isCtx = false → refused (.sysrd f) ∧ refused (.syswr f)) ∧
     (∀ tm, bank = 7 → i ≤ 9 → s.findTeam n h = some tm →
       let d := s.dbg tm.core
       (i < 4 → reads (d.pcbrk.getD i 0)) ∧ (i = 4 ∨ i = 5 → reads (d.waddr.getD (i - 4) 0)) ∧ (i = 6 ∨ i = 7 → reads (d.wctl.getD (i - 6) 0)) ∧
       (i = 8 → reads d.dctl) ∧ (i = 9 → reads d.sampint) ∧
       (i < 4 → writes fun t => t.dbg tm.core = { d with pcbrk := (t.dbg tm.core).pcbrk } ∧
         ∀ k, k < 4 → (t.dbg tm.core).pcbrk.getD k 0 = if k = i then x &&& 0x1FFFFFFFFFFFFFD else d.pcbrk.getD k 0) ∧
       (i = 8 → writes fun t => t.dbg tm.core = { d with dctl := x &&& 0x1FFFF }) ∧
       (i = 9 → 4 ≤ x.toNat % 32 → x.toNat % 32 ≤ 24 → writes fun t => t.dbg tm.core = { d with sampint := x &&& 0x11F }) ∧
       (i = 9 → x.toNat % 32 < 4 ∨ 24 < x.toNat % 32 → refused (.syswr f)) ∧
       (i = 4 ∨ i = 5 → (x.toNat % 2 ^ 57) % 2 ^ ((d.wctl.getD (i - 4) 0).toNat / 16 % 8) ≠ 0 → refused (.syswr f))) ∧
     ((bank = 3 ∨ bank = 7 ∧ i ≤ 9) → s.findTeam n h = none → refused (.sysrd f) ∧ refused (.syswr f)) ∧
     (bank = 4 → s.findGroup n h = none → refused (.sysrd f) ∧ refused (.syswr f)))

/-- KEYSEL, TLBINV, IDLE, MSEND and MRECV of a col (R324 to R327, R344).
COMPLETION: it concludes that exec answers a next state (exec i s = .next t), from premises on the state and the operands
alone, for the constructors msend, mrecv, tlbinv, keysel, idle. -/
def Obligations.ColServices : Prop :=
  ∀ (s : State) (n : Nat) (g : Group) (f : LF), Issues s (.col n) g → g.results = [] →
    let r := s.rd g
    let x := r.uni 0 f.lit f.sa
    let k := s.key x.toNat
    ((Instr.keysel f).wf = true →
      (1 ≤ x.toNat → x.toNat ≤ 1023 → k.valid = true →
        (f.ext = 0 → ∃ t, exec (.keysel f) s = .next t ∧ AgPut s (.col n) g f.dst (k.ctr + 1) t ∧ (t.col n).ksel = x.toNat ∧ t.key x.toNat = { k with ctr := k.ctr + 1 }) ∧
        (f.ext = 1 → ∃ t, exec (.keysel f) s = .next t ∧ AgPut s (.col n) g f.dst k.ctr t ∧ (t.col n).ksel = x.toNat ∧ t.keys = s.keys) ∧
        (f.ext = 2 → (s.col n).ksel = x.toNat →
          ∃ t, exec (.keysel f) s = .next t ∧ AgPut s (.col n) g f.dst (k.ctr + 1) t ∧ (t.col n).ksel = x.toNat ∧ t.key x.toNat = { k with ctr := k.ctr + 1 })) ∧
      (x = 0 ∧ (f.ext = 2 → (s.col n).ksel = 0) ∨ x.toNat ≤ 1023 ∧ k.valid = true ∧ f.ext = 3 → ∃ t, exec (.keysel f) s = .next t ∧ AgPut s (.col n) g f.dst 0 t ∧ (t.col n).ksel = 0 ∧ t.keys = s.keys) ∧
      (HandlerReady s n → x.toNat > 1023 ∨ x ≠ 0 ∧ k.valid = false ∨ f.ext = 2 ∧ (s.col n).ksel ≠ x.toNat →
        ∃ t, exec (.keysel f) s = .next t ∧ EntersHandler s n (g.pc.setWidth 64) 0x0E t)) ∧
    ((Instr.tlbinv f).wf = true → s.merges = [] → s.mtx = [] → s.late = [] →
      let ctx := (r.uni 1 f.lit f.sb).toNat % 2 ^ 16
      ∃ t, exec (.tlbinv f) s = .next t ∧ AgPut s (.col n) g .zero 0 t ∧ t.mem = s.mem ∧ ∀ e : TlbEnt, e ∈ t.tlb ↔ e ∈ s.tlb ∧
        (f.ext = 0 → e.ctx ≠ ctx ∨ x.toNat < e.va ∨ e.va + e.size ≤ x.toNat) ∧ (f.ext = 1 → e.ctx ≠ ctx) ∧ f.ext ≠ 2) ∧
    ((Instr.idle f).wf = true →
      ((s.col n).pending = true → ∃ t, exec (.idle f) s = .next t ∧ AgPut s (.col n) g .zero 0 t) ∧
      ((s.col n).pending = false → ∃ t, exec (.idle f) s = .next t ∧ Parks s (.col n) g .idle t)) ∧
    ((Instr.msend f).wf = true → g.lsZero = true →
      let box := (s.col x.toNat).mailbox
      let msg := (List.range 8).map fun j => g.getS (snum f.sb + j)
      (x.toNat ≤ 47 → box.length < 64 → ∃ t w0, exec (.msend f) s = .next t ∧ AgPut s (.col n) g f.dst 0 t ∧ (t.col x.toNat).mailbox = box ++ [w0 :: msg.drop 1] ∧
        w0.toNat = (msg.getD 0 0).toNat % 2 ^ 56 + (128 + n) * 2 ^ 56) ∧
      (x.toNat ≤ 47 → 64 ≤ box.length → ∃ t, exec (.msend f) s = .next t ∧ PutEffect s (.col n) g f.dst 1 f.sw s.cur.next t) ∧
      (47 < x.toNat → ∃ t, exec (.msend f) s = .next t ∧ PutEffect s (.col n) g f.dst 2 f.sw s.cur.next t)) ∧
    ((Instr.mrecv f).wf = true →
      (∀ m rest, (s.col n).mailbox = m :: rest → m.length = 8 → ∃ t h, exec (.mrecv f) s = .next t ∧ t.ag? (.col n) = some h ∧ h.pc = s.cur.next ∧
        (t.col n).mailbox = rest ∧ (∀ j, j < 8 → h.getS (snum f.dst + j) = m.getD j 0) ∧
        ∀ j, j < 32 → j < snum f.dst ∨ snum f.dst + 8 ≤ j → h.getS j = g.getS j) ∧
      ((s.col n).mailbox = [] → f.ext = 1 → ∃ t h, exec (.mrecv f) s = .next t ∧ t.ag? (.col n) = some h ∧ h.pc = s.cur.next ∧
        (∀ j, j < 8 → h.getS (snum f.dst + j) = 0) ∧ ∀ j, j < 32 → j < snum f.dst ∨ snum f.dst + 8 ≤ j → h.getS j = g.getS j) ∧
      ((s.col n).mailbox = [] → f.ext = 0 → ∃ t, exec (.mrecv f) s = .next t ∧ Parks s (.col n) g .mrecv t))

/-- Taking an exception and returning from one (R309 to R312): BRK and a fault of a col's own instruction enter the handler, or the monitor when
IE is clear or the col is at monitor privilege; TRAPC of a col calls the monitor; an event enters the handler; RETX restores what its level saved.
That a double fault leaves CEPC, that RETX at monitor privilege restores the status as saved, and the other points of log entry 33 are readings of the model (log entry 33).
COMPLETION: it concludes that exec answers a next state (exec i s = .next t), from premises on the state and the operands
alone, for the constructors retx, colHandlerEntry. -/
def Obligations.ExceptionEntryAndReturn : Prop :=
  ∀ (s : State) (n : Nat) (g : Group) (f : LF), Issues s (.col n) g → g.results = [] →
    let c := s.col n
    ((Instr.brk f).wf = true → HandlerReady s n → ∃ t, exec (.brk f) s = .next t ∧ EntersHandler s n (s.cur.next.setWidth 64) 0x11 t) ∧
    ((Instr.exit f).wf = true →
      (HandlerReady s n → ∃ t, exec (.exit f) s = .next t ∧ EntersHandler s n (g.pc.setWidth 64) 0x01 t) ∧
      (MonitorReady s n → c.priv = .monitor → ∃ t, exec (.exit f) s = .next t ∧ EntersMonitor s n (g.pc.setWidth 64) 0x01 t ∧ (t.col n).ie = false) ∧
      (MonitorReady s n → c.priv = .service → c.ie = false → ∃ t, exec (.exit f) s = .next t ∧ EntersMonitor s n c.cepc 0x0F t ∧ (t.col n).ie = false)) ∧
    ((Instr.trapc f).wf = true → MonitorReady s n → c.priv = .service → g.lsZero = true → activeLanes f s g ≠ [] →
      ∃ t k, exec (.trapc f) s = .next t ∧ EntersMonitor s n (s.cur.next.setWidth 64) 0 t ∧ (t.col n).ie = c.ie ∧ (t.col n).call = some k ∧ k.dst = f.dst ∧
        k.num :: k.args = (List.range (f.ext.toNat + 1)).map fun j => (g.laneAt 0).getV (vnum f.sa + j)) ∧
    ((Instr.retx f).wf = true →
      (c.priv = .service → c.cstat.extractLsb' 2 2 = 1 → ∃ t, exec (.retx f) s = .next t ∧ (t.col n).g.pc = pcOf c.cepc ∧
        (t.col n).ie = c.cstat.getLsbD 4 ∧ (∀ k, 1 ≤ k → (t.col n).cstat.getLsbD k = c.cstat.getLsbD k) ∧ (t.col n).g.sregs = g.sregs ∧ t.mem = s.mem) ∧
      (c.priv = .monitor → ∃ t, exec (.retx f) s = .next t ∧ (t.col n).g.pc = pcOf c.mepc ∧ (t.col n).ie = c.msave.getLsbD 0 ∧
        ((t.col n).priv = .monitor ↔ c.msave.extractLsb' 8 2 = 2) ∧ (t.col n).call = none ∧ (t.col n).g.sregs = g.sregs ∧ t.mem = s.mem)) ∧
    (s.ev = .nat n → HandlerReady s n → c.run = .running → g.park = .ready → (c.ev = true ∨ c.mailbox ≠ [] ∨ c.tm = true) →
      ∃ t, exec .colHandlerEntry s = .next t ∧ EntersHandler s n (g.pc.setWidth 64) 0x30 t)

/-- TRAPC and BRK of a group, RESUME, and the privilege fault of a group's service instruction (R80, R320 to R322): a call parks its group with one
request for each distinct tuple of words of its lanes, in the order of their lowest lanes; BRK halts its group after it; RESUME gives results, replays, skips, or ends a halt.
Keeping the lanes that a RESUME does not name, and group numbers, are the model's (log entries 37 and 38).
COMPLETION: it concludes that exec answers a next state (exec i s = .next t), from premises on the state and the operands
alone, for the constructors trapc, resume, brk. -/
def Obligations.TrapAndResume : Prop :=
  (∀ (s : State) (id : Nat) (g : Group) (f : LF), Issues s (.group id) g → g.results = [] →
    let lanes := activeLanes f s g
    let words := fun l => (List.range (f.ext.toNat + 1)).map fun j => (g.laneAt l).getV (vnum f.sa + j)
    ((Instr.trapc f).wf = true → g.lsZero = true →
      (lanes = [] → ∃ t, exec (.trapc f) s = .next t ∧ PutEffect s (.group id) g .zero 0 f.sw s.cur.next t) ∧
      (lanes ≠ [] → ∃ t h qs, exec (.trapc f) s = .next t ∧ t.group? id = some h ∧ h.park = .trapc f.dst ∧ h.mask = maskOf lanes ∧ h.pnext = s.cur.next ∧
        h.sregs = g.sregs ∧ h.lanes = g.lanes ∧ t.sys = s.sys ++ qs ∧ (qs.map fun q => q.num :: q.args).Nodup ∧
        (∀ q ∈ qs, q.gid = id ∧ ∃ l ∈ lanes, q.num :: q.args = words l) ∧
        (∀ q ∈ qs, ∀ l, l < 64 → (q.lanes.getLsbD l = true ↔ l ∈ lanes ∧ q.num :: q.args = words l)) ∧
        (∀ l ∈ lanes, ∃ q ∈ qs, q.num :: q.args = words l) ∧
        qs.Pairwise fun p q => ∃ l, p.lanes.getLsbD l = true ∧ ∀ k, k ≤ l → q.lanes.getLsbD k = false)) ∧
    ((Instr.brk f).wf = true → ∃ t h, exec (.brk f) s = .next t ∧ t.group? id = some h ∧ h.pc = s.cur.next ∧ h.halted = some .brk ∧ h.park = .ready ∧
      h.sregs = g.sregs ∧ h.lanes = g.lanes) ∧
    (∀ i, i ∈ [.syswr f, .resume f, .retx f, .msend f, .mrecv f, .saveg f, .loadg f, .tlbinv f, .keysel f, .idle f] → i.wf = true → RecRoom s g.ridge →
      ∃ t, exec i s = .next t ∧ Faults s id g 0x02 g.allLanes t)) ∧
  (∀ (s : State) (n : Nat) (g q : Group) (f : LF), Issues s (.col n) g → g.results = [] → (Instr.resume f).wf = true → g.lsZero = true →
    let r := s.rd g
    let m := r.uni 1 f.lit f.sb
    let x := r.uni 2 f.lit f.sc
    s.findGroup n (Hnd.of (r.uni 0 f.lit f.sa)) = some (.res q) → s.group? q.id = some q → (s.ctxD q.ctx).stop ≠ .stopped → q.rest = none →
    (f.ext = 0 → ∀ v : Fin 64, q.park = .trapc (.v v) → v.val % 2 = 0 →
      ∃ t h, exec (.resume f) s = .next t ∧ AgPut s (.col n) g .zero 0 t ∧ t.group? q.id = some h ∧
        (q.mask &&& ~~~m = 0 → h.park = .ready ∨ h.park = .marker) ∧ (q.mask &&& ~~~m = 0 → h.pc = q.pnext) ∧
        (q.mask &&& ~~~m ≠ 0 → h.park = q.park ∧ h.mask = q.mask &&& ~~~m) ∧
        ∀ l, l < q.width → ∀ k : Fin 64, (h.laneAt l).getV k.val =
          if (m &&& q.mask).getLsbD l ∧ k = v then x.setWidth 32
          else if (m &&& q.mask).getLsbD l ∧ k.val = v.val + 1 then (x >>> 32).setWidth 32 else (q.laneAt l).getV k.val) ∧
    (f.ext = 1 → ∀ e, q.park = .held e → q.halted = none → q.mask ≠ 0 → q.mask &&& ~~~m = 0 →
      ∃ t h, exec (.resume f) s = .next t ∧ AgPut s (.col n) g .zero 0 t ∧ t.group? q.id = some h ∧ h.park = .ready ∧ h.pc = q.pc ∧
        h.redo = (if ((s.peek q).map Peek.perLane).getD false then some q.mask else none) ∧
        h.sregs = q.sregs ∧ h.lanes = q.lanes) ∧
    (f.ext = 1 → q.park = .ready → q.halted = some .pcBreak →
      ∃ t h, exec (.resume f) s = .next t ∧ AgPut s (.col n) g .zero 0 t ∧ t.group? q.id = some h ∧ h.halted = none ∧ h.noBreak = true ∧ h.pc = q.pc) ∧
    (f.ext = 2 → ∀ e, q.park = .held e → q.halted = none → q.mask &&& ~~~m = 0 → q.reserved = 0 →
      ∃ t h, exec (.resume f) s = .next t ∧ AgPut s (.col n) g .zero 0 t ∧ t.group? q.id = some h ∧ h.pc = q.pnext ∧ h.sregs = q.sregs ∧
        ∀ l, (h.laneAt l).v = (q.laneAt l).v) ∧
    (f.ext = 2 → ∀ e, q.halted = some e → e ≠ .pcBreak →
      ∃ t h, exec (.resume f) s = .next t ∧ AgPut s (.col n) g .zero 0 t ∧ t.group? q.id = some h ∧ h.halted = none ∧ h.pc = q.pc ∧ h.sregs = q.sregs))

/-! ### Context images -/

/-- SAVEG and LOADG (R328, R336 to R345), where the object, the selected key slot, the image's address and its pages pass their checks: SAVEG
writes the section and returns its length; LOADG of a group makes it resident, in the place of its handle, with the registers of its
record, and LOADG of a context takes over its header.
The record of R301 holds a group's registers: what it describes has the group's s registers, mode words, stochastic-rounding state and shape,
and every v register and queue entry of every lane.
DST after a LOADG that succeeds is a free value, and group numbers are the model's (log entries 36 and 38).
COMPLETION: it concludes that exec answers a next state (exec i s = .next t), from premises on the state and the operands
alone, for the constructors saveg, loadg. -/
def Obligations.ContextImages : Prop :=
  (∀ (s : State) (n : Nat) (g : Group) (f : LF), Issues s (.col n) g → g.results = [] → Distinct s → s.late = [] →
     let r := s.rd g
     let hx := r.uni 0 f.lit f.sa
     let h := Hnd.of hx
     let va := (r.uni 1 f.lit f.sb).toNat
     let kind := f.ext.toNat
     va % 128 = 0 →
     (∀ index ctx body keys s1, (Instr.saveg f).wf = true → s.saveObject n kind h = some (index, ctx, body) → (s.ctxD ctx).stop = .stopped →
       s.slotBad n ctx = false →
       let b := s.sectionBytes (kind + 1) index ctx (s.col n).ksel hx body
       s.imageRun n (.col n) g .write (s.protected? ctx) va b.length = .ok keys s1 → Sound s1 → keys.Pairwise (fun x y => x + 128 ≤ y ∨ y + 128 ≤ x) →
       ∃ t, exec (.saveg f) s = .next t ∧ AgPut s (.col n) g f.dst (BitVec.ofNat 64 b.length) t ∧ t.readLines keys b.length = b ∧ t.groups = s.groups ∧
         ∀ k, (∀ x ∈ keys, k < x ∨ x + 128 ≤ k) → readByte t.mem k = readByte s1.mem k) ∧
     (∀ keys0 s0 keys s1 p s2, (Instr.loadg f).wf = true → s.loadOk n kind h = true →
       s.imageRun n (.col n) g .read (s.protected? h.ctx) va 64 = .ok keys0 s0 → s0.headCause n kind (s.ctxD h.ctx) (s0.readLines keys0 64) = none →
       let len := 80 + field (s0.readLines keys0 64) 8 4
       s0.imageRun n (.col n) g .read (s0.protected? h.ctx) va len = .ok keys s1 → s1.openSection n kind (s.ctxD h.ctx) (s1.readLines keys len) = .ok p →
       s1.loadBody n kind h p = some s2 →
       ∃ t v, exec (.loadg f) s = .next t ∧ AgPut s (.col n) g f.dst v t ∧
         (kind = 0 → t.ctx? h.ctx = some { ctxOfBody (s.ctxD h.ctx) p with stop := .stopped } ∧ t.groups = s.groups) ∧
         (kind = 1 → t.groups = s.groups ∧ ∃ tm ∈ t.teams, tm.ctx = h.ctx ∧ tm.core = 12 * n + h.core ∧ tm.pos = field p 0 4 ∧ tm.idx = field p 4 1) ∧
         (kind = 2 → h.phase = false → ∀ tm, s.teamAt n h = some tm → ∃ q ∈ t.groups, q.id = s.nextGroup ∧ q.ctx = tm.ctx ∧ q.tlin = tm.tlin ∧
           q.core = tm.core ∧ q.gnum = h.gnum ∧ (let w := groupOfRecord (p.drop 128)
             q.lanes = w.lanes ∧ q.sregs = w.sregs ∧ q.gmode = w.gmode ∧ q.fstat = w.fstat ∧ q.fctl = w.fctl ∧ q.srSeed = w.srSeed ∧ q.srCtr = w.srCtr ∧
             q.shape = w.shape ∧ q.home = w.home ∧ q.root = w.root)) ∧
         (kind = 3 → t.groups = s.groups ∧ t.teams = s.teams))) ∧
  (∀ (g : Group) (pc : Pc) (bar gen : Nat), g.width ∈ [4, 8, 16, 32, 64] → pc.toNat % 4 = 0 → g.shape.toNat < 2 ^ 304 → g.home < 2 ^ 32 → g.root < 32 → bar < 256 → gen < 256 →
     g.fstat &&& modeBits 1 = g.fstat → g.mstat &&& modeBits 2 = g.mstat → g.fctl &&& modeBits 3 = g.fctl →
     let h := groupOfRecord (recordBytes g pc (BitVec.allOnes 64) true bar gen)
     h.pc = pc ∧ h.gmode = g.gmode ∧ h.fstat = g.fstat ∧ h.mstat = g.mstat ∧ h.fctl = g.fctl ∧ h.pri = g.pri ∧ h.home = g.home ∧ h.root = g.root ∧
     h.srSeed = g.srSeed ∧ h.srCtr = g.srCtr ∧ h.seqCpy = g.seqCpy ∧ h.seqMtx = g.seqMtx ∧ h.seqNet = g.seqNet ∧ h.shape = g.shape ∧
     h.sregs = g.sregs ∧ h.width = g.width ∧ ∀ l, (h.laneAt l).v = (g.laneAt l).v ∧ (h.laneAt l).q = (g.laneAt l).q)

/-! ### The network engine's instructions -/

/-- NPUT, NGET, NPUTI, NPUTA and NATOM (R367 to R370), where the reference, the message and the local end pass their checks: one operation is
queued with the message's fields and counted on NET. NWAITN takes the oldest entry of its window's ring, waits for one, or returns the
empty mark (R374). NWOPEN opens a closed window under a new generation (R361, R362); NWREV closes it (R363).
The record of an operation and its number, and how a col waits in NWAITN, are the model's (log entries 17 and 38).
COMPLETION: it concludes that exec answers a next state (exec i s = .next t), from premises on the state and the operands
alone, for the constructors nput, nget, nputi, nputa, natom, nwaitn, nwopen, nwrev. -/
def Obligations.NetworkInstructions : Prop :=
  ∀ (s : State) (a : Agent) (g : Group) (f : LF), Issues s a g → g.results = [] →
    let r := s.rd g
    let c := s.ctxD (s.ctxOf a)
    let m := r.sregs 12 f.sc 4
    let w := fun i => (m.getD i 0).toNat
    let ref := (r.uni 1 f.lit f.sb).toNat
    let lend : CopyEnd := { space := 0, rc := r.sregs 8 f.sa 4, size := (r.rcd f.sa).extent }
    let len : Nat := w 1 % 2 ^ 32
    let loff := signed 64 (w 0)
    let inside := len = 0 ∨ 0 ≤ loff ∧ loff + len ≤ lend.size
    (∀ i kind fn, (i, kind, fn) ∈ [(.nput f, .put, 0), (.nget f, .getreq, 1), (.nputi f, .puti, 2), (.nputa f, .add, 3), (.natom f, PktKind.atomreq, 4)] →
      Instr.wf i = true → activeLanes f s g ≠ [] → g.counter 7 < 63 →
      refBad c ref m (if fn = 2 ∨ fn = 4 then 0 else 1) (if fn = 4 then 0 else 4194304) = false →
      (fn = 3 ∨ fn = 4 → len % f.ty.size = 0 ∧ w 2 % f.ty.size = 0) →
      (fn ≠ 4 → (len = 0 ∨ lend.rcd.valid 0 = true) ∧ (inside ∨ lend.strict = false)) →
      ∃ t h o, exec i s = .next t ∧ t.net.ops = s.net.ops ++ [o] ∧ o.op = s.nextNum ∧ o.who = a ∧ o.kind = kind ∧ o.fn = fn ∧ o.rank = ref % 2 ^ 16 ∧
        o.win = bitsOf ref 31 24 ∧ o.gen = bitsOf ref 47 32 ∧ o.key = bitsOf ref 63 48 ∧ o.len = len ∧ o.roff = w 2 ∧ o.imm = w 3 ∧ o.pkts = [] ∧
        (∃ k ∈ t.net.conns, k.num = o.conn ∧ k.ctx = c.ctx ∧ k.rank = o.rank) ∧
        t.ag? a = some h ∧ h.pc = s.cur.next ∧ h.ops = g.ops ++ [{ path := 7, op := s.nextNum, lanes := g.live }] ∧ h.seqNet = g.seqNet + 1 ∧
        h.sregs = g.sregs ∧ h.lanes = g.lanes ∧ t.mem = s.mem ∧ (fn = 4 ∨ inside → h.mstat = g.mstat) ∧ (fn ≠ 4 → ¬inside → h.mstat = g.mstat ||| 1) ∧
        (fn ≠ 4 → h.results = sResult f.dst (g.seqNet.setWidth 64)) ∧
        (fn = 4 → ∀ d, f.dst = .s d → h.results = [{ writes := [.s d.val (g.getS d.val)], op := some s.nextNum, late := true }])) ∧
    (∀ x s1 s2 key key2 e e2, (Instr.nwaitn f).wf = true → g.counter 1 < 63 → Unwatched s g →
      let idx := (r.uni 0 f.lit f.sa).toNat
      (s.ctx? (s.ctxOf a)).bind (·.win? idx) = some x → idx ≤ 255 → x.notif ≠ 0 → x.notif % 16 = 0 → s.trans a .atomic x.notif = (.ok key e, s1) → Sound s1 →
      let res := readLE s1.mem key 4
      let con := readLE s1.mem (key + 4) 4
      let logn := readLE s1.mem (key + 8) 4
      let logs := readLE s1.mem (key + 12) 4
      logn ≤ 16 → 4 ≤ logs → logs ≤ 12 →
      (res ≠ con → s1.trans a .read (x.notif + (128 + con % 2 ^ logn * 2 ^ logs)) = (.ok key2 e2, s2) → Sound s2 →
        let v := readLE s2.mem key2 16
        v % 2 = con / 2 ^ logn % 2 → Hdr.of (readLE s2.mem key 16) = Hdr.of (readLE s1.mem key 16) →
        ∃ t d, f.dst = .s d ∧ exec (.nwaitn f) s = .next t ∧ Wrote s2.mem (key + 4) 4 ((con + 1) % 2 ^ 32) t ∧
          Counted s a g f 1 [{ writes := [.s d.val (BitVec.ofNat 64 (v / 2 ^ 64)), .s (d.val + 1) (BitVec.ofNat 64 (v / 2 ^ 32 % 2 ^ 32 + v / 2 ^ 16 % 2 ^ 16 * 2 ^ 32))]
                               op := some s.nextNum }] t) ∧
      (res = con → f.mod = 1 ∨ x.closed = true → ∃ t d, f.dst = .s d ∧ exec (.nwaitn f) s = .next t ∧ t.mem = s1.mem ∧
        Counted s a g f 1 [{ writes := [.s d.val 0, .s (d.val + 1) (BitVec.ofNat 64 (2 ^ 63 + bit x.closed * 2 ^ 62))], op := some s.nextNum }] t) ∧
      (res = con → f.mod = 0 → x.closed = false →
        (∀ id, a = .group id → ∃ t y, exec (.nwaitn f) s = .next t ∧ Parks s1 a g (.nwaitn f.dst) t ∧ t.waiters = s.waiters ++ [y] ∧ y.gid = some id ∧
          y.key = key ∧ y.ring = true ∧ y.n.toNat = idx) ∧
        (isCol a = true → exec (.nwaitn f) s = .next s1))) ∧
    ((Instr.nwopen f).wf = true → g.counter 7 < 63 →
      let d := r.sregs 12 f.sb 4
      let u := fun i => (d.getD i 0).toNat
      let idx := bitsOf (u 1) 55 48
      let gen := ((c.win? idx).map (·.gen)).getD 0
      descOk d = true → u 2 % 16 = 0 → u 3 % 8 = 0 → g.lsZero = true →
      (gen % 2 = 0 → (∀ x, c.win? idx = some x → x.infl = 0) → ∃ t x v, exec (.nwopen f) s = .next t ∧ (t.ctxD (s.ctxOf a)).win? idx = some x ∧
        x.base = u 0 ∧ x.len = bitsOf (u 1) 47 0 ∧ x.perm = bitsOf (u 1) 58 56 ∧ x.notif = u 2 ∧ x.sem = u 3 ∧ x.infl = 0 ∧ x.gen = nextGen gen ∧
        ((r.uni 0 f.lit f.sa).toNat % 2 ^ 16 ≠ 0 → x.key = (r.uni 0 f.lit f.sa).toNat % 2 ^ 16) ∧
        v = BitVec.ofNat 64 (x.key * 2 ^ 48 + x.gen * 2 ^ 32 + idx * 2 ^ 24 + c.rank) ∧
        (∀ j, j ≠ idx → (t.ctxD (s.ctxOf a)).win? j = c.win? j) ∧ t.mem = s.mem ∧
        NetCounted s a g (sResult f.dst v) t) ∧
      (gen % 2 = 1 ∨ (∃ x, c.win? idx = some x ∧ x.infl ≠ 0) → ∃ t, exec (.nwopen f) s = .next t ∧ t.contexts = s.contexts ∧ t.mem = s.mem ∧ NetCounted s a g (sResult f.dst 0) t)) ∧
    ((Instr.nwrev f).wf = true → g.counter 7 < 63 →
      let idx := (r.uni 0 f.lit f.sa).toNat
      idx ≤ 255 →
      (c.win? idx = none ∨ (∃ x, c.win? idx = some x ∧ x.gen % 2 = 0) →
        ∃ t, exec (.nwrev f) s = .next t ∧ t.contexts = s.contexts ∧ t.mem = s.mem ∧ NetCounted s a g (sResult f.dst 0) t) ∧
      (∀ x, c.win? idx = some x → x.gen % 2 = 1 → ∃ t, exec (.nwrev f) s = .next t ∧ (t.ctxD (s.ctxOf a)).win? idx = some { x with gen := nextGen x.gen } ∧
        (x.infl = 0 → s.late = [] → NetCounted s a g (sResult f.dst (BitVec.ofNat 64 (nextGen x.gen))) t) ∧
        (x.infl ≠ 0 → ∃ h, t.ag? a = some h ∧ h.pc = s.cur.next ∧ h.results = sResult f.dst (BitVec.ofNat 64 (nextGen x.gen)) ∧ h.sregs = g.sregs ∧
          h.lanes = g.lanes ∧ h.ops = g.ops ++ [{ path := 7, op := s.nextNum, lanes := g.live }])))

/-! ### Trace and audit instructions -/

/-- TRACE, TRTAG and TRFLUSH (R395), AUDTAG, AUDRD and AUDCLR (R414 to R417): the records, tags, registers and counters that they write and return.
COMPLETION: it concludes that exec answers a next state (exec i s = .next t), from premises on the state and the operands
alone, for the constructors trace, trflush, trtag, audtag, audrd, audclr. -/
def Obligations.TraceAndAuditInstructions : Prop :=
  ∀ (s : State) (a : Agent) (g : Group) (f : LF), Issues s a g → g.results = [] →
    let r := s.rd g
    let x := r.uni 0 f.lit f.sa
    let y := r.uni 1 f.lit f.sb
    let hx := r.uni 2 f.lit f.sc
    let sel := f.ext.toNat
    let ctx := s.ctxOf a
    ((Instr.trace f).wf = true → ∃ t h, exec (.trace f) s = .next t ∧ t.ag? a = some h ∧ h.pc = s.cur.next ∧ h.sregs = g.sregs ∧ h.lanes = g.lanes ∧
      h.results = [] ∧ SameSpecial g h ∧ t.mem = s.mem ∧
      ∀ id tn, a = .group id → g.core < 576 → s.tenant? (s.tenantNum g.ctx) = some tn → tn.admits 0 0x16 g.trTag.toNat = true → tn.shut (g.src 0) = false →
        ∃ u e, t.tenant? (s.tenantNum g.ctx) = some u ∧ u.buf = tn.buf ++ [e] ∧ e.bytes.length = 32 ∧ field e.bytes 0 8 = s.time % 2 ^ 64 ∧
          field e.bytes 12 1 = 0x16 ∧ field e.bytes 28 4 = x.toNat % 2 ^ 32) ∧
    ((Instr.trtag f).wf = true → ∃ t h, exec (.trtag f) s = .next t ∧ t.ag? a = some h ∧ h.pc = s.cur.next ∧ h.sregs = g.sregs ∧ h.lanes = g.lanes ∧
      h.results = [] ∧ h.gmode = g.gmode ∧ h.audTag = g.audTag ∧ t.mem = s.mem ∧ h.trTag = x.setWidth 16) ∧
    ((Instr.trflush f).wf = true →
      (s.ownRecs a g (s.recsMade a) = 0 → ∃ t, exec (.trflush f) s = .next t ∧ SEffect s a g f (s.ringWr (s.tenantNum ctx)) [] false t) ∧
      (s.ownRecs a g (s.recsMade a) ≠ 0 → ∃ t, exec (.trflush f) s = .next t ∧ Parks s a g (.trflush f.dst (s.recsMade a)) t)) ∧
    ((Instr.audtag f).wf = true → isCol a = false → ∃ t h, exec (.audtag f) s = .next t ∧ t.ag? a = some h ∧ h.pc = s.cur.next ∧ h.sregs = g.sregs ∧
      h.lanes = g.lanes ∧ h.results = [] ∧ h.gmode = g.gmode ∧ h.trTag = g.trTag ∧ t.mem = s.mem ∧ h.audTag = x.setWidth 16 ∧ h.audOrd = (x >>> 32).setWidth 32) ∧
    ((Instr.audrd f).wf = true → (f.mod.getLsbD 0 = true → g.lsZero = true ∧ s.audSynced a = true ∧ s.late = []) →
      (sel ≤ 2 → f.sc = .zero → ∀ off, cntOff sel x.toNat y.toNat = some off →
        let q := s.audRegs ctx
        (q.actl.getLsbD 0 = false ∨ q.aarea = 0 → ∃ t, exec (.audrd f) s = .next t ∧ SEffect s a g f 0 [] false t) ∧
        (∀ key e s1, q.actl.getLsbD 0 = true → q.aarea ≠ 0 → g.counter 0 < 63 → Unwatched s g →
          s.translate ctx false .read (q.aarea.toNat % 2 ^ 57 + off) = (.ok key e, s1) → pteCoh e = true →
          ∃ t, exec (.audrd f) s = .next t ∧ t.mem = s1.mem ∧
            Counted s a g f 0 (sResult f.dst (BitVec.ofNat 64 (readLE s1.mem key 8)) (some s.nextNum)) t)) ∧
      (sel = 3 → isCol a = true → f.sc = .zero → x = 0 → y.toNat ≤ 4 →
        ∃ t, exec (.audrd f) s = .next t ∧ SEffect s a g f ((s.audRegs ctx).reg y.toNat) [] false t) ∧
      (∀ n o, sel = 4 → a = .col n → f.sc ≠ .zero → s.findGroup n (Hnd.of hx) = some o → x = 0 → y = 0 →
        ∃ t, exec (.audrd f) s = .next t ∧ SEffect s a g f (BitVec.ofNat 64 (o.group.audTag.toNat + o.group.audOrd.toNat * 2 ^ 32)) [] false t) ∧
      (∀ id, 3 ≤ sel → a = .group id → f.sc = .zero → RecRoom s g.ridge → ∃ t, exec (.audrd f) s = .next t ∧ Faults s id g 0x02 g.allLanes t)) ∧
    ((Instr.audrd f).wf = true → f.sc = .zero → sel < 3 → f.mod.getLsbD 0 = true → s.audSynced a = false →
      ∃ t, exec (.audrd f) s = .next t ∧ Parks s a g .audsync t) ∧
    ((Instr.audclr f).wf = true →
      (∀ q, sel = 5 → isCol a = true → f.sc = .zero → x.toNat ≤ 4 → (s.audRegs ctx).write x.toNat y = some q →
        ∃ t, exec (.audclr f) s = .next t ∧ AgPut s a g .zero 0 t ∧ t.audRegs ctx = q ∧ (∀ k, k ≠ ctx → t.audRegs k = s.audRegs k) ∧ t.mem = s.mem) ∧
      (∀ n q, sel = 6 → a = .col n → f.sc ≠ .zero → s.findGroup n (Hnd.of hx) = some (.res q) → s.group? q.id = some q → s.writable q = true →
        ∃ t h, exec (.audclr f) s = .next t ∧ AgPut s a g .zero 0 t ∧ t.group? q.id = some h ∧ h.audTag = y.setWidth 16 ∧ h.audOrd = (y >>> 32).setWidth 32 ∧
          h.sregs = q.sregs ∧ h.lanes = q.lanes ∧ h.pc = q.pc) ∧
      (sel ≤ 4 → f.sc = .zero → (isCol a = true ∨ (s.audRegs ctx).actl.getLsbD 25 = false) → (sel ≠ 4 → x.toNat ≤ 63) →
        let q := s.audRegs ctx
        let range := clearRange sel x.toNat
        (q.aarea = 0 → ∃ t, exec (.audclr f) s = .next t ∧ PutEffect s a g .zero 0 f.sw s.cur.next t) ∧
        (∀ ps s1, q.aarea ≠ 0 → g.counter 1 < 63 → Unwatched s g → s.clearPieces ctx (q.aarea.toNat % 2 ^ 57 + range.1) (range.2 / 8) = (.ok ps, s1) → Sound s1 →
          ∃ t, exec (.audclr f) s = .next t ∧ Counted s a g f 1 [] t ∧ (∀ p ∈ ps, ∀ k, p.key ≤ k → k < p.key + 8 → readByte t.mem k = 0) ∧
            ∀ k, (∀ p ∈ ps, k < p.key ∨ p.key + 8 ≤ k) → readByte t.mem k = readByte s1.mem k)))

/-! ### Events of groups and engines -/

/-- What happens to groups when it is due: a cycle of an issue unit issues at most four groups on at most 32 lanes (R183 to R185), the group that
has waited or lost for longest first, once it has for long enough (R34, R35); a result or an access that was outstanding arrives (R67, R148); groups that waited go
on (R131, R179, R189, R316); a group that has executed EXIT leaves its team (R178, R191), and a phase record becomes a group again (R303).
Which of several allowed things happens is a free choice, one at a step; the issue of an instruction again after its drain, trace records that the spec leaves open, and numbers are the model's (log entries 4, 10, 23, 26, 35 and 38).
COMPLETION: it concludes that exec answers a next state (exec i s = .next t), from premises on the state and the operands
alone, for the constructors issueCycle, issueBoundExpiry, arbitrationLossLimit, registerResultArrival, lsAccessComplete,
lsDrainComplete, laneReplay, fuseWindowExpiry, fuseSuccess, sleepExpiry, exitComplete, phaseReadmission, teamStall. -/
def Obligations.GroupEvents : Prop :=
  ∀ (s : State), Distinct s →
    (∀ q, s.ev = .nat q → (∀ g ∈ s.inQuad q, g.pass2 = false) → ∃ t, ∃ out : List Group, exec .issueCycle s = .next t ∧
      t.issuing = s.issuing ++ out.map (fun (g : Group) => Agent.group g.id) ∧ out.length ≤ 4 ∧ (out.map s.lanesNeeded).sum ≤ 32 ∧
      (∀ g ∈ out, g ∈ s.inQuad q ∧ s.canIssue (.group g.id) g = true) ∧ t.groups.map (·.id) = s.groups.map (·.id) ∧ t.teams = s.teams ∧ t.mem = s.mem) ∧
    (∀ id g, s.group? id = some g → s.canIssue (.group id) g = true → Agent.group id ∉ s.issuing →
      (∀ h ∈ s.inQuad (g.core * 4 + g.quad), h.pass2 = false) →
      (s.ev = .nat id → g.due = true →
        (∀ h ∈ s.inQuad (g.core * 4 + g.quad), h.id ≠ id → s.canIssue (.group h.id) h = true → h.losses 8 < 15 ∧ (h.due = true → h.waited < g.waited)) →
        ∃ t, ∃ out : List Agent, exec .issueBoundExpiry s = .next t ∧ t.issuing = s.issuing ++ Agent.group id :: out ∧ t.teams = s.teams ∧ t.mem = s.mem) ∧
      (∀ bank, s.ev = .nat2 id bank → 15 ≤ g.losses bank →
        (∀ h ∈ s.inQuad (g.core * 4 + g.quad), h.id ≠ id → s.canIssue (.group h.id) h = true → bank = 8 ∧ (15 ≤ h.losses 8 → h.waited < g.waited)) →
        ∃ t, ∃ out : List Agent, exec .arbitrationLossLimit s = .next t ∧ t.issuing = s.issuing ++ Agent.group id :: out ∧ t.teams = s.teams ∧ t.mem = s.mem)) ∧
    (∀ a k g r, s.ev = .agentIdx a k → s.ag? a = some g → g.results[k]? = some r → r.late = false →
      ∃ t h, exec .registerResultArrival s = .next t ∧ t.ag? a = some h ∧ h.fstat = g.fstat ||| r.raised ∧ h.ops = g.ops ∧ t.mem = s.mem ∧
        h.results = (g.results.take k).map (Res.without r.writes) ++ g.results.drop (k + 1) ∧
        (∀ n x, r.writes = [.s n x] → n < 32 → h.lanes = g.lanes ∧ ∀ m : Fin 32, h.getS m.val = if m.val = n then x else g.getS m.val) ∧
        (∀ l n x, r.writes = [.v l n x] → l < g.width → n < 64 → h.sregs = g.sregs ∧ ∀ j (m : Fin 64), j < g.width →
          (h.laneAt j).getV m.val = if j = l ∧ m.val = n then x else (g.laneAt j).getV m.val)) ∧
    (∀ a k g o, s.ev = .agentIdx a k → s.ag? a = some g → g.ops[k]? = some o → o.path ≤ 4 → o.done = false → g.parkOp ≠ some o.op →
      (∀ r ∈ g.results, r.op ≠ some o.op) → s.opLate o.op = false → s.recHeld g 0 = false → s.groupWaits g 1 = false → ∃ t h, exec .lsAccessComplete s = .next t ∧ t.ag? a = some h ∧ h.ops = (g.complete o.op).ops ∧
        h.sregs = g.sregs ∧ h.lanes = g.lanes ∧ h.results = g.results ∧ t.mem = s.mem) ∧
    (∀ a g, s.ev = .agent a → s.ag? a = some g → g.rest = none →
      (∀ d, g.park = .drain d → g.drained d = true → ∃ t h, exec .lsDrainComplete s = .next t ∧ t.ag? a = some h ∧ h.park = .ready ∧ h.pc = g.pc ∧
        h.sregs = g.sregs ∧ h.lanes = g.lanes ∧ t.mem = s.mem) ∧
      (∀ sc b, g.park = .fence sc b → g.lsZero = true → g.watched = none → g.raced = none → ∃ t h, exec .lsDrainComplete s = .next t ∧ t.ag? a = some h ∧
        h.pc = g.pnext ∧ h.sregs = g.sregs ∧ h.lanes = g.lanes ∧ h.results = g.results ∧ t.mem = s.mem) ∧
      (∀ n due, g.park = .sleep n due → due ≤ s.time → ∃ t h, exec .sleepExpiry s = .next t ∧ t.ag? a = some h ∧ h.pc = g.pnext ∧
        h.park = (if g.psw && !g.results.isEmpty then .marker else .ready) ∧ h.sregs = g.sregs ∧ h.lanes = g.lanes ∧ h.results = g.results ∧ t.mem = s.mem)) ∧
    (∀ id g, s.ev = .nat id → s.group? id = some g →
      (g.park = .transl [] → s.runs g.ctx = true → s.untold g = false → ∃ t h, exec .laneReplay s = .next t ∧ t.group? id = some h ∧ h.park = .ready ∧ h.redo = some g.mask ∧ h.pc = g.pc ∧
        h.sregs = g.sregs ∧ h.lanes = g.lanes ∧ t.mem = s.mem) ∧
      (g.park = .exiting → g.results = [] → g.ops = [] → s.groupWaits g 0 = false → s.blocked g.ctx (g.src 0) 0x11 g.trTag.toNat = false → ∃ t, exec .exitComplete s = .next t ∧ t.group? id = none ∧ t.mem = s.mem ∧
        (∀ w ∈ s.groups, w.id ≠ id → w.ctx ≠ g.ctx ∨ w.tlin ≠ g.tlin → t.group? w.id = some w) ∧
        (∀ tm, s.team? g.ctx g.tlin = some tm → tm.phases = [] → (∀ w ∈ s.groups, w.ctx = g.ctx → w.tlin = g.tlin → w.id = id) →
          t.team? g.ctx g.tlin = none) ∧
        ∀ tm w, s.team? g.ctx g.tlin = some tm → w ∈ s.groups → w.id ≠ id → w.ctx = g.ctx → w.tlin = g.tlin → ∃ u, t.team? g.ctx g.tlin = some u ∧
          u.exited = tm.exited ++ (List.range g.slices).map fun i => (g.quad, g.slice0 + i))) ∧
    (∀ k x, s.ev = .nat k → s.fuses.find? (fun y => y.num == k) = some x →
      (s.fuseExpired x = true → ∃ t, exec .fuseWindowExpiry s = .next t ∧ t.fuses = s.fuses.filter (fun y => y.num != k) ∧ t.mem = s.mem ∧
        ∀ p ∈ x.arrived, ∀ w c tag st d, s.group? p.1 = some w → w.park = .fuse c tag st d → w.rest = none → ∃ h, t.group? p.1 = some h ∧ h.pc = w.pnext ∧
          h.lanes = w.lanes ∧ ∀ n : Fin 32, h.getS n.val = if d = .s n then 1 else w.getS n.val) ∧
      (∀ l c tag st d, let hs := s.holders x.core x.quad x.first x.len
        s.fuseReady x = true → hs.head? = some l → l.park = .fuse c tag st d → l.rest = none → ∃ t h, exec .fuseSuccess s = .next t ∧
          t.fuses = s.fuses.filter (fun y => y.num != k) ∧ t.mem = s.mem ∧ t.group? l.id = some h ∧ h.lanes = hs.flatMap (fun (y : Group) => y.lanes) ∧ h.slice0 = x.first ∧
          h.pc = l.pnext ∧ (∀ n : Fin 32, h.getS n.val = if d = .s n then 0 else l.getS n.val) ∧ ∀ y ∈ hs, y.id ≠ l.id → t.group? y.id = none)) ∧
    (∀ core tm p, s.ev = .nat core → ((s.readyPhases core).filter fun x => s.mayEnter x.1.ctx).head? = some (tm, p) →
      (∃ r ∈ s.freeRuns core p.grp.slices, rootAligned tm.rwidth r.2 p.grp.slice0 = true) → ∃ t h u run, exec .phaseReadmission s = .next t ∧
        run ∈ s.freeRuns core p.grp.slices ∧ rootAligned tm.rwidth run.2 p.grp.slice0 = true ∧ t.group? s.nextGroup = some h ∧ h.quad = run.1 ∧ h.slice0 = run.2 ∧
        h.pc = p.grp.pc ∧ h.park = .ready ∧ h.sregs = p.grp.sregs ∧ h.width = p.grp.width ∧ t.mem = s.mem ∧
        (∀ l (i : Fin 64), (h.laneAt l).getV i.val = if p.carry.getLsbD i.val then (p.grp.laneAt l).getV i.val else 0) ∧
        (∀ l, p.q = true → (h.laneAt l).q = (p.grp.laneAt l).q) ∧
        t.team? tm.ctx tm.tlin = some u ∧ u.phases = tm.phases.filter fun y => y.slot != p.slot) ∧
    (∀ k tm, s.ev = .nat k → s.teams[k]? = some tm → s.stallDue tm = true → ∃ t u, exec .teamStall s = .next t ∧ t.team? tm.ctx tm.tlin = some u ∧
      u.stallSent = true ∧ t.groups = s.groups ∧ ∀ c, s.ctx? tm.ctx = some c → c.evring = 0 → t.mem = s.mem ∧
        ∃ d, t.ctx? tm.ctx = some d ∧ d.heldEv.length = c.heldEv.length + (s.groupsOf tm).length + tm.phases.length)

/-- What the copy engine, the audit engine and the trace fabric do when it is due: a copy writes its units, each byte where the description says,
and completes (R279 to R281); a retained sample is audited and counted in its slot (R408, R410); records reach their rings, or a ring that
stays full turns lossy (R391 to R394); a quadrant is sampled (R399), and TENUPD reloads a tenant's entry (R389).
Which of several allowed things happens, where the places of an engine's accesses are kept, the size of trace buffers, that an event whose condition does not hold answers the same state, and numbers are the model's (log entries 4, 6, 18, 20 and 38).
COMPLETION: it concludes that exec answers a next state (exec i s = .next t), from premises on the state and the operands
alone, for the constructors copyUnitWrite, copyComplete, tenupd, sampleAudit, traceRingWrite, dropRecordWrite, losslessRelease,
trfullTimeout, samplePick. -/
def Obligations.EngineEvents : Prop :=
  ∀ (s : State), Distinct s →
    (∀ op id c c1 l s1, s.ev = .nat2 op id → s.copies.find? (fun x => x.op == op) = some c → s.copyReady c = true → c.open_ id = true →
      c.lost = none → c.fail = none → s.late = [] → s.copyUnit c id = (.ok l, c1, s1) → Sound s1 → s1.poison = [] → (l.map (·.1)).Nodup →
      ∃ t, exec .copyUnitWrite s = .next t ∧ (∃ d ∈ t.copies, d.op = op ∧ d.done = id :: c.done) ∧
        (s.lag = false → t.late = [] ∧ (∀ p ∈ l, readByte t.mem p.1 = p.2.2) ∧ ∀ k, (∀ p ∈ l, p.1 ≠ k) → readByte t.mem k = readByte s1.mem k) ∧
        (s.lag = true → t.mem = s1.mem ∧ ∀ p ∈ l, ∃ w ∈ t.late, ∃ cs, w.cls = 1 ∧ w.op = op ∧ w.deed = .cells cs ∧ (p.1, p.2.2) ∈ cs) ∧
        (c.bar = none → t.teams = s.teams ∧ t.groups = s.groups) ∧
        ∀ b tm, s.lag = false → c.bar = some b → b < 64 → s.team? c.ctx c.tlin = some tm → (tm.bar b).pend ≠ 0 →
          ∃ u, t.team? c.ctx c.tlin = some u ∧ u.bar b = (tm.bar b).addTx (-((c.unit id).length : Int))) ∧
    (∀ op c, s.ev = .nat op → s.copies.find? (fun x => x.op == op) = some c → s.copyReady c = true → c.left = [] → s.copyHeld c = false →
      ∃ t, exec .copyComplete s = .next t ∧ t.copies = s.copies.filter (fun x => x.op != op) ∧ t.mem = s.mem ∧
        ∀ w ∈ s.groups, ∃ h, t.group? w.id = some h ∧ h.ops = (w.complete op).ops ∧ h.sregs = w.sregs ∧ h.lanes = w.lanes) ∧
    (∀ r x k s1, s.ev = .nat r → s.nextSample r = some x → x.bad = false → s.sampleHeld x = false → x.lost = none → s.late = [] → s.poison = [] →
      let y := s.beginAudit x
      let q := s.beganWith x
      y.2.areaPlace x.ridge x.ctx (q.slotVa x.tag) = (.at_ k, s1) → Sound s1 →
      let bin := divBin y.1.worst.1
      q.hot bin = false → ∃ t, exec .sampleAudit s = .next t ∧ t.aud.samples = y.2.aud.samples.erase y.1 ∧ t.groups = s.groups ∧
        (∀ off ∈ [8 * bin, 808], readLE t.mem (k + off) 8 = (readLE s1.mem (k + off) 8 + 1) % 2 ^ 64) ∧ readLE t.mem (k + 840) 8 = x.tag % 2 ^ 64 ∧
        ∀ j, j < k ∨ k + 1024 ≤ j → readByte t.mem j = readByte s1.mem j) ∧
    (∀ n tn r rest k wr rd slot, s.ev = .nat n → s.tenant? n = some tn → tn.buf = r :: rest → (∀ y ∈ rest, y.src = r.src) → s.ringHead tn = some (k, wr, rd) →
      (wr + 2 ^ 32 - rd) % 2 ^ 32 ≠ 2 ^ tn.logn → s.traceKey tn (tn.base + 128 + 32 * (wr % 2 ^ tn.logn)) = some slot → r.bytes.length = 32 → Sound s →
      slot + 32 ≤ k ∨ k + 4 ≤ slot → ∃ t u more, exec .traceRingWrite s = .next t ∧ t.tenant? n = some u ∧ u.buf = rest ++ more ∧
        readBytes t.mem slot 32 = r.bytes ∧ readLE t.mem k 4 = (wr + 1) % 2 ^ 32 ∧
        ∀ j, (j < slot ∨ slot + 32 ≤ j) → (j < k ∨ k + 4 ≤ j) → readByte t.mem j = readByte s.mem j) ∧
    (∀ n tn l, s.ev = .nat n → s.tenant? n = some tn → tn.modeRec = none → tn.drop = some l → tn.loss = none → l.shown = l.count → tn.mode ≠ 0 →
      s.ringFull tn = false → (∀ r ∈ tn.buf, r.src ≠ 0xB000) → ∃ t u, exec .dropRecordWrite s = .next t ∧ t.tenant? n = some u ∧ u.drop = none ∧ u.buf = tn.buf ∧ t.groups = s.groups ∧
        ∀ k wr rd slot, tn.admits 11 1 0 = true → s.ringHead tn = some (k, wr, rd) → s.traceKey tn (tn.base + 128 + 32 * (wr % 2 ^ tn.logn)) = some slot →
          Sound s → slot + 32 ≤ k ∨ k + 4 ≤ slot → readLE t.mem k 4 = (wr + 1) % 2 ^ 32 ∧ readLE t.mem (slot + 12) 1 = 1 ∧
            readLE t.mem (slot + 16) 4 = l.count % 2 ^ 32) ∧
    (∀ n, s.ev = .nat n → ∃ t, exec .losslessRelease s = .next t ∧ t.mem = s.mem ∧ ∀ w ∈ s.groups,
      ((∀ ns, w.park ≠ .lossless ns) ∨ s.tenantNum w.ctx ≠ n ∨ (∃ tn, s.tenant? n = some tn ∧ tn.mode = 2 ∧ tn.shut (w.src 0) = true) → t.group? w.id = some w) ∧
      (∀ ns, w.park = .lossless ns → s.tenantNum w.ctx = n → (∀ tn, s.tenant? n = some tn → tn.mode = 2 → tn.shut (w.src 0) = false) →
        t.group? w.id = some { w with park := .ready })) ∧
    (∀ n tn, s.ev = .nat n → s.tenant? n = some tn → s.fullDue tn = true → ∃ t u, exec .trfullTimeout s = .next t ∧ t.tenant? n = some u ∧ u.mode = 1 ∧
      u.modeRec = some (1, 2, 1) ∧ u.buf = tn.buf ∧ t.groups = s.groups ∧ t.mem = s.mem) ∧
    (∀ q p, s.ev = .nat q → s.trc.picked.find? (fun x => x.quad == q && s.writtenBack x) = some p → ∀ tn, s.tenant? (s.tenantNum p.ctx) = some tn →
      tn.admits (p.src / 4096) 0x18 p.tag = true → tn.admits (p.src / 4096) 0x19 p.tag = true → tn.shut p.src = false →
      (tn.buf.filter fun r => r.src == p.src).length + 2 ≤ Config.traceBuffer → ∃ t u e1 e2,
      exec .samplePick s = .next t ∧ t.groups = s.groups ∧ t.mem = s.mem ∧ t.trc.picked = s.trc.picked.erase p ∧ t.tenant? (s.tenantNum p.ctx) = some u ∧ u.buf = tn.buf ++ [e1, e2] ∧
        field e1.bytes 12 1 = 0x18 ∧ field e2.bytes 12 1 = 0x19 ∧ field e1.bytes 28 2 = field e2.bytes 28 2) ∧
    (∀ v k, s.ev = .word v → s.colPlace 0 (s.trc.tentab.toNat + 64 * (v.toNat % 256)) = some k →
      let b := readBytes s.mem k 64
      let base := field b 0 8
      let logn := field b 8 1
      let mode := field b 9 1
      let ok := base < 2 ^ 57 ∧ base % 128 = 0 ∧ 6 ≤ logn ∧ logn ≤ 24 ∧ mode ≤ 2 ∧ field b 12 4 = 0 ∧ field b 52 12 = 0
      (ok → s.ringOk ((s.col 0).cctx.toNat % 2 ^ 16) base logn = true → ∃ t u, exec .tenupd s = .next t ∧ t.tenant? (v.toNat % 256) = some u ∧ u.base = base ∧
        u.logn = logn ∧ u.mode = mode ∧ u.classes = field b 10 2 ∧ u.kinds = field b 16 32 ∧ u.tagv = field b 48 2 ∧ u.tagm = field b 50 2 ∧
        (∀ n, n ≠ v.toNat % 256 → t.tenant? n = s.tenant? n) ∧ t.groups = s.groups ∧ t.mem = s.mem) ∧
      (¬ok → exec .tenupd s = .next s))

/-! ### The service kernel's steps -/

/-- MEMMAP, MEMUNMAP and MEMPROT (R332), where the tables of the context form a tree and no line is uncorrectable: MEMMAP maps every page of the
length, at an address that was not mapped, with the rights of a2 on a page of its tier; MEMUNMAP unmaps every page that lies in the range; MEMPROT gives
those of the range the rights of a4, and moves a page to the other tier where a4 names it and a frame there is free (R135). Every other mapping stays.
Which address and which frames MEMMAP takes, and the service kernel's own tables, are the model's (log entries 12 and 15).
COMPLETION: it concludes that exec answers a next state (exec i s = .next t), from premises on the state and the operands
alone, for the constructors memmap, memunmap, memprot. -/
def Obligations.MemoryCalls : Prop :=
  ∀ (s : State) (q : SysReq) (g : Group) (r : Fin 64), Distinct s → Serving s q g r →
    let c := s.ctxD g.ctx
    let ans := fun (i : Instr) (x : Int) => ∃ t, exec i s = .next t ∧ Answered q g r (BitVec.ofInt 64 x) t
    let num := q.num.toNat
    let va := q.arg64 0
    let prot := c.cflags.getLsbD 0
    let plain := Sound s ∧ s.poison = [] ∧ s.late = [] ∧ s.aud.reports = [] ∧ s.ctx? g.ctx = some c ∧ TablesApart s c
    let pages := fun (n : Nat) => (n + 4095) / 4096
    (num = 0x01 → let len := q.arg64 0
      (len = 0 ∨ 16 ≤ q.arg 2 → ans .memmap (-2)) ∧
      (len ≠ 0 → q.arg 2 < 16 → ans .memmap (-4) ∨ ∃ (x : Nat) (t : State), exec .memmap s = .next t ∧ Answered q g r (BitVec.ofNat 64 x) t ∧
        x % 4096 = 0 ∧ 2 ^ 20 ≤ x ∧ x + len ≤ 2 ^ 57 ∧ (∀ i, i < pages len → s.unmapped g.ctx (x + 4096 * i) = true) ∧
        (plain → (∀ i, i < pages len → ∃ e at_, t.walk g.ctx (x + 4096 * i) = .leaf 4096 e at_ ∧ Rights (q.arg 2) prot e ∧
            pteTier e = (if (q.arg 2).testBit 2 then 1 else 0) ∧ tierOf (ptePfn e) = some (pteTier e)) ∧
          ∀ v size e at_, s.walk g.ctx v = .leaf size e at_ → t.walk g.ctx v = .leaf size e at_))) ∧
    (num = 0x02 →
      let last := va + 4096 * pages (q.arg64 2)
      let bad := va % 4096 ≠ 0 ∨ q.arg64 2 = 0 ∨ 2 ^ 57 < va + q.arg64 2
      (bad → ans .memunmap (-2)) ∧ (¬bad → ∃ t, exec .memunmap s = .next t ∧ Answered q g r 0 t ∧
        (plain → ∀ v size e at_, s.walk g.ctx v = .leaf size e at_ →
          t.walk g.ctx v = if va ≤ v / size * size ∧ v / size * size + size ≤ last then .fail 0 else .leaf size e at_))) ∧
    (num = 0x03 →
      let last := va + 4096 * pages (q.arg64 2)
      let bad := va % 4096 ≠ 0 ∨ q.arg64 2 = 0 ∨ 2 ^ 57 < last ∨ 16 ≤ q.arg 4
      let ls := s.leaves g.ctx last (pages (q.arg64 2)) va
      let tier := if (q.arg 4).testBit 2 then 1 else 0
      (bad → ans .memprot (-2)) ∧ (¬bad → ls = none → ans .memprot (-7)) ∧
      (¬bad → ls ≠ none → ∃ t, exec .memprot s = .next t ∧ Answered q g r 0 t ∧
        (plain → ∀ v size e at_, s.walk g.ctx v = .leaf size e at_ →
          (v < va ∨ last ≤ v → t.walk g.ctx v = .leaf size e at_) ∧
          (va ≤ v → v < last → ∃ e', Rights (q.arg 4) prot e' ∧ pteGeom e' = pteGeom e ∧ pteFmt e' = pteFmt e ∧
            (t.walk g.ctx v = .leaf size e' at_ ∧ ptePfn e' = ptePfn e ∧ pteTier e' = pteTier e ∨
              pteTier e ≠ tier ∧ pteTier e' = tier ∧ t.walk g.ctx v = .fail 0 ∧ ∃ m ∈ t.moving, m.ctx = g.ctx ∧ m.va ≤ v ∧ v < m.va + m.size ∧ m.leaf = e')))))

/-- The other calls of R332 as the group finds them: an unknown call answers -1, refused arguments -2, a time or peer that does not answer -3, a
device's failure -5, a descriptor that is not one of the kind -6, memory that the context may not access -7, an operation that would wait -8; and a call
that succeeds answers what the table says, with its effect on the context's descriptors, event ring, windows, groups and queues.
The service kernel is modelled as behaviour and its devices lie outside (log entries 12 and 13).
COMPLETION: it concludes that exec answers a next state (exec i s = .next t), from premises on the state and the operands
alone, for the constructors fopen, fclose, fread, fwrite, finfo, fsync, skopen, skconn, sksend, skrecv, skclose, timeget,
timewait, evring, winset, grpctl, qopen, nvmeCompletion. -/
def Obligations.ServiceCalls : Prop :=
  ∀ (s : State) (q : SysReq) (g : Group) (r : Fin 64), Distinct s →
    (Serving s q g r →
      let c := s.ctxD g.ctx
      let ans := fun (i : Instr) (x : Int) => ∃ t, exec i s = .next t ∧ Answered q g r (BitVec.ofInt 64 x) t
      let sub := fun (i : Instr) (file : Nat) (data : List Byte) => ∃ t, exec i s = .next t ∧ Submitted s q g file data t
      let num := q.num.toNat
      let fd := fun (d : Desc) => c.desc? (q.arg 0) = some d ∧ d.socket = false
      let sk := fun (d : Desc) => c.desc? (q.arg 0) = some d ∧ d.socket = true
      let nofd := c.desc? (q.arg 0) = none ∨ ∃ d, sk d
      let nosk := c.desc? (q.arg 0) = none ∨ ∃ d, fd d
      (knownCall num = false → ∀ i ∈ [Instr.memmap, .memunmap, .memprot, .fopen, .fclose, .fread, .fwrite, .finfo, .fsync, .skopen, .skconn, .sksend,
        .skrecv, .skclose, .timeget, .timewait, .evring, .winset, .grpctl, .qopen], ans i (-1)) ∧
      (num = 0x10 → (4 ≤ q.arg 2 → ans .fopen (-2)) ∧ (q.arg 2 < 4 → s.pathBytes g.ctx 4096 (q.arg64 0) = none → ans .fopen (-7)) ∧
        (∀ p, q.arg 2 < 4 → s.pathBytes g.ctx 4096 (q.arg64 0) = some p → sub .fopen 0 (toLE 1 (q.arg 2) ++ p))) ∧
      (num = 0x11 → (nofd → ans .fclose (-6)) ∧ ∀ d, fd d → ∃ t, exec .fclose s = .next t ∧ Answered q g r 0 t ∧
        (t.ctxD g.ctx).descs = c.descs.filter fun x => x.num != q.arg 0) ∧
      (∀ i k acc len, (i, k, acc, len) ∈ [(Instr.fread, 0x12, Acc.write, q.arg 3), (.fwrite, 0x13, .read, q.arg 3), (.finfo, 0x14, .write, 64), (.fsync, 0x15, .read, 0)] →
        num = k → let keys := s.userKeys g.ctx acc (q.arg64 1) len
          (nofd → ans i (-6)) ∧ (∀ d, fd d → k = 0x13 → d.write = false → ans i (-6)) ∧
          (∀ d, fd d → (k = 0x13 → d.write = true) → (keys = none → ans i (-7)) ∧
            ∀ ks s1, keys = some (ks, s1) → sub i d.file (if k = 0x13 then s.readKeys ks else []))) ∧
      (num = 0x20 → (1 < q.arg 0 ∨ 65536 ≤ q.arg 1 → ans .skopen (-2)) ∧
        (q.arg 0 ≤ 1 → q.arg 1 < 65536 → ∃ t n, exec .skopen s = .next t ∧ Answered q g r (BitVec.ofNat 64 n) t ∧ c.desc? n = none ∧
          (t.ctxD g.ctx).descs = c.descs ++ [{ num := n, socket := true, write := true, kind := q.arg 0, port := q.arg 1 }])) ∧
      (num = 0x21 → (nosk → ans .skconn (-6)) ∧ ∀ d, sk d → (65536 ≤ q.arg 3 → ans .skconn (-2)) ∧ (q.arg 3 < 65536 →
        (s.userKeys g.ctx .read (q.arg64 1) 16 = none → ans .skconn (-7)) ∧
        ∀ ks s1, s.userKeys g.ctx .read (q.arg64 1) 16 = some (ks, s1) → (d.kind = 1 ∧ ans .skconn (-3)) ∨ ∃ t, exec .skconn s = .next t ∧ Answered q g r 0 t ∧
          (t.ctxD g.ctx).descs = c.descs.map fun (x : Desc) =>
            if x.num == q.arg 0 then { x with peer := some (leBytes (s1.readKeys ks).reverse, q.arg 3) } else x)) ∧
      (num = 0x22 → (nosk → ans .sksend (-6)) ∧ ∀ d, sk d → (d.peer = none → ans .sksend (-3)) ∧ (d.peer ≠ none →
        (s.userKeys g.ctx .read (q.arg64 1) (q.arg 3) = none → ans .sksend (-7)) ∧
        ∀ ks s1, s.userKeys g.ctx .read (q.arg64 1) (q.arg 3) = some (ks, s1) → ans .sksend (-8) ∨ ∃ t n, n ≤ q.arg 3 ∧ exec .sksend s = .next t ∧
          Answered q g r (BitVec.ofNat 64 n) t ∧ t.mod.replies = s.mod.replies ++ [(3, (s1.readKeys ks).take n)])) ∧
      (num = 0x23 → (nosk → ans .skrecv (-6)) ∧ ∀ d, sk d → let keys := s.userKeys g.ctx .write (q.arg64 1) (q.arg 3)
        (keys = none → ans .skrecv (-7)) ∧ (keys ≠ none → ans .skrecv (-8) ∨ ∃ t, ∃ f ∈ s.net.frames, f.kind = .socket ∧ exec .skrecv s = .next t ∧
          Answered q g r (BitVec.ofNat 64 (f.bytes.take (q.arg 3)).length) t ∧ t.net.frames.length + 1 = s.net.frames.length)) ∧
      (num = 0x24 → (nosk → ans .skclose (-6)) ∧ ∀ d, sk d → ∃ t, exec .skclose s = .next t ∧ Answered q g r 0 t ∧
        (t.ctxD g.ctx).descs = c.descs.filter fun x => x.num != q.arg 0) ∧
      (num = 0x30 → (q.arg 0 = 0 → ans .timeget s.time) ∧ (q.arg 0 = 1 → s.mod.utc = none ∨ s.mod.utc = some 37 → ans .timeget s.time) ∧
        (∀ d : Nat, q.arg 0 = 1 → s.mod.utc = some d → ans .timeget (s.time - 16000000000 * (d - 37 : Int))) ∧ (1 < q.arg 0 → ans .timeget (-2))) ∧
      (num = 0x31 → (q.since + 16 * q.arg64 0 ≤ s.time → ans .timewait 0) ∧ (s.time < q.since + 16 * q.arg64 0 → exec .timewait s = .next s)) ∧
      (num = 0x40 → let va := q.arg64 0
        (va % 16 ≠ 0 → ans .evring (-2)) ∧ (va % 16 = 0 → (s.userKeys g.ctx .read va 16 = none → ans .evring (-7)) ∧
          ∀ ks s1, s.userKeys g.ctx .read va 16 = some (ks, s1) → let h := Hdr.of (leBytes (s1.readKeys ks))
            (h.ok = false ∨ h.logs ≠ 6 → ans .evring (-2)) ∧ (h.ok = true → h.logs = 6 →
              ∃ t, exec .evring s = .next t ∧ Answered q g r 0 t ∧ (t.ctxD g.ctx).evring = BitVec.ofNat 64 va))) ∧
      (num = 0x41 → ∀ tm, s.teamOf g = some tm →
        let n := q.arg 0
        let w := winOf (q.arg 1) (q.arg 2) (q.arg 3) (q.arg 4)
        let ok := 1 ≤ n ∧ n ≤ 7 ∧ q.arg 1 < 2 ^ 19 ∧ q.arg 2 < 2 ^ 19 ∧ bitsOf (q.arg 3) 15 6 = 0 ∧ q.arg 4 < 2 ^ 19 ∧ fmtOk (bitsOf (q.arg 3) 3 0) = true ∧
          bitsOf (q.arg 3) 5 4 ≠ 3 ∧ tm.winOk w = true
        (¬ok → ans .winset (-2)) ∧ (ok → ∃ t u, exec .winset s = .next t ∧ Answered q g r 0 t ∧ t.teamOf g = some u ∧
          ∀ i, u.windows.getD i 0 = if i = n then w else tm.windows.getD i 0)) ∧
      (num = 0x42 → (s.heldGroup g.ctx (q.arg 0) (q.arg 1) = none ∨ 2 < q.arg 2 → ans .grpctl (-2)) ∧
        ∀ h e, s.heldGroup g.ctx (q.arg 0) (q.arg 1) = some (h, e) → h.rest = none → q.arg 2 ≤ 2 → ∃ t, exec .grpctl s = .next t ∧ Answered q g r 0 t ∧
          (q.arg 2 = 0 → h.mask ≠ 0 → ∃ k, t.group? h.id = some k ∧ k.park = .ready ∧ k.redo = (if ((s.peek h).map Peek.perLane).getD false then some h.mask else none) ∧ k.pc = h.pc) ∧
          (q.arg 2 = 1 → ∃ k, t.group? h.id = some k ∧ k.pc = h.pnext ∧ k.sregs = h.sregs) ∧
          (q.arg 2 = 2 → t.group? h.id = none)) ∧
      (num = 0x43 → (s.userKeys g.ctx .write (q.arg64 0) 64 = none → ans .qopen (-7)) ∧
        ∀ ks s1, s.userKeys g.ctx .write (q.arg64 0) 64 = some (ks, s1) → (s1.register g.ctx false true (q.arg64 0) = none → ans .qopen (-2)) ∧
          ∀ n s2, s1.register g.ctx false true (q.arg64 0) = some (n, s2) → ∃ t, exec .qopen s = .next t ∧ Answered q g r (BitVec.ofNat 64 n) t ∧
            ∃ y ∈ t.queues, y.num = n ∧ y.ctx = g.ctx ∧ y.desc = q.arg64 0 ∧ y.ph = .idle)) ∧
    (∀ x n, s.ev = .nvme x → s.mod.nvme.find? (fun p => p.1 == x.cmd) = some (n, g.ctx) → s.sys.find? (fun y => y.dev == some n) = some q →
      s.group? q.gid = some g →
      let ok := x.sct = 0 ∧ x.sc = 0
      let ans := fun (y : Int) => ∃ t, exec .nvmeCompletion s = .next t ∧ Answered q g r (BitVec.ofInt 64 y) t
      ((s.ctxD g.ctx).stop = .stopped → ∃ t, exec .nvmeCompletion s = .next t ∧ x ∈ t.mod.nvmeHeld ∧ t.groups = s.groups ∧ t.sys = s.sys ∧ t.mem = s.mem) ∧
      (g.park = .trapc (.v r) → g.mask = q.lanes → g.rest = none → (s.ctxD g.ctx).stop ≠ .stopped → s.moves g.ctx = false → s.late = [] →
        (¬ok → ans (-5)) ∧
        (ok → (q.num = 0x13 → ans (q.arg 3)) ∧ (q.num = 0x15 → ans 0) ∧ (q.num = 0x10 → x.data = [] → q.arg 2 < 2 → ans (-3)) ∧
          (q.num = 0x10 → x.data ≠ [] ∨ 2 ≤ q.arg 2 → ∃ t d, exec .nvmeCompletion s = .next t ∧ Answered q g r (BitVec.ofNat 64 d.num) t ∧ d.socket = false ∧
            d.file = n ∧ d.write = (q.arg 2).testBit 0 ∧ (t.ctxD g.ctx).descs = (s.ctxD g.ctx).descs ++ [d]) ∧
          (q.num = 0x12 → ∀ ks s1, let b := x.data.take (q.arg 3)
            s.userKeys g.ctx .write (q.arg64 1) b.length = some (ks, s1) → ks.Nodup → Sound s1 → ∃ t, exec .nvmeCompletion s = .next t ∧
              Answered q g r (BitVec.ofNat 64 b.length) t ∧ ks.map (readByte t.mem) = b ∧ ∀ k, k ∉ ks → readByte t.mem k = readByte s1.mem k) ∧
          (q.num = 0x14 → ∀ ks s1, s.userKeys g.ctx .write (q.arg64 1) 64 = some (ks, s1) → ks.Nodup → Sound s1 → ∃ t, exec .nvmeCompletion s = .next t ∧
              Answered q g r 0 t ∧ ks.map (readByte t.mem) = (x.data ++ List.replicate 64 0).take 64 ∧ ∀ k, k ∉ ks → readByte t.mem k = readByte s1.mem k))))

/-- Stops of a context and their end (R36, R37, R317, R334, R335), its time slice (R32), the end of merge entries and the reinitialisation of barriers (R314),
key slots (R342), the monitor's two key calls, CTIMER and event-ring records (R308, R329), the packets of launch queues (R30, R31, R348) and the host's
registers, commands and requests (R152, R427).
The service kernel is modelled as behaviour and placement is free; that an event whose condition does not hold answers the same state, CCMD 4 and wait-table slots, and numbers are the model's (log entries 12, 19, 20, 22, 36 and 38).
COMPLETION: it concludes that exec answers a next state (exec i s = .next t), from premises on the state and the operands
alone, for the constructors barwait, barpay, hostMemoryRequest, hostRegisterWrite, hcmddWrite, dbellWrite, qreg, qunreg, qclear,
softStopTimeout, timeSliceExpiry, ctimerExpiry, eventRingRecordWrite, queuePoll, resumePacket, signalPacket, waitPacket,
markPacket, notePacket, softStop, hardStop, hardStopComplete, resumeIssue, releasePlaces, mresolve, barreinit, keyDraw,
keyErase, keyInstall, monitorKey, monitorErase. -/
def Obligations.ContextAndQueueEvents : Prop :=
  ∀ (s : State), Distinct s →
    let subs := fun (t : State) => t.mod.cmds = s.mod.cmds ++ [s.mod.hcmda.toNat / 128 * 128] ∧ t.mod.hcmds.toNat % 2 ^ 32 = (s.mod.hcmds.toNat + 1) % 2 ^ 32 ∧
      t.mod.hcmds.toNat / 2 ^ 32 = s.mod.hcmds.toNat / 2 ^ 32 ∧ t.mem = s.mem
    (∀ ctx, s.ev = .nat ctx →
      let c := s.ctxD ctx
      let goes := fun (i : Instr) (d : Context) => ∃ t, exec i s = .next t ∧ t.ctxD ctx = d ∧ t.groups = s.groups ∧ t.mem = s.mem
      let rsoft := (s.col (c.chome % 48)).rsoft.toNat
      (c.stop = .none → goes .softStop { c with stop := if rsoft = 0 then .hard else .soft s.time rsoft }) ∧
      (c.stop ≠ .none → exec .softStop s = .next s) ∧
      (c.stop ≠ .stopped → goes .hardStop { c with stop := .hard }) ∧
      (c.stop = .hard → s.quiet ctx = true → s.late = [] → goes .hardStopComplete { c with stop := .stopped }) ∧
      (c.stop = .hard → s.quiet ctx = false → exec .hardStopComplete s = .next s) ∧
      (∀ since r, c.stop = .soft since r → since + 16 * r ≤ s.time → goes .softStopTimeout { c with stop := .hard }) ∧
      (c.stop ≠ .none → (∀ v ∈ s.saved, v.ctx ≠ ctx) → (∀ g ∈ s.groups, g.ctx = ctx → g.stage = 0) → goes .resumeIssue { c with stop := .none, kstop := false }) ∧
      (c.stop = .stopped → c.kstop = false → ∃ t, exec .releasePlaces s = .next t ∧ t.groups = s.groups.filter (fun g => g.ctx != ctx) ∧
        t.teams = s.teams.filter (fun x => x.ctx != ctx) ∧ t.mem = s.mem ∧
        (t.ctxD ctx).away = c.away ++ (s.teams.filter fun x => x.ctx == ctx && !x.retired).map fun x => (x.pos, x.launch, x.pktQueue, x.pktIdx)) ∧
      (c.stop = .stopped → c.kstop = true → ∃ t, exec .releasePlaces s = .next t ∧ t.groups = s.groups.filter (fun g => g.ctx != ctx) ∧ t.mem = s.mem ∧
        t.saved = s.saved ++ (s.teams.filter fun x => x.ctx == ctx && !x.retired).map s.saveTeam) ∧
      (s.sliceDue c = true → s.rivals ctx c.clevel.toNat = true → s.preempting = false →
        goes .timeSliceExpiry { c with stop := if rsoft = 0 then .hard else .soft s.time rsoft, kstop := true }) ∧
      (s.sliceDue c = true → s.rivals ctx c.clevel.toNat = false → goes .timeSliceExpiry { c with slice := s.time })) ∧
    (∀ v m, s.ev = .word v → s.merges.find? (fun x => x.num == v.toNat % 4096) = some m → s.aud.reports = [] → ∃ t, exec .mresolve s = .next t ∧
      t.merges = s.merges.filter (fun x => x.num != v.toNat % 4096) ∧ ∀ w es, w ∈ s.groups → w.park = .transl es → v.toNat % 4096 ∈ es →
        ∃ h, t.group? w.id = some h ∧ h.pc = w.pc ∧ h.sregs = w.sregs ∧ h.lanes = w.lanes ∧ h.mask = w.mask ∧
          (v.getLsbD 63 = false → h.park = .transl (es.filter (· != v.toNat % 4096))) ∧ (v.getLsbD 63 = true → ∃ r, h.park = .held r ∧ r.code = 0x0B ∧ r.cause = m.cause)) ∧
    (∀ k v tm, s.ev = .natWord k v → s.teams[k]? = some tm → tm.retired = false →
      let n := v.toNat % 64
      let cnt := bitsOf v.toNat 25 16
      (cnt ≠ 0 → n < tm.bcnt → s.team? tm.ctx tm.tlin = some tm → ∃ t u, exec .barreinit s = .next t ∧ t.team? tm.ctx tm.tlin = some u ∧
        u.bar n = { tm.bar n with gen := ((tm.bar n).gen + 1) % 64, cnt := cnt, pend := cnt, tx := 0, err := false, ovr := false, pval := false, pay := 0, pays := []
                                  outs := (tm.bar n).ends 0 } ∧
        (∀ j, j ≠ n → u.bar j = tm.bar j) ∧ t.mem = s.mem ∧
        (Prompt s tm.ctx → let k := (tm.bar n).gen
          (∀ w ∈ s.groups, w.ctx = tm.ctx → w.tlin = tm.tlin → w.rest = none → ∀ d,
            (w.park = .barwait n k d → Resumed w (sResult d (BitVec.ofNat 64 (0x09 + k * 256))) t) ∧ (w.park = .barpay n k d → Resumed w (sResult d 0) t)) ∧
          ∀ p ∈ tm.phases, p.bar = n → p.gen = k → ∃ x ∈ u.phases, x.slot = p.slot ∧ x.ended.isSome = true)) ∧
      (cnt = 0 ∨ tm.bcnt ≤ n → exec .barreinit s = .next s)) ∧
    (∀ n, s.ev = .nat n → n < 48 → (s.col n).priv = .monitor → 1 ≤ (s.col n).kslot.toNat → (s.col n).kslot.toNat ≤ 1023 →
      let slot := (s.col n).kslot.toNat
      let goes := fun (i : Instr) (ok : KeySlot → State → Prop) => ∃ t, exec i s = .next t ∧ ok (t.key slot) t ∧ (∀ j, j ≠ slot → t.key j = s.key j) ∧ t.groups = s.groups ∧ t.mem = s.mem
      goes .keyDraw (fun k _ => k.valid = true ∧ k.ctr = 0 ∧ k.owner = (s.col n).kown.toNat % 2 ^ 16) ∧
      goes .keyErase (fun k _ => k = {}) ∧
      goes .keyInstall (fun k t => k = { key := (List.range 4).foldl (fun x i => x + ((s.col n).key.getD i 0).toNat * 2 ^ (64 * i)) 0, ctr := 0, owner := (s.col n).kown.toNat % 2 ^ 16, valid := true } ∧ (t.col n).key = Vector.replicate 4 0)) ∧
    (∀ n q r, Monitors s n 1 q r →
      ((∀ i, 0 < i → i < 1024 → (s.key i).valid = true) → ∃ t, exec .monitorKey s = .next t ∧ MonServed s n r (BitVec.ofInt 64 (-4)) t) ∧
      (∀ i, 0 < i → i < 1024 → (s.key i).valid = false → ∃ t j, exec .monitorKey s = .next t ∧ MonServed s n r (BitVec.ofNat 64 j) t ∧ 0 < j ∧ j < 1024 ∧
        (s.key j).valid = false ∧ (t.key j).valid = true ∧ (t.key j).ctr = 0 ∧ (t.key j).owner = q.arg 0 % 65536 ∧ ∀ l, l ≠ j → t.key l = s.key l)) ∧
    (∀ n q r, Monitors s n 2 q r →
      (1 ≤ q.arg 0 → q.arg 0 ≤ 1023 → ∃ t, exec .monitorErase s = .next t ∧ MonServed s n r 0 t ∧ t.key (q.arg 0) = {} ∧ ∀ l, l ≠ q.arg 0 → t.key l = s.key l) ∧
      (q.arg 0 = 0 ∨ 1024 ≤ q.arg 0 → ∃ t, exec .monitorErase s = .next t ∧ MonServed s n r (BitVec.ofInt 64 (-2)) t ∧ t.keys = s.keys)) ∧
    (∀ n, s.ev = .nat n → n < 48 →
      (s.timerDue n = true → ∃ t, exec .ctimerExpiry s = .next t ∧ t.col n = { s.col n with cstat := (s.col n).cstat ||| 0x20, timed := true } ∧ t.groups = s.groups) ∧
      (∀ e rest k, (s.col n).held = e :: rest → (s.col n).ringRoom = true → s.colPlace n ((s.col n).cevb.toNat + (s.col n).evw % 4096 * 64) = some k → Sound s →
        ∃ t, exec .eventRingRecordWrite s = .next t ∧ readBytes t.mem k 64 = e.bytes ((s.col n).evw.testBit 12) ∧ (t.col n).evw = (s.col n).evw + 1 ∧
          (t.col n).held = rest ∧ ∀ j, j < k ∨ k + 64 ≤ j → readByte t.mem j = readByte s.mem j)) ∧
    (∀ i n q k s1, (i = .queuePoll ∨ i = .dbellWrite) ∧ s.ev = .nat n ∨ i = .hostRegisterWrite ∧ n < 3072 ∧ (∃ v, s.ev = .bar { width := 8, off := 0x10000 + 8 * n, val := some v }) →
      s.queue? n = some q → q.ph = .idle → q.err = false → s.mod.boot = .ready → s.qKey q .read (q.ring + 64 * (q.idx.toNat % 2 ^ q.n)) = some (k, true, s1) →
      let b := readBytes s1.mem k 64
      ((field b 0 4).testBit 8 ≠ q.idx.toNat.testBit q.n → ∃ t, exec i s = .next t ∧ t.queues = s.queues ∧ t.mem = s1.mem) ∧
      ((field b 0 4).testBit 8 = q.idx.toNat.testBit q.n → packetOk b = true → ∃ t, exec i s = .next t ∧ t.mem = s1.mem ∧ t.groups = s.groups ∧
        t.queue? n = some { q with pkt := b, ph := .taken (if field b 0 1 = 1 then (s.ctxD q.ctx).launches else 0) }) ∧
      ((field b 0 4).testBit 8 = q.idx.toNat.testBit q.n → packetOk b = false → s.late = [] → q.unreg = none → ∃ t u, exec i s = .next t ∧ t.groups = s.groups ∧
        t.queue? n = some u ∧ u.err = true ∧ u.ph = .idle ∧ u.idx = q.idx)) ∧
    (∀ n q, s.ev = .nat n → s.queue? n = some q →
      (∀ launch, q.ph = .taken launch →
        (q.kind = 4 → PacketEnds (s.traceCol q.ctx q.home 0x55 ((q.pkt.drop 8).take 16)) q .markPacket s) ∧
        (q.kind = 5 → PacketEnds s q .notePacket s) ∧
        (∀ k c s1, q.kind = 2 → s.late = [] → q.word 8 % 8 = 0 → (s.fenceStreams (.col q.home) q.rel).ctxKey q.ctx .atomic (q.word 8) = some (k, c, s1) → Sound s1 →
          ∃ s2, (s.fenceStreams (.col q.home) q.rel).signal q (q.word 8) (q.word 16) = some s2 ∧
            Wrote s1.mem k 8 ((readLE s1.mem k 8 + q.word 16) % 2 ^ 64) s2 ∧ PacketEnds s2 q .signalPacket s) ∧
        (∀ k c s1, q.kind = 3 → s.late = [] → q.word 8 % 8 = 0 → s.ctxKey q.ctx .atomic (q.word 8) = some (k, c, s1) → Sound s1 →
          let old := readLE s1.mem k 8
          ((∀ w ∈ s.waiters, w.key ≠ k) → q.word 16 ≤ old → ∃ s2, s.testQueue q (fun j => s.waiters.all fun w => w.key != j) = some (true, k, s2) ∧
            Wrote s1.mem k 8 (old - q.word 16) s2 ∧ PacketEnds s2 q .waitPacket s) ∧
          ((∃ w ∈ s.waiters, w.key = k) ∨ old < q.word 16 → ∃ t y, exec .waitPacket s = .next t ∧ t.mem = s1.mem ∧ t.queue? n = some { q with ph := .waiting } ∧
            t.waiters = s.waiters ++ [y] ∧ y.gid = none ∧ y.queue = n ∧ y.key = k ∧ y.n = BitVec.ofNat 64 (q.word 16))) ∧
        (∀ s0 e, q.kind = 1 → s.late = [] → q.unreg = none → s.selectSlot q = none ∨ s.selectSlot q = some s0 ∧ s0.openHead q = some (.error e) → ∃ t u, exec .resumePacket s = .next t ∧ t.groups = s.groups ∧
          t.queue? n = some u ∧ u.err = true ∧ u.ph = .idle ∧ u.idx = q.idx) ∧
        (∀ b s0 s1 s2 plan, q.kind = 1 → s.late = [] → s.selectSlot q = some s0 → s0.openHead q = some (.ok b) → (field b 0 1).testBit 0 = true →
          s0.takeTable q.ctx (q.word 32) = some s1 → initialOk b = true → (s1.ctxD q.ctx).stop = .none →
          let c := choosePbase s1.tick (ctxOfBody (s1.ctxD q.ctx) b)
          s1.grantChip c q.level (roundChip (field b 60 4)) = some s2 →
          let k := min c.clusters (s1.maxClusters c)
          planFrom s1.tick (List.replicate k (s1.rootDemand c)) 0 [] = some plan → ∃ t, exec .resumePacket s = .next t ∧
            t.queue? n = some { q with ph := .running launch k, img := b } ∧ ∀ h ∈ t.groups, h ∈ s.groups ∨
              h.ctx = q.ctx ∧ h.pc = pcOf (BitVec.ofNat 64 (field b 24 8)) ∧ h.width = widthOf c.rwidth ∧ h.gmode = BitVec.ofNat 32 (field b 32 4) ∧
              h.fctl = BitVec.ofNat 32 (field b 36 4) &&& modeBits 3 ∧ h.pri = BitVec.ofNat 3 (field b 42 1) ∧ (∀ i : Fin 32, h.getS i.val = BitVec.ofNat 64 (field b (64 + 8 * i.val) 8)) ∧
              h.home = h.root * widthOf c.rwidth ∧ h.launch = launch ∧ h.park = .ready)) ∧
      (∀ launch next, q.kind = 1 → q.ph = .running launch next → ((field q.img 0 1).testBit 0 = false ∨ field q.img 20 4 ≤ next) →
        (s.launchOver q launch = true → PacketEnds s q .resumePacket s) ∧ (s.launchOver q launch = false → exec .resumePacket s = .next s)) ∧
      (∀ launch next plan, let c := ctxOfBody (s.ctxD q.ctx) q.img
        q.kind = 1 → q.ph = .running launch next → (field q.img 0 1).testBit 0 = true → next < field q.img 20 4 → c.stop = .none →
        planFrom s.tick [s.rootDemand c] 0 [] = some plan → ∃ t, exec .resumePacket s = .next t ∧ t.queue? n = some { q with ph := .running launch (next + 1) })) ∧
    (∀ a rest, s.mod.cmds = a :: rest → s.mod.boot = .ready → s.late = [] →
      let s0 : State := { s with mod := { s.mod with cmds := rest } }
      let c := s.readCmd a
      (c.op ≠ 1 → c.op ≠ 2 → c.op ≠ 3 → Sound s → ∃ t, exec .qreg s = .next t ∧ CmdDone s c (-1) s.mem t ∧ t.queues = s.queues) ∧
      (c.op = 1 → let asp := field c.blk 16 2
        (s0.register asp (asp == 0) false (field c.blk 8 8) = none → Sound s → ∃ t, exec .qreg s = .next t ∧ CmdDone s c (-2) s.mem t ∧ t.queues = s.queues) ∧
        ∀ n s1, s0.register asp (asp == 0) false (field c.blk 8 8) = some (n, s1) → Sound s1 → ∃ t, exec .qreg s = .next t ∧ CmdDone s c n s1.mem t ∧
          ∃ y ∈ t.queues, y.num = n ∧ y.desc = field c.blk 8 8 ∧ y.ph = .idle) ∧
      (c.op = 2 → Sound s →
        (s.queue? (field c.blk 8 2) = none → ∃ t, exec .qunreg s = .next t ∧ CmdDone s c (-2) s.mem t ∧ t.queues = s.queues) ∧
        ∀ q, s.queue? (field c.blk 8 2) = some q → (q.unreg ≠ none → ∃ t, exec .qunreg s = .next t ∧ CmdDone s c (-2) s.mem t ∧ t.queues = s.queues) ∧ (q.unreg = none →
          (q.ph = .idle ∨ q.ph = .waiting ∨ q.kind = 3 → ∃ t, exec .qunreg s = .next t ∧ CmdDone s c 0 s.mem t ∧ t.queue? q.num = none) ∧
          (q.ph ≠ .idle → q.ph ≠ .waiting → q.kind ≠ 3 → ∃ t, exec .qunreg s = .next t ∧ t.queue? q.num = some { q with unreg := some c } ∧ t.mem = s.mem ∧
            t.mod.hcmds = s.mod.hcmds))) ∧
      (c.op = 3 →
        ((∀ q, s.queue? (field c.blk 8 2) = some q → q.err = false) → Sound s → ∃ t, exec .qclear s = .next t ∧ CmdDone s c (-2) s.mem t ∧ t.queues = s.queues) ∧
        ∀ q k co s1, s.queue? (field c.blk 8 2) = some q → q.err = true → s0.qKey q .write q.desc = some (k, co, s1) → Sound s1 →
          ∃ t s2, exec .qclear s = .next t ∧ Wrote s1.mem (k + 14) 2 0 s2 ∧ CmdDone s c 0 s2.mem t ∧
            t.queue? q.num = some { q with err := false, ph := .idle, idx := BitVec.ofNat 32 (readLE s1.mem (k + 16) 4) })) ∧
    (∀ v, s.ev = .word v → ∃ t, exec .hcmddWrite s = .next t ∧ subs t) ∧
    (∀ w, s.ev = .bar w →
        (w.width ≠ 8 ∨ w.off % 8 ≠ 0 ∨ 2 ^ 20 ≤ w.off → ∃ t, exec .hostRegisterWrite s = .next t ∧ t.mod = { s.mod with replies := s.mod.replies ++ [(2, [])] }) ∧
        (w.width = 8 → w.off % 8 = 0 → w.off < 2 ^ 20 →
          (∀ v, w.val = some v →
            (w.off = 0x10 → ∃ t, exec .hostRegisterWrite s = .next t ∧ t.mod = { s.mod with hcmda := v }) ∧ (w.off = 0x18 → ∃ t, exec .hostRegisterWrite s = .next t ∧ subs t) ∧
            (w.off = 0x28 → ∃ t, exec .hostRegisterWrite s = .next t ∧ t.mod = { s.mod with hevt := s.mod.hevt &&& ~~~v }) ∧
            (w.off ∉ [0x10, 0x18, 0x28] → w.off < 0x10000 ∨ 0x16000 ≤ w.off → exec .hostRegisterWrite s = .next s)) ∧
          (∀ x : W64, w.val = none → (w.off, x) ∈ [(0, s.mod.modid), (8, s.mod.hstat), (0x10, s.mod.hcmda), (0x18, 0), (0x20, s.mod.hcmds), (0x28, s.mod.hevt)] ∨ 0x30 ≤ w.off ∧ x = 0 →
            ∃ t, exec .hostRegisterWrite s = .next t ∧ t.mod = { s.mod with replies := s.mod.replies ++ [(0, toLE 8 x.toNat)] } ∧ t.mem = s.mem))) ∧
    (∀ r, s.ev = .hostReq r →
      let len := (r.data.map List.length).getD r.len
      let pages := (List.range ((r.addr % 4096 + len + 4095) / 4096)).map fun i => r.addr / 4096 * 4096 + 4096 * i
      let here := ∀ p ∈ pages, (tierOf p).isSome = true
      let open_ := ∀ p ∈ pages, ∀ e ∈ s.mapping p, ptePctx e = false
      ((∃ p ∈ pages, tierOf p = none) → ∃ t, exec .hostMemoryRequest s = .next t ∧ t.mem = s.mem ∧ t.mod.replies = s.mod.replies ++ [(2, [])]) ∧
      (here → (∃ p ∈ pages, ∃ e ∈ s.mapping p, ptePctx e = true) → ∃ t, exec .hostMemoryRequest s = .next t ∧ t.mem = s.mem ∧ t.mod.replies = s.mod.replies ++ [(1, [])]) ∧
      (∀ d, here → open_ → r.data = some d → Sound s → ∃ t, exec .hostMemoryRequest s = .next t ∧ readBytes t.mem r.addr d.length = d ∧
        ∀ k, k < r.addr ∨ r.addr + d.length ≤ k → readByte t.mem k = readByte s.mem k) ∧
      (here → open_ → r.data = none → (∀ p ∈ pages, ∀ e ∈ s.mapping p, pteCoh e = true) → ∃ t, exec .hostMemoryRequest s = .next t ∧ t.mem = s.mem ∧
        t.mod.replies = s.mod.replies ++ [(0, readBytes s.mem r.addr r.len)]))

/-! ### The network -/

/-- What the network engine does with packets that arrive (R353, R358, R359, R363 to R366, R370 to R373, R376) and as sender (R354, R355, R375): a packet that
is not valid is dropped and counted; one for a closed window, a wrong key, a missing right or a length beyond the window is refused with its
status; data is written, added or exchanged where the window says, and acknowledged; replies move the sender's operations on, and what is not
answered in time is sent again, or ends.
Other modules lie outside, and the points of log entry 17 are the model's.
COMPLETION: it concludes that exec answers a next state (exec i s = .next t), from premises on the state and the operands
alone, for the constructors ethernetOtherFrame, putPacket, putiPacket, addPacket, getreq, getrsp, atomreq, atomrsp, ack, nak,
busy, openPacket, openack, connectionContextFetched, messageTransmit, retransmitTimeout, busyRetry, networkDeadline,
reassemblyAbandon, heldNotificationWrite, notificationHoldExpiry, pyxlinkPacketDropped. -/
def Obligations.NetworkEvents : Prop :=
  ∀ (s : State), Distinct s →
    (∀ i k p, (i, k) ∈ [(Instr.putPacket, PktKind.put), (.putiPacket, .puti), (.addPacket, .add), (.getreq, .getreq), (.getrsp, .getrsp), (.atomreq, .atomreq),
      (.atomrsp, .atomrsp), (.ack, .ack), (.nak, .nak), (.busy, .busy), (.openPacket, .openReq), (.openack, .openack)] → s.ev = .pkt p → pktOk p k = false →
      ∃ t, exec i s = .next t ∧ t.net = { s.net with dropped := s.net.dropped + 1 } ∧ t.mem = s.mem ∧ t.groups = s.groups) ∧
    (∀ i k port addr src ce b ps, (i, k) ∈ [(Instr.putPacket, PktKind.put), (.putiPacket, .puti), (.addPacket, .add), (.getreq, .getreq), (.getrsp, .getrsp), (.atomreq, .atomreq),
      (.atomrsp, .atomrsp), (.ack, .ack), (.nak, .nak), (.busy, .busy), (.openPacket, .openReq), (.openack, .openack)] → s.ev = .udp port addr src ce b ps →
      pktOf port addr src ce b = none ∨ (∃ p, pktOf port addr src ce b = some p ∧ p.kind = k ∧ pktOk p k = false) →
      ∃ t, exec i s = .next t ∧ t.net = { s.net with dropped := s.net.dropped + 1 } ∧ t.mem = s.mem ∧ t.groups = s.groups) ∧
    (∃ t, exec .pyxlinkPacketDropped s = .next t ∧ t.net = { s.net with dropped := s.net.dropped + 1 } ∧ t.mem = s.mem ∧ t.groups = s.groups) ∧
    (∀ f, s.ev = .frame f → ∃ t, exec .ethernetOtherFrame s = .next t ∧ t.net = { s.net with frames := s.net.frames ++ [f] } ∧ t.mem = s.mem ∧ t.groups = s.groups) ∧
    (∀ i k p s0, (i, k) ∈ [(Instr.putPacket, PktKind.put), (.putiPacket, .puti), (.addPacket, .add), (.getreq, .getreq), (.atomreq, .atomreq)] → Arrives s p k s0 →
      let refused := fun (c : RxConn) (kind : PktKind) (status : Nat) => ∃ t, exec i s = .next t ∧ Replied s0 t c p kind status false ∧ t.mem = s0.mem ∧ t.groups = s0.groups
      (s0.net.rx.find? (fun x => x.num == p.dconn) = none → ∃ t, exec i s = .next t ∧ t.net = { s0.net with dropped := s0.net.dropped + 1 } ∧ t.mem = s0.mem) ∧
      (∀ c, s0.net.rx.find? (fun x => x.num == p.dconn) = some c → s0.ctx? c.ctx = none → refused c .busy 1) ∧
      (∀ c, FirstOf s0 p c →
        ((s0.ctxD c.ctx).win? p.win = none → refused c .busy 2) ∧
        ∀ w, (s0.ctxD c.ctx).win? p.win = some w → w.gen ≠ 0 →
          (p.gen ≠ w.gen ∨ p.gen % 2 = 0 → refused c .nak 3) ∧
          (p.gen = w.gen → p.gen % 2 = 1 → p.key ≠ w.key → refused c .nak 4) ∧
          (p.gen = w.gen → p.gen % 2 = 1 → p.key = w.key → w.perm.testBit (needs k) = false → refused c .nak 5) ∧
          (p.gen = w.gen → p.gen % 2 = 1 → p.key = w.key → w.perm.testBit (needs k) = true → w.len < pktReach p → refused c .nak 6))) ∧
    (∀ p s0 c w, Admitted s0 p c w → s0.late = [] →
      (∀ i k ks s1, (i, k) ∈ [(Instr.putPacket, PktKind.put), (.putiPacket, .puti)] → (k = .puti → p.pcnt ≠ 1) → Arrives s p k s0 → s0.poison = [] →
        s0.netKeys c.ctx .write ((List.range p.plen).map fun j => w.base + p.roff + j) (fun _ => false) = (.ok ks, s1) → Sound s1 → (ks.map Prod.fst).Nodup →
        ∃ t, exec i s = .next t ∧ Performed s0 p c w t ∧
          (s0.lag = false → (ks.map fun x => readByte t.mem x.1) = p.payload ∧ ∀ j, j ∉ ks.map Prod.fst → readByte t.mem j = readByte s1.mem j) ∧
          (s0.lag = true → p.pcnt ≠ 1 → t.mem = s1.mem ∧ ∀ (j : Nat) (x : Nat × Bool), ks[j]? = some x → ∃ y ∈ t.late, y.cls = 3 ∧ ∃ cs b, y.deed = .cells cs ∧ p.payload[j]? = some b ∧ (x.1, b) ∈ cs)) ∧
      (∀ k coh q qc s1 s2, Arrives s p .puti s0 → p.plen = 0 → p.pcnt = 1 → p.sig = false → w.notif ≠ 0 → w.notif % 16 = 0 →
        s0.netKeys c.ctx .atomic [w.notif] (fun _ => false) = (.ok [(k, coh)], s1) →
        let h := Hdr.of (readLE s1.mem k 16)
        h.ok = true → h.logs = 4 → h.used < 2 ^ h.logn → s1.netKeys c.ctx .write [w.notif + h.slotOff h.res] (fun _ => false) = (.ok [(q, qc)], s2) → Sound s2 →
        q + 16 ≤ k ∨ k + 16 ≤ q → ∃ t, exec .putiPacket s = .next t ∧ Replied s0 t c p .ack 0 true ∧ Hdr.of (readLE t.mem k 16) = { h with res := (h.res + 1) % 2 ^ 32 } ∧
          readLE t.mem q 4 = h.phase h.res + c.rank % 2 ^ 16 * 2 ^ 16 ∧ readLE t.mem (q + 4) 4 = 0 ∧ readLE t.mem (q + 8) 8 = p.ext0) ∧
      (let t0 := Ty.ofCode p.optTy
       let z : Nat := if t0 = .b16 then 2 else 4
       ∀ ks s1, Arrives s p .add s0 → (w.base + p.roff) % z = 0 → p.plen % z = 0 →
        s0.netKeys c.ctx .atomic ((List.range (p.plen / z)).map fun j => w.base + p.roff + z * j) (fun _ => false) = (.ok ks, s1) → Sound s1 →
        (ks.map Prod.fst).Pairwise (fun x y => x + z ≤ y ∨ y + z ≤ x) → ∃ t, exec .addPacket s = .next t ∧ Performed s0 p c w t ∧
          (∀ j x, ks[j]? = some x → readLE t.mem x.1 z = faddRne t0 (readLE s1.mem x.1 z) (field p.payload (z * j) z) % 2 ^ (8 * z)) ∧
          ∀ j, (∀ x ∈ ks, j < x.1 ∨ x.1 + z ≤ j) → readByte t.mem j = readByte s1.mem j) ∧
      (let t0 := Ty.ofCode p.optTy
       let z : Nat := t0.size
       ∀ k coh s1, Arrives s p .atomreq s0 → (w.base + p.roff) % z = 0 → s0.netKeys c.ctx .atomic [w.base + p.roff] (fun _ => false) = (.ok [(k, coh)], s1) → Sound s1 →
        let old := readLE s1.mem k z
        ∃ t, exec .atomreq s = .next t ∧ Wrote s1.mem k z (atomNew p.optOp t0 old (p.ext0 % 2 ^ (8 * z)) (p.ext1 % 2 ^ (8 * z)) % 2 ^ (8 * z)) t ∧
          ∃ r, Sent s0 t r ∧ r.kind = .atomrsp ∧ r.dconn = c.senderId ∧ r.msn = p.msn ∧ r.ext0 = old) ∧
      (Arrives s p .getreq s0 → (∀ o ∈ s0.net.ops, ¬(o.isRsp = true ∧ o.conn = c.num ∧ o.msn = p.msn)) → ∃ t o, exec .getreq s = .next t ∧
        t.net.ops = s0.net.ops ++ [o] ∧ o.kind = .getrsp ∧ o.conn = c.num ∧ o.msn = p.msn ∧ o.loff = ((w.base + p.roff : Nat) : Int) ∧ o.len = p.ext0 ∧
        o.total = packetsOf p.ext0 ∧ o.pkts = [] ∧ t.mem = s0.mem)) ∧
    (∀ p s0 o, s0.netHeld o = false → s0.awaits o.op false = false →
      let ends := fun (i : Instr) => ∃ t, exec i s = .next t ∧ t.net.ops = s0.net.ops.filter (fun x => x.op != o.op) ∧ t.mem = s0.mem ∧
        ∀ w ∈ s.groups, ∃ h, t.group? w.id = some h ∧ h.ops = (w.complete o.op).ops
      (∀ c ks s1, Arrives s p .getrsp s0 → s0.conn? p.dconn = some c → s0.opOf c.num p.msn = some o → o.kind = .getreq → p.pidx ∉ o.got → s0.poison = [] → s0.late = [] → s0.lag = false →
        let offs := ((List.range (min p.plen (o.plen p.pidx))).map fun (j : Nat) => (o.loff + 4096 * (p.pidx : Int) + (j : Int), p.payload.getD j 0)).filter fun (x : Int × Byte) => o.lend.has x.1
        s0.netKeys o.ctx .write (offs.map fun x => (o.lend.addr x.1).toNat % 2 ^ 64) (fun _ => false) = (.ok ks, s1) → Sound s1 → (ks.map Prod.fst).Nodup →
        ∃ t r, exec .getrsp s = .next t ∧ (ks.map fun x => readByte t.mem x.1) = offs.map Prod.snd ∧ (∀ j, j ∉ ks.map Prod.fst → readByte t.mem j = readByte s1.mem j) ∧
          Sent s0 t r ∧ r.kind = .ack ∧ r.dconn = c.peer.getD 0 ∧ r.msn = p.msn ∧ r.pidx = p.pidx ∧
          (o.got.length + 1 = packetsOf o.len → t.net.ops = s0.net.ops.filter fun x => x.op != o.op) ∧
          (o.got.length + 1 ≠ packetsOf o.len → t.net.ops = s0.net.ops.map fun (x : NetOp) => if x.op == o.op then { o with got := p.pidx :: o.got, lastBusy := none } else x)) ∧
      (Arrives s p .atomrsp s0 → s0.opOf p.dconn p.msn = some o → o.kind = .atomreq → ends .atomrsp) ∧
      (Arrives s p .ack s0 → s0.opOf p.dconn p.msn = some o → (o.kind = .put ∨ o.kind = .puti ∨ o.kind = .add) →
        (o.pkts.length = o.total → (∀ j x, j ≠ p.pidx → o.pkts[j]? = some x → x.acked = true) → ends .ack) ∧
        (∀ j x, j ≠ p.pidx → o.pkts[j]? = some x → x.acked = false → ∃ t, exec .ack s = .next t ∧ t.mem = s0.mem ∧ t.groups = s0.groups ∧
          t.net.ops = s0.net.ops.map fun (y : NetOp) => if y.op == o.op then
            { o with lastBusy := none, pkts := o.pkts.mapIdx fun (l : Nat) (x : TxPkt) => if l == p.pidx then { x with acked := true, busyUntil := none } else x } else y)) ∧
      (Arrives s p .nak s0 → s0.opOf p.dconn p.msn = some o → o.isRsp = false → ∃ t, exec .nak s = .next t ∧ t.net.ops = s0.net.ops.filter (fun x => x.op != o.op) ∧
        ∀ w ∈ s.groups, ∃ h, t.group? w.id = some h ∧ h.ops = (w.complete o.op).ops)) ∧
    (∀ p s0 o w n x, s0.netHeld o = false → Arrives s p .atomrsp s0 → s0.opOf p.dconn p.msn = some o → o.kind = .atomreq → w ∈ s.groups → o.who = .group w.id →
      o.dst = .s n → w.results = [{ writes := [.s n.val x], op := some o.op, late := true }] →
      let v := atomResult o.ty p.ext0
      ∃ t h, exec .atomrsp s = .next t ∧ t.group? w.id = some h ∧ h.results = [{ writes := [.s n.val (BitVec.ofNat 64 v)], op := some o.op }] ∧ h.ops = w.ops ∧
        h.sregs = w.sregs ∧ { o with ended := some (0, v) } ∈ t.net.ops ∧ t.mem = s.mem) ∧
    (∀ p s0 c, s0.conn? p.dconn = some c →
      (Arrives s p .busy s0 → c.peer = none → ∃ t, exec .busy s = .next t ∧ t.net.conns = s0.net.conns.map (fun (x : Conn) =>
        if x.num == c.num then { c with tx := { c.tx with busyUntil := some (s.time + 256000) }, lastBusy := some p.status } else x) ∧ t.net.ops = s0.net.ops ∧ t.mem = s0.mem) ∧
      (∀ o x, Arrives s p .busy s0 → c.peer ≠ none → s0.opOf c.num p.msn = some o → o.pkts[p.pidx]? = some x → x.acked = false → ∃ t y z, exec .busy s = .next t ∧
        y ∈ t.net.ops ∧ y.op = o.op ∧ y.lastBusy = some p.status ∧ y.pkts[p.pidx]? = some z ∧ z = { x with busyUntil := some (s.time + 256000) } ∧ t.mem = s0.mem) ∧
      (Arrives s p .openack s0 → c.peer = none → ∃ t, exec .openack s = .next t ∧ t.net.conns = s0.net.conns.map (fun (x : Conn) =>
        if x.num == c.num then { c with peer := some p.ext0, tx := { c.tx with acked := true }, lastBusy := none } else x) ∧ t.mem = s0.mem)) ∧
    (∀ p s0, Arrives s p .openReq s0 →
      let rctx := p.ext1 / 2 ^ 32 % 2 ^ 16
      let rank := (s0.ctx? rctx).bind fun c => s0.rankOf c p.ext0 (p.ext1 / 2 ^ 48)
      (rank = none → ∃ t r, exec .openPacket s = .next t ∧ Sent s0 t r ∧ r.kind = .busy ∧ r.status = 1 ∧ r.dconn = p.dconn ∧ t.net.rx = s0.net.rx ∧ t.mem = s0.mem) ∧
      (∀ k, rank = some k → ∃ t r, ∃ c : RxConn, exec .openPacket s = .next t ∧ Sent s0 t r ∧ r.kind = .openack ∧ r.dconn = p.dconn ∧ r.ext0 = c.num ∧ t.mem = s0.mem ∧
        c.ctx = rctx ∧ c.rank = k ∧ c.senderId = p.dconn ∧ ∃ d ∈ t.net.rx, d.num = c.num)) ∧
    (∀ n c, s.ev = .nat n → s.net.rx.find? (fun x => x.num == n) = some c → c.cached = false → s.net.rx.length ≤ 4096 →
      ∃ t d, exec .connectionContextFetched s = .next t ∧ t.net.rx.find? (fun x => x.num == n) = some d ∧ d.cached = true ∧
        t.net.miss = s.net.miss.filter (fun p => p.dconn != n) ∧ t.net.loop = s.net.loop ++ s.net.miss.filter (fun p => p.dconn == n) ∧ t.mem = s.mem) ∧
    (∀ n o c peer bs s1, s.ev = .nat n → s.transmits n = some o → o.lost = none → o.pkts = [] → o.isRsp = false → s.conn? o.conn = some c → c.peer = some peer →
      s.packetData o 0 = (.ok bs, s1) → ∃ t r y, exec .messageTransmit s = .next t ∧ Sent s t r ∧ r.kind = o.kind ∧ r.dconn = peer ∧ r.msn = c.nextMsn ∧ r.pidx = 0 ∧
        r.pcnt = o.total ∧ r.payload = bs ∧ r.win = o.win ∧ r.gen = o.gen ∧ r.key = o.key ∧ r.roff = o.roff ∧ r.retrans = false ∧ t.mem = s1.mem ∧
        y ∈ t.net.ops ∧ y.op = o.op ∧ y.msn = c.nextMsn ∧ y.pkts = [{ at_ := s.time }] ∧
        t.net.conns = s.net.conns.map fun (x : Conn) => if x.num == c.num then { c with nextMsn := (c.nextMsn + 1) % 2 ^ 32 } else x) ∧
    (∀ op o, s.net.ops.find? (fun x => x.op == op) = some o → s.netHeld o = false → s.awaits o.op false = false →
      let status := fun (i : Instr) => ∃ t, exec i s = .next t ∧ t.net.ops = (s.net.ops.filter fun x => x.op != op) ∧
        ∀ w ∈ s.groups, ∃ h, t.group? w.id = some h ∧ h.ops = (w.complete op).ops
      (∀ c, s.ev = .nat2 op 1024 → s.opening o = some c →
        (s.ackDue c.tx = true → c.tx.attempts < 8 → ∃ t r, exec .retransmitTimeout s = .next t ∧ Sent s t r ∧ r.kind = .openReq ∧ r.retrans = true ∧ r.dconn = c.num ∧
          t.net.conns = (s.net.conns.map fun (x : Conn) => if x.num == c.num then { c with tx := { c.tx with attempts := c.tx.attempts + 1, at_ := s.time } } else x) ∧ t.mem = s.mem) ∧
        (s.ackDue c.tx = true → 8 ≤ c.tx.attempts → o.isRsp = false → status .retransmitTimeout) ∧
        (s.busyOver c.tx = true → ∃ t r, exec .busyRetry s = .next t ∧ Sent s t r ∧ r.kind = .openReq ∧ r.retrans = true ∧ r.dconn = c.num ∧
          t.net.conns = (s.net.conns.map fun (x : Conn) => if x.num == c.num then { c with tx := { c.tx with busyUntil := none, at_ := s.time } } else x) ∧ t.mem = s.mem)) ∧
      (∀ j p, s.ev = .nat2 op j → s.opening o = none → o.waitsAck j = some p → o.wait = none → o.lost = none →
        (s.ackDue p = true → 8 ≤ p.attempts → o.isRsp = false → status .retransmitTimeout) ∧
        (∀ bs s1 peer, s.packetData o j = (.ok bs, s1) → s.peerOf o = some peer →
          let again := fun (i : Instr) (n : Nat) => ∃ t r, exec i s = .next t ∧ Sent s t r ∧ r.kind = o.kind ∧ r.dconn = peer.1 ∧ r.msn = o.msn ∧ r.pidx = j ∧ r.payload = bs ∧
            r.retrans = decide (1 < n) ∧ t.mem = s1.mem ∧ ∃ y ∈ t.net.ops, y.op = op ∧ ∃ x, y.pkts[j]? = some x ∧ x.attempts = n ∧ x.at_ = s.time ∧ x.busyUntil = none
          (s.ackDue p = true → p.attempts < 8 → again .retransmitTimeout (p.attempts + 1)) ∧ (s.busyOver p = true → again .busyRetry p.attempts))) ∧
      (s.ev = .nat op → s.deadlineDue o = true → status .networkDeadline)) ∧
    (∀ n r, s.ev = .nat n → s.reasm? n = some r → s.late = [] →
      (s.abandonDue r = true → ∃ t, exec .reassemblyAbandon s = .next t ∧ t.net.reasm = s.net.reasm.filter (fun x => x.num != n) ∧ t.mem = s.mem ∧
        t.net.rx = s.net.rx.map fun (c : RxConn) => if c.num == r.conn then { c with failed := (r.msn, 11) :: c.failed } else c) ∧
      (s.holdDue r = true → ∃ t, exec .notificationHoldExpiry s = .next t ∧ t.net.reasm = s.net.reasm.filter (fun x => x.num != n) ∧ t.mem = s.mem ∧
        t.net.rx = s.net.rx.map fun (c : RxConn) => if c.num == r.conn then { c with failed := (r.msn, 9) :: c.failed } else c) ∧
      (∀ since p c s1, r.held = some (since, p) → p.kind = .puti → r.refused = false → s.net.rx.find? (fun x => x.num == r.conn) = some c → s.notify c r p = .done s1 →
        ∃ t, exec .heldNotificationWrite s = .next t ∧ t.mem = s1.mem ∧ t.net.reasm = s1.net.reasm.filter (fun x => x.num != n) ∧ Replied s1 t c p .ack 0 true) ∧
      (∀ since p c, r.held = some (since, p) → s.net.rx.find? (fun x => x.num == r.conn) = some c → s.notify c r p = .full → exec .heldNotificationWrite s = .next s))

/-! ### The module -/

/-- Module operation: reset and the boot that follows it (R350), loss of power, the grandmaster (R382), the flash and the fuses (R426, R430), the lifetime log
(R423), attestation (R429), the power cap and the limiter (R421), ageing (R422), patrol scrubbing and the errors that it and accesses find (R424, R425), and the monitor's calls ISLSET, ISLGET,
ATTEST and LOGREAD (R420).
The contents of memory at power-on, the steps of boot, that an event whose condition does not hold answers the same state, and the points of ageing and errors are the model's (log entries 2, 11, 20 and 25).
COMPLETION: it concludes that exec answers a next state (exec i s = .next t), from premises on the state and the operands
alone, for the constructors moduleReset, powerLoss, grandmasterLock, grandmasterLoss, qreg, qunreg, qclear, imageRewrite,
powerCapSet, lifetimeLogRead, attestationRequest, commit, islset, islget, attest, logread, powerMeasurement, limiterRaiseHold,
ageingMeasurement, ageingMeasurementEnd, patrolScrub, lifetimeLogRewrite, temperatureVoltageBinMinute. -/
def Obligations.ModuleEvents : Prop :=
  ∀ (s : State),
    let kept := fun (t : State) => t.groups = s.groups ∧ t.teams = s.teams ∧ t.mem = s.mem
    let anew := fun (t : State) => t.groups = [] ∧ t.teams = [] ∧ t.queues = [] ∧ t.time = 0 ∧ t.mod.modid = s.mod.modid ∧ t.mod.fuses = s.mod.fuses ∧
      t.mod.flash = s.mod.flash ∧ t.mod.log = s.mod.log ∧ t.mod.boot = .reset
    let boots := fun (b : Boot) (code : Nat) => let t := s.kernelAct .boot
      t.mod.boot = b ∧ t.mod.hstat.toNat % 65536 = code ∧ t.groups = s.groups ∧ t.teams = s.teams
    let fails := fun (code v : Nat) (digest : List Byte) => boots .stopped (15 + 256 * code) ∧ ((s.kernelAct .boot).col 0).run = .stopped ∧ (s.kernelAct .boot).mem = s.mem ∧
      (s.mod.log.length < logLimit → ∃ r, (s.kernelAct .boot).mod.log = s.mod.log ++ [r] ∧ r.kind = 6 ∧ field r.bytes 18 8 = v % 2 ^ 64 ∧ field r.bytes 34 1 = code ∧
        (r.bytes.drop 36).take 64 = takeN 64 digest)
    (∃ t, exec .moduleReset s = .next t ∧ anew t ∧ t.mem = s.mem) ∧
    (∃ t, exec .powerLoss s = .next t ∧ anew t ∧ t.mem = []) ∧
    (s.mod.boot = .reset → boots .verify 1) ∧
    (s.mod.flash = [] → bootCheck s.mod.flash s.mod.fuses = (none, some 4)) ∧
    (∀ key img sig v, s.mod.flash ≠ [] → Config.imageParts s.mod.flash = (key, img, sig, v) → ∃ e, bootCheck s.mod.flash s.mod.fuses = (some (img, v), e) ∧
      (e = none ↔ takeN 64 (sha3 key) = takeN 64 Config.fusedKeyDigest ∧ Config.mldsaVerify key (sha3 img) sig = true ∧ s.mod.fuses ≤ v)) ∧
    (∀ img v, s.mod.boot = .verify → bootCheck s.mod.flash s.mod.fuses = (some (img, v), none) → boots (.load img v) 2) ∧
    (∀ c, s.mod.boot = .verify → c < 16 → (bootCheck s.mod.flash s.mod.fuses = (none, some c) → fails c 0 []) ∧
      ∀ img v, bootCheck s.mod.flash s.mod.fuses = (some (img, v), some c) → fails c v (sha3 img)) ∧
    (∀ img v, s.mod.boot = .load img v → (s.copyFails = true → fails 4 v (sha3 img)) ∧
      (s.copyFails = false → boots .train 3 ∧ (s.kernelAct .boot).mod.version = v ∧ (s.kernelAct .boot).mod.running = img ∧
        (Sound s → readBytes (s.kernelAct .boot).mem (colKey 0 Config.identityAt) Config.identityLen = takeN Config.identityLen (Config.mldsaPrivate Config.deviceSecret)) ∧
        ∀ n, n < 48 → ((s.kernelAct .boot).col n).run = .running ∧ ((s.kernelAct .boot).col n).priv = .monitor ∧ ((s.kernelAct .boot).col n).g.pc = 8)) ∧
    (s.mod.boot = .train → boots .measure 4) ∧
    (s.mod.boot = .measure → boots .ready 5 ∧ (s.mod.log.length + 640 < logLimit → ∃ l r, (s.kernelAct .boot).mod.log = s.mod.log ++ l ++ [r] ∧ r.kind = 6 ∧
      field r.bytes 34 1 = 0 ∧ ∀ y ∈ l, y.kind = 4)) ∧
    (s.mod.boot ≠ .ready → ∀ i ∈ [Instr.qreg, .qunreg, .qclear], exec i s = .next s) ∧
    (∀ ns utc, s.ev = .lock ns utc → ∃ t, exec .grandmasterLock s = .next t ∧ kept t ∧ t.mod.locked = true ∧ t.mod.lockedOnce = true ∧ t.mod.utc = utc ∧
      t.time = if s.mod.lockedOnce = false ∧ (s.time : Int) < ((ns : Int) - epoch) * 16 then (ns - epoch) * 16 else s.time) ∧
    (∃ t, exec .grandmasterLoss s = .next t ∧ kept t ∧ t.mod.locked = false ∧ t.time = s.time) ∧
    (∀ d, s.ev = .bytes d → ∃ t, exec .imageRewrite s = .next t ∧ kept t ∧ t.mod = { s.mod with flash := d }) ∧
    (∃ t, exec .commit s = .next t ∧ kept t ∧ t.mod = { s.mod with fuses := max s.mod.fuses (min 64 s.mod.version) }) ∧
    (∀ w, s.ev = .nat w →
      (800 ≤ w ∧ w ≤ 2600 → ∃ t, exec .powerCapSet s = .next t ∧ kept t ∧ t.mod = { s.mod with cap := w }) ∧ (w < 800 ∨ 2600 < w → exec .powerCapSet s = .next s) ∧
      let calm := s.mod.calm.getD s.time
      let to_ := fun (c : Nat) (calm : Option Nat) => ∃ t, exec .powerMeasurement s = .next t ∧ kept t ∧ t.mod.ceiling = c ∧ t.mod.calm = calm
      (s.mod.cap < w → to_ (max 200 (s.mod.ceiling - 25)) none) ∧
      (w ≤ s.mod.cap → s.mod.cap * 95 ≤ w * 100 → to_ s.mod.ceiling none) ∧
      (w * 100 < s.mod.cap * 95 → s.mod.raising = true ∨ calm + 16000000 ≤ s.time → to_ (min 1400 (s.mod.ceiling + 25)) (some calm)) ∧
      (w * 100 < s.mod.cap * 95 → s.mod.raising = false → s.time < calm + 16000000 → to_ s.mod.ceiling (some calm)) ∧
      (w < 640 → s.ageDue w = true → ∃ t, exec .ageingMeasurement s = .next t ∧ kept t ∧ (t.island w).measuring = some s.time ∧ ∀ i, i ≠ w → t.island i = s.island i) ∧
      (s.ageDue w = false → exec .ageingMeasurement s = .next s)) ∧
    (s.calmLong = true → ∃ t, exec .limiterRaiseHold s = .next t ∧ kept t ∧ t.mod = { s.mod with raising := true }) ∧
    (∀ m, s.ev = .age m → m.island < 640 → (s.island m.island).measuring ≠ none →
      let x := s.island m.island
      (m.early = true → ∃ t, exec .ageingMeasurementEnd s = .next t ∧ kept t ∧ t.island m.island = { x with measuring := none }) ∧
      ∀ k y, m.early = false → m.slackPs[k]? = some y → (m.marginPs : Int) ≤ y → (∀ j z, j < k → m.slackPs[j]? = some z → z < (m.marginPs : Int)) →
        s.mod.log.length < logLimit → ∃ t, exec .ageingMeasurementEnd s = .next t ∧ kept t ∧ (t.island m.island).fmax = x.fmax - 25 * k ∧ (t.island m.island).measuring = none ∧
          ((t.island m.island).fenced = true ↔ x.fenced = true ∨ x.fmax - 25 * k < if m.island < 576 then 800 else 400) ∧
          (∀ i, i ≠ m.island → t.island i = s.island i) ∧ t.mod.log.length = s.mod.log.length + if k = 0 then 0 else 1) ∧
    ((∀ d code c a i, s.ev ≠ .upset d code c a i) → ∃ t, exec .patrolScrub s = .next t ∧ kept t ∧ t.mod = { s.mod with scrubbed := s.time }) ∧
    (∀ d code c a i, s.late = [] → s.ev = .upset d code c a i → (h : d < 5) → ∃ t, exec .patrolScrub s = .next t ∧ (code ∉ [1, 9] → t.groups = s.groups) ∧ t.mem = s.mem ∧
      (∀ k : Fin 9, code = k.val + 1 →
        (t.mod.dies[d].corrected[k]).toNat = (if c then min (2 ^ 64 - 1) ((s.mod.dies[d].corrected[k]).toNat + 1) else (s.mod.dies[d].corrected[k]).toNat) ∧
        (t.mod.dies[d].uncorrected[k]).toNat = (if c then (s.mod.dies[d].uncorrected[k]).toNat else min (2 ^ 64 - 1) ((s.mod.dies[d].uncorrected[k]).toNat + 1))) ∧
      (c = true → t.poison = s.poison ∧ t.teams = s.teams) ∧
      (c = false → code ∈ [2, 6, 7] → structOf (a / 128 * 128) = code → a / 128 * 128 ∈ t.poison ∧ t.structAt (a / 128 * 128) = code) ∧
      (c = false → code = 3 → tierOf (a / 128 * 128) ≠ none → s.poison = [] → t.poison = [a / 128 * 128] ∧ t.structAt (a / 128 * 128) = 3) ∧
      (∀ g, c = false → code = 1 → i % 2 = 0 → s.group? a = some g → t.group? a = some { g with bad := g.bad ++ [g.cell (i / 2)] }) ∧
      (c = false → code = 1 → i % 2 = 1 → a < 48 → (t.col a).g.bad = (s.col a).g.bad ++ [(s.col a).g.cell (i / 2)]) ∧
      ∀ tm, c = false → code = 5 → s.teams[a]? = some tm → s.team? tm.ctx tm.tlin = some tm → ∃ u, t.team? tm.ctx tm.tlin = some u ∧ (u.tile (i / 64) (i % 64)).bad = true) ∧
    (s.mod.log.length < logLimit → ∃ t r, exec .lifetimeLogRewrite s = .next t ∧ kept t ∧ r ∈ t.mod.log ∧ r.seq = s.mod.logSeq ∧ r.kind = (s.cumulative s.mod.logNext).1 ∧ r.bytes.length = 256 ∧
      t.mod.logSeq = s.mod.logSeq + 1 ∧ t.mod.logNext = (if 15 ≤ s.mod.logNext then 0 else s.mod.logNext + 1) ∧
      ∀ y ∈ s.mod.log, y.kind ∉ [1, 2, 3, 5] → y ∈ t.mod.log) ∧
    (∀ port i r, s.ev = .logRead port i → s.mod.log[i]? = some r → ∃ t, exec .lifetimeLogRead s = .next t ∧ kept t ∧
      t.mod = { s.mod with replies := s.mod.replies ++ [(portKind port, r.bytes)] }) ∧
    (∀ port nonce, s.ev = .report port nonce → nonce.length = 64 → ∃ t b, exec .attestationRequest s = .next t ∧ kept t ∧
      t.mod = { s.mod with replies := s.mod.replies ++ [(portKind port, b)] } ∧ b.length = 4915 ∧ field b 0 4 = 0x54414E45 ∧ field b 4 4 = 1 ∧
      field b 8 8 = s.mod.modid.toNat ∧ (b.drop 16).take 64 = nonce ∧ field b 280 8 = s.time % 2 ^ 64) ∧
    (∀ die degC mV, s.ev = .bins die degC mV → (h : die < 5) → ∃ t, exec .temperatureVoltageBinMinute s = .next t ∧ kept t ∧
      let b : Nat := if degC < 0 then 0 else if 112 ≤ degC then 15 else degC.toNat / 8 + 1
      let w : Nat := if mV < 550 then 0 else if 900 ≤ mV then 15 else (mV - 550) / 25 + 1
      ∀ i : Fin 16, t.mod.dies[die].tbin[i] = (if i.val = b then satInc s.mod.dies[die].tbin[i] else s.mod.dies[die].tbin[i]) ∧
        t.mod.dies[die].vbin[i] = (if i.val = w then satInc s.mod.dies[die].vbin[i] else s.mod.dies[die].vbin[i])) ∧
    (∀ n q r, Monitors s n 3 q r →
      let ok := q.arg 0 ≤ 639 ∧ (if q.arg 0 < 576 then 200 else 400) ≤ q.arg 1 ∧ q.arg 1 % 25 = 0
      (ok → ∃ t, exec .islset s = .next t ∧ MonServed s n r 0 t ∧ t.island (q.arg 0) = { s.island (q.arg 0) with setClk := q.arg 1 } ∧ ∀ i, i ≠ q.arg 0 → t.island i = s.island i) ∧
      (¬ok → ∃ t, exec .islset s = .next t ∧ MonServed s n r (BitVec.ofInt 64 (-2)) t ∧ t.mod = s.mod)) ∧
    (∀ n q r, Monitors s n 4 q r → ∃ t v, exec .islget s = .next t ∧ MonServed s n r v t ∧ t.mod = s.mod ∧ (q.arg 0 ≤ 639 →
      let x := s.island (q.arg 0)
      let clk := min x.setClk x.fmax
      v.toNat % 2 ^ 16 = (if q.arg 0 < 576 then min clk s.mod.ceiling else clk) % 2 ^ 16 ∧ v.toNat / 2 ^ 16 % 2 ^ 16 = x.fmax % 2 ^ 16 ∧
      v.toNat / 2 ^ 32 % 2 ^ 16 = x.setClk % 2 ^ 16 ∧ v.getLsbD 48 = s.mod.limiting ∧ v.getLsbD 49 = x.fenced ∧ v.toNat / 2 ^ 50 = 0)) ∧
    (∀ n q r, Monitors s n 5 q r → s.late = [] →
      (s.colKeys n .read (q.arg64 0) 64 = none → ∃ t, exec .attest s = .next t ∧ MonServed s n r (BitVec.ofInt 64 (-7)) t) ∧
      (∀ ks s1, s.colKeys n .read (q.arg64 0) 64 = some (ks, s1) →
        (s1.colKeys n .write (q.arg64 2) 4915 = none → ∃ t, exec .attest s = .next t ∧ MonServed s n r (BitVec.ofInt 64 (-7)) t) ∧
        ∀ ws s2, s1.colKeys n .write (q.arg64 2) 4915 = some (ws, s2) → Sound s2 → ws.Nodup → ∃ t, exec .attest s = .next t ∧ MonServed s n r 4915 t ∧
          ws.map (readByte t.mem) = s1.attestReport (ks.map (readByte s1.mem)) ∧ ∀ j, j ∉ ws → readByte t.mem j = readByte s2.mem j)) ∧
    (∀ n q r, Monitors s n 6 q r → s.late = [] →
      (s.mod.log[q.arg 0]? = none → ∃ t, exec .logread s = .next t ∧ MonServed s n r (BitVec.ofInt 64 (-2)) t) ∧
      (∀ x, s.mod.log[q.arg 0]? = some x → (s.colKeys n .write (q.arg64 1) 256 = none → ∃ t, exec .logread s = .next t ∧ MonServed s n r (BitVec.ofInt 64 (-7)) t) ∧
        ∀ ws s1, s.colKeys n .write (q.arg64 1) 256 = some (ws, s1) → Sound s1 → ws.Nodup → x.bytes.length = 256 → ∃ t, exec .logread s = .next t ∧
          MonServed s n r 0 t ∧ ws.map (readByte t.mem) = x.bytes ∧ ∀ j, j ∉ ws → readByte t.mem j = readByte s1.mem j))

/-- Resident groups keep numbers of their own through every step, whatever happens in it: no two groups ever answer to one number, so a wake, a result or a
stop reaches the one group it is for. The numbers are the model's own.
The numbers are the model's own (log entry 38). -/
def Obligations.StepKeepsGroupNumbersDistinct : Prop := ∀ s t : State, Distinct s → Machine.step s = .next t → Distinct t
end

