-- ==== Sys2Proof/Laws/Mem.lean ====
section
/-! SUPPORT. Memory: reads after writes, and that every operation keeps the canonical form. -/

namespace Sys2Proof.Machine

/-- Sorting loses nothing and adds nothing. -/
theorem insertBy_perm {α : Type} (le : α → α → Bool) (x : α) (l : List α) : (insertBy le x l).Perm (x :: l) := by
  induction l with
  | nil => exact List.Perm.refl _
  | cons y r ih =>
    simp only [insertBy]
    split
    · exact List.Perm.refl _
    · exact (List.Perm.cons y ih).trans (List.Perm.swap x y r)

theorem sortBy_perm {α : Type} (le : α → α → Bool) (l : List α) : (sortBy le l).Perm l := by
  induction l with
  | nil => exact List.Perm.refl _
  | cons x r ih => exact (insertBy_perm le x (sortBy le r)).trans (List.Perm.cons x ih)

@[simp] theorem mem_sortBy {α : Type} {le : α → α → Bool} {l : List α} {x : α} : x ∈ sortBy le l ↔ x ∈ l := (sortBy_perm le l).mem_iff

/-- Every key of a list of cells is above a bound. -/
def keysAbove (a : Nat) (m : Memory) : Prop := ∀ c ∈ m, a < c.1

theorem Memory.wf_cons {k : Nat} {x : Byte} {r : Memory} : Memory.wf ((k, x) :: r) = true ↔ x ≠ 0 ∧ keysAbove k r ∧ Memory.wf r = true := by
  induction r generalizing k x with
  | nil => simp [Memory.wf, keysAbove]
  | cons d r ih =>
    obtain ⟨j, y⟩ := d
    have e : Memory.wf ((k, x) :: (j, y) :: r) = (x != 0 && decide (k < j) && Memory.wf ((j, y) :: r)) := rfl
    rw [e]
    simp only [Bool.and_eq_true, bne_iff_ne, ne_eq, decide_eq_true_eq]
    constructor
    · rintro ⟨⟨hx, hk⟩, hr⟩
      refine ⟨hx, ?_, hr⟩
      intro c hc
      rcases List.mem_cons.1 hc with rfl | hc
      · exact hk
      · exact Nat.lt_trans hk ((ih.1 hr).2.1 c hc)
    · rintro ⟨hx, hk, hr⟩
      exact ⟨⟨hx, hk (j, y) (List.mem_cons_self ..)⟩, hr⟩

theorem readByte_keysAbove {a : Nat} {m : Memory} (h : keysAbove a m) : readByte m a = 0 := by
  cases m with
  | nil => rfl
  | cons c r =>
    obtain ⟨k, x⟩ := c
    have := h (k, x) (List.mem_cons_self ..)
    simp [readByte, this]

theorem keysAbove_consByte {a k : Nat} {b : Byte} {m : Memory} (h : keysAbove k m) (hk : k < a) : keysAbove k (consByte a b m) := by
  unfold consByte
  split
  · exact h
  · intro c hc
    rcases List.mem_cons.1 hc with rfl | hc
    · exact hk
    · exact h c hc

theorem keysAbove_writeByte {a k : Nat} {b : Byte} {m : Memory} (h : keysAbove k m) (hk : k < a) : keysAbove k (writeByte m a b) := by
  induction m with
  | nil => exact keysAbove_consByte h hk
  | cons c r ih =>
    obtain ⟨j, x⟩ := c
    have hr : keysAbove k r := fun c hc => h c (List.mem_cons_of_mem _ hc)
    have hj : k < j := h (j, x) (List.mem_cons_self ..)
    simp only [writeByte]
    split
    · exact keysAbove_consByte h hk
    · split
      · exact keysAbove_consByte hr hk
      · intro c hc
        rcases List.mem_cons.1 hc with rfl | hc
        · exact hj
        · exact ih hr c hc

theorem wf_consByte {a : Nat} {b : Byte} {m : Memory} (h : keysAbove a m) (hm : Memory.wf m = true) : Memory.wf (consByte a b m) = true := by
  unfold consByte
  split
  · exact hm
  · rename_i hb
    exact Memory.wf_cons.2 ⟨hb, h, hm⟩

/-- Writing a byte keeps the canonical form. -/
theorem wf_writeByte {a : Nat} {b : Byte} {m : Memory} (hm : Memory.wf m = true) : Memory.wf (writeByte m a b) = true := by
  induction m with
  | nil => exact wf_consByte (by simp [keysAbove]) rfl
  | cons c r ih =>
    obtain ⟨k, x⟩ := c
    obtain ⟨hx, hk, hr⟩ := Memory.wf_cons.1 hm
    simp only [writeByte]
    split
    · rename_i hak
      refine wf_consByte ?_ hm
      intro c hc
      rcases List.mem_cons.1 hc with rfl | hc
      · exact hak
      · exact Nat.lt_trans hak (hk c hc)
    · split
      · rename_i e
        subst e
        exact wf_consByte hk hr
      · exact Memory.wf_cons.2 ⟨hx, keysAbove_writeByte hk (by omega), ih hr⟩

theorem wf_writeBytes {a : Nat} {bs : List Byte} {m : Memory} (hm : Memory.wf m = true) : Memory.wf (writeBytes m a bs) = true := by
  induction bs generalizing a m with
  | nil => exact hm
  | cons b r ih => exact ih (wf_writeByte hm)

theorem keysAbove_filter {a : Nat} {m : Memory} (p : Host.Cell → Bool) (h : keysAbove a m) : keysAbove a (m.filter p) :=
  fun c hc => h c (List.mem_filter.1 hc).1

theorem wf_filter {m : Memory} (p : Host.Cell → Bool) (hm : Memory.wf m = true) : Memory.wf (m.filter p) = true := by
  induction m with
  | nil => rfl
  | cons c r ih =>
    obtain ⟨k, x⟩ := c
    obtain ⟨hx, hk, hr⟩ := Memory.wf_cons.1 hm
    rw [List.filter_cons]
    split
    · exact Memory.wf_cons.2 ⟨hx, keysAbove_filter p hk, ih hr⟩
    · exact ih hr

/-- Clearing a run keeps the canonical form. -/
theorem wf_zeroBytes {a n : Nat} {m : Memory} (hm : Memory.wf m = true) : Memory.wf (zeroBytes m a n) = true := wf_filter _ hm

theorem readByte_consByte_same {a : Nat} {b : Byte} {m : Memory} (h : keysAbove a m) : readByte (consByte a b m) a = b := by
  unfold consByte
  split
  · rename_i hb
    rw [readByte_keysAbove h, hb]
  · simp [readByte]

theorem readByte_consByte_other {a k : Nat} {b : Byte} {m : Memory} (h : keysAbove a m) (hk : k ≠ a) : readByte (consByte a b m) k = readByte m k := by
  unfold consByte
  split
  · rfl
  · simp only [readByte]
    split
    · refine (readByte_keysAbove fun c hc => ?_).symm
      have := h c hc
      omega
    · rfl

/-- A byte that has been written reads back, in memory of canonical form. -/
theorem readByte_writeByte_same {a : Nat} {b : Byte} {m : Memory} (hm : Memory.wf m = true) : readByte (writeByte m a b) a = b := by
  induction m with
  | nil => exact readByte_consByte_same (by simp [keysAbove])
  | cons c r ih =>
    obtain ⟨k, x⟩ := c
    obtain ⟨hx, hk, hr⟩ := Memory.wf_cons.1 hm
    simp only [writeByte]
    split
    · rename_i hak
      refine readByte_consByte_same ?_
      intro c hc
      rcases List.mem_cons.1 hc with rfl | hc
      · exact hak
      · exact Nat.lt_trans hak (hk c hc)
    · split
      · rename_i e
        subst e
        exact readByte_consByte_same hk
      · rename_i h1 h2
        simp [readByte, h1, h2, ih hr]

/-- Writing a byte leaves every other byte alone. -/
theorem readByte_writeByte_other {a k : Nat} {b : Byte} {m : Memory} (hm : Memory.wf m = true) (hk : k ≠ a) :
    readByte (writeByte m a b) k = readByte m k := by
  induction m with
  | nil => exact readByte_consByte_other (by simp [keysAbove]) hk
  | cons c r ih =>
    obtain ⟨j, x⟩ := c
    obtain ⟨hx, hj, hr⟩ := Memory.wf_cons.1 hm
    simp only [writeByte]
    split
    · rename_i haj
      refine readByte_consByte_other ?_ hk
      intro c hc
      rcases List.mem_cons.1 hc with rfl | hc
      · exact haj
      · exact Nat.lt_trans haj (hj c hc)
    · split
      · rename_i e
        subst e
        rw [readByte_consByte_other hj hk]
        simp only [readByte]
        split
        · refine readByte_keysAbove fun c hc => ?_
          have := hj c hc
          omega
        · rfl
      · simp only [readByte]
        split
        · rfl
        · split
          · rfl
          · exact ih hr

theorem readByte_writeBytes_other {a k : Nat} {bs : List Byte} {m : Memory} (hm : Memory.wf m = true) (hk : k < a ∨ a + bs.length ≤ k) :
    readByte (writeBytes m a bs) k = readByte m k := by
  induction bs generalizing a m with
  | nil => rfl
  | cons b r ih =>
    simp only [List.length_cons] at hk
    simp only [writeBytes]
    rw [ih (wf_writeByte hm) (by omega), readByte_writeByte_other hm (by omega)]

theorem readBytes_writeByte_below {a k n : Nat} {b : Byte} {m : Memory} (hm : Memory.wf m = true) (h : k < a) :
    readBytes (writeByte m k b) a n = readBytes m a n := by
  induction n generalizing a with
  | zero => rfl
  | succ n ih => simp [readBytes, readByte_writeByte_other hm (show a ≠ k by omega), ih (show k < a + 1 by omega)]

/-- Bytes that have been written read back. -/
theorem readBytes_writeBytes_same {a : Nat} {bs : List Byte} {m : Memory} (hm : Memory.wf m = true) :
    readBytes (writeBytes m a bs) a bs.length = bs := by
  induction bs generalizing a m with
  | nil => rfl
  | cons b r ih =>
    simp only [writeBytes, List.length_cons, readBytes]
    rw [readByte_writeBytes_other (wf_writeByte hm) (by omega), readByte_writeByte_same hm, ih (wf_writeByte hm)]

theorem readByte_eq_of_find {m : Memory} (hm : Memory.wf m = true) (k : Nat) :
    readByte m k = ((m.find? fun c => c.1 == k).map Prod.snd).getD 0 := by
  induction m with
  | nil => rfl
  | cons c r ih =>
    obtain ⟨j, x⟩ := c
    obtain ⟨-, hj, hr⟩ := Memory.wf_cons.1 hm
    simp only [readByte, List.find?_cons]
    by_cases e : j = k
    · subst e
      simp
    · have e' : (j == k) = false := by simpa using e
      simp only [e', if_neg (Ne.symm e)]
      split
      · rw [← ih hr, readByte_keysAbove fun c hc => ?_]
        have := hj c hc
        omega
      · exact ih hr

/-- Clearing a run leaves the bytes outside it alone, and zeroes those inside. -/
theorem readByte_zeroBytes {a n k : Nat} {m : Memory} (hm : Memory.wf m = true) :
    readByte (zeroBytes m a n) k = if a ≤ k ∧ k < a + n then 0 else readByte m k := by
  rw [readByte_eq_of_find (wf_zeroBytes hm), readByte_eq_of_find hm]
  unfold zeroBytes
  rw [List.find?_filter]
  split
  · rename_i h
    rw [List.find?_eq_none.2]
    · rfl
    · intro c _ hc
      simp only [Bool.not_eq_true', beq_iff_eq, Bool.and_eq_false_imp, decide_eq_true_eq, decide_eq_false_iff_not] at hc
      have := hc.1
      omega
  · rename_i h
    congr 2
    congr 1
    funext c
    by_cases e : c.1 = k
    · subst e
      simp
      omega
    · simp [e]

/-- n little-endian bytes of a number are n bytes. -/
@[simp] theorem toLE_length (n x : Nat) : (toLE n x).length = n := by
  induction n generalizing x with
  | zero => rfl
  | succ n ih => simp [toLE, ih]

/-- The little-endian bytes of a number give it back, modulo 2^(8n) (R1). -/
theorem leBytes_toLE (n x : Nat) : leBytes (toLE n x) = x % 2 ^ (8 * n) := by
  induction n generalizing x with
  | zero => simp [toLE, leBytes, Nat.mod_one]
  | succ n ih =>
    have e : 2 ^ (8 * (n + 1)) = 256 * 2 ^ (8 * n) := by rw [show 8 * (n + 1) = 8 + 8 * n by omega, Nat.pow_add]
    rw [toLE, leBytes, ih, e, Nat.mod_mul, BitVec.toNat_ofNat]

/-- A number that has been written reads back (R1). -/
theorem readLE_writeBytes_toLE {a n x : Nat} {m : Memory} (hm : Memory.wf m = true) :
    readLE (writeBytes m a (toLE n x)) a n = x % 2 ^ (8 * n) := by
  have h := readBytes_writeBytes_same (a := a) (bs := toLE n x) hm
  rw [toLE_length] at h
  rw [readLE, h, leBytes_toLE]

end Sys2Proof.Machine
end

