-- ==== Sys2Proof/Laws/State.lean ====
section
/-! SUPPORT. What each update of the state leaves unchanged: one lemma for each field and update. -/

namespace Sys2Proof.Machine

/-! ### One group -/

@[simp] theorem State.setGroup_time (s : State) (g : Group) : (s.setGroup g).time = s.time := rfl
@[simp] theorem State.setGroup_tick (s : State) (g : Group) : (s.setGroup g).tick = s.tick := rfl
@[simp] theorem State.setGroup_inputs (s : State) (g : Group) : (s.setGroup g).inputs = s.inputs := rfl
@[simp] theorem State.setGroup_ev (s : State) (g : Group) : (s.setGroup g).ev = s.ev := rfl
@[simp] theorem State.setGroup_issuing (s : State) (g : Group) : (s.setGroup g).issuing = s.issuing := rfl
@[simp] theorem State.setGroup_cur (s : State) (g : Group) : (s.setGroup g).cur = s.cur := rfl
@[simp] theorem State.setGroup_mem (s : State) (g : Group) : (s.setGroup g).mem = s.mem := rfl
@[simp] theorem State.setGroup_poison (s : State) (g : Group) : (s.setGroup g).poison = s.poison := rfl
@[simp] theorem State.setGroup_cacheErr (s : State) (g : Group) : (s.setGroup g).cacheErr = s.cacheErr := rfl
@[simp] theorem State.setGroup_nextGroup (s : State) (g : Group) : (s.setGroup g).nextGroup = s.nextGroup := rfl
@[simp] theorem State.setGroup_cols (s : State) (g : Group) : (s.setGroup g).cols = s.cols := rfl
@[simp] theorem State.setGroup_teams (s : State) (g : Group) : (s.setGroup g).teams = s.teams := rfl
@[simp] theorem State.setGroup_saved (s : State) (g : Group) : (s.setGroup g).saved = s.saved := rfl
@[simp] theorem State.setGroup_contexts (s : State) (g : Group) : (s.setGroup g).contexts = s.contexts := rfl
@[simp] theorem State.setGroup_moving (s : State) (g : Group) : (s.setGroup g).moving = s.moving := rfl
@[simp] theorem State.setGroup_nextNum (s : State) (g : Group) : (s.setGroup g).nextNum = s.nextNum := rfl
@[simp] theorem State.setGroup_copies (s : State) (g : Group) : (s.setGroup g).copies = s.copies := rfl
@[simp] theorem State.setGroup_mtx (s : State) (g : Group) : (s.setGroup g).mtx = s.mtx := rfl
@[simp] theorem State.setGroup_merges (s : State) (g : Group) : (s.setGroup g).merges = s.merges := rfl
@[simp] theorem State.setGroup_tlb (s : State) (g : Group) : (s.setGroup g).tlb = s.tlb := rfl
@[simp] theorem State.setGroup_icache (s : State) (g : Group) : (s.setGroup g).icache = s.icache := rfl
@[simp] theorem State.setGroup_waiters (s : State) (g : Group) : (s.setGroup g).waiters = s.waiters := rfl
@[simp] theorem State.setGroup_fuses (s : State) (g : Group) : (s.setGroup g).fuses = s.fuses := rfl
@[simp] theorem State.setGroup_streams (s : State) (g : Group) : (s.setGroup g).streams = s.streams := rfl
@[simp] theorem State.setGroup_late (s : State) (g : Group) : (s.setGroup g).late = s.late := rfl
@[simp] theorem State.setGroup_lag (s : State) (g : Group) : (s.setGroup g).lag = s.lag := rfl
@[simp] theorem State.setGroup_cut (s : State) (g : Group) : (s.setGroup g).cut = s.cut := rfl
@[simp] theorem State.setGroup_queues (s : State) (g : Group) : (s.setGroup g).queues = s.queues := rfl
@[simp] theorem State.setGroup_sys (s : State) (g : Group) : (s.setGroup g).sys = s.sys := rfl
@[simp] theorem State.setGroup_keys (s : State) (g : Group) : (s.setGroup g).keys = s.keys := rfl
@[simp] theorem State.setGroup_net (s : State) (g : Group) : (s.setGroup g).net = s.net := rfl
@[simp] theorem State.setGroup_trc (s : State) (g : Group) : (s.setGroup g).trc = s.trc := rfl
@[simp] theorem State.setGroup_aud (s : State) (g : Group) : (s.setGroup g).aud = s.aud := rfl
@[simp] theorem State.setGroup_mod (s : State) (g : Group) : (s.setGroup g).mod = s.mod := rfl

/-! ### A group leaves -/

@[simp] theorem State.dropGroup_time (s : State) (id : Nat) : (s.dropGroup id).time = s.time := rfl
@[simp] theorem State.dropGroup_tick (s : State) (id : Nat) : (s.dropGroup id).tick = s.tick := rfl
@[simp] theorem State.dropGroup_inputs (s : State) (id : Nat) : (s.dropGroup id).inputs = s.inputs := rfl
@[simp] theorem State.dropGroup_ev (s : State) (id : Nat) : (s.dropGroup id).ev = s.ev := rfl
@[simp] theorem State.dropGroup_issuing (s : State) (id : Nat) : (s.dropGroup id).issuing = s.issuing := rfl
@[simp] theorem State.dropGroup_cur (s : State) (id : Nat) : (s.dropGroup id).cur = s.cur := rfl
@[simp] theorem State.dropGroup_mem (s : State) (id : Nat) : (s.dropGroup id).mem = s.mem := rfl
@[simp] theorem State.dropGroup_poison (s : State) (id : Nat) : (s.dropGroup id).poison = s.poison := rfl
@[simp] theorem State.dropGroup_cacheErr (s : State) (id : Nat) : (s.dropGroup id).cacheErr = s.cacheErr := rfl
@[simp] theorem State.dropGroup_nextGroup (s : State) (id : Nat) : (s.dropGroup id).nextGroup = s.nextGroup := rfl
@[simp] theorem State.dropGroup_cols (s : State) (id : Nat) : (s.dropGroup id).cols = s.cols := rfl
@[simp] theorem State.dropGroup_teams (s : State) (id : Nat) : (s.dropGroup id).teams = s.teams := rfl
@[simp] theorem State.dropGroup_saved (s : State) (id : Nat) : (s.dropGroup id).saved = s.saved := rfl
@[simp] theorem State.dropGroup_contexts (s : State) (id : Nat) : (s.dropGroup id).contexts = s.contexts := rfl
@[simp] theorem State.dropGroup_moving (s : State) (id : Nat) : (s.dropGroup id).moving = s.moving := rfl
@[simp] theorem State.dropGroup_nextNum (s : State) (id : Nat) : (s.dropGroup id).nextNum = s.nextNum := rfl
@[simp] theorem State.dropGroup_copies (s : State) (id : Nat) : (s.dropGroup id).copies = s.copies := rfl
@[simp] theorem State.dropGroup_mtx (s : State) (id : Nat) : (s.dropGroup id).mtx = s.mtx := rfl
@[simp] theorem State.dropGroup_merges (s : State) (id : Nat) : (s.dropGroup id).merges = s.merges := rfl
@[simp] theorem State.dropGroup_tlb (s : State) (id : Nat) : (s.dropGroup id).tlb = s.tlb := rfl
@[simp] theorem State.dropGroup_icache (s : State) (id : Nat) : (s.dropGroup id).icache = s.icache := rfl
@[simp] theorem State.dropGroup_waiters (s : State) (id : Nat) : (s.dropGroup id).waiters = s.waiters := rfl
@[simp] theorem State.dropGroup_fuses (s : State) (id : Nat) : (s.dropGroup id).fuses = s.fuses := rfl
@[simp] theorem State.dropGroup_streams (s : State) (id : Nat) : (s.dropGroup id).streams = s.streams := rfl
@[simp] theorem State.dropGroup_late (s : State) (id : Nat) : (s.dropGroup id).late = s.late := rfl
@[simp] theorem State.dropGroup_lag (s : State) (id : Nat) : (s.dropGroup id).lag = s.lag := rfl
@[simp] theorem State.dropGroup_cut (s : State) (id : Nat) : (s.dropGroup id).cut = s.cut := rfl
@[simp] theorem State.dropGroup_sys (s : State) (id : Nat) : (s.dropGroup id).sys = s.sys := rfl
@[simp] theorem State.dropGroup_keys (s : State) (id : Nat) : (s.dropGroup id).keys = s.keys := rfl
@[simp] theorem State.dropGroup_net (s : State) (id : Nat) : (s.dropGroup id).net = s.net := rfl
@[simp] theorem State.dropGroup_trc (s : State) (id : Nat) : (s.dropGroup id).trc = s.trc := rfl
@[simp] theorem State.dropGroup_aud (s : State) (id : Nat) : (s.dropGroup id).aud = s.aud := rfl
@[simp] theorem State.dropGroup_mod (s : State) (id : Nat) : (s.dropGroup id).mod = s.mod := rfl

/-! ### One col -/

@[simp] theorem State.setCol_time (s : State) (n : Nat) (c : Col) : (s.setCol n c).time = s.time := by unfold State.setCol; split <;> rfl
@[simp] theorem State.setCol_tick (s : State) (n : Nat) (c : Col) : (s.setCol n c).tick = s.tick := by unfold State.setCol; split <;> rfl
@[simp] theorem State.setCol_inputs (s : State) (n : Nat) (c : Col) : (s.setCol n c).inputs = s.inputs := by unfold State.setCol; split <;> rfl
@[simp] theorem State.setCol_ev (s : State) (n : Nat) (c : Col) : (s.setCol n c).ev = s.ev := by unfold State.setCol; split <;> rfl
@[simp] theorem State.setCol_issuing (s : State) (n : Nat) (c : Col) : (s.setCol n c).issuing = s.issuing := by unfold State.setCol; split <;> rfl
@[simp] theorem State.setCol_cur (s : State) (n : Nat) (c : Col) : (s.setCol n c).cur = s.cur := by unfold State.setCol; split <;> rfl
@[simp] theorem State.setCol_mem (s : State) (n : Nat) (c : Col) : (s.setCol n c).mem = s.mem := by unfold State.setCol; split <;> rfl
@[simp] theorem State.setCol_poison (s : State) (n : Nat) (c : Col) : (s.setCol n c).poison = s.poison := by unfold State.setCol; split <;> rfl
@[simp] theorem State.setCol_cacheErr (s : State) (n : Nat) (c : Col) : (s.setCol n c).cacheErr = s.cacheErr := by unfold State.setCol; split <;> rfl
@[simp] theorem State.setCol_groups (s : State) (n : Nat) (c : Col) : (s.setCol n c).groups = s.groups := by unfold State.setCol; split <;> rfl
@[simp] theorem State.setCol_nextGroup (s : State) (n : Nat) (c : Col) : (s.setCol n c).nextGroup = s.nextGroup := by unfold State.setCol; split <;> rfl
@[simp] theorem State.setCol_teams (s : State) (n : Nat) (c : Col) : (s.setCol n c).teams = s.teams := by unfold State.setCol; split <;> rfl
@[simp] theorem State.setCol_saved (s : State) (n : Nat) (c : Col) : (s.setCol n c).saved = s.saved := by unfold State.setCol; split <;> rfl
@[simp] theorem State.setCol_contexts (s : State) (n : Nat) (c : Col) : (s.setCol n c).contexts = s.contexts := by unfold State.setCol; split <;> rfl
@[simp] theorem State.setCol_moving (s : State) (n : Nat) (c : Col) : (s.setCol n c).moving = s.moving := by unfold State.setCol; split <;> rfl
@[simp] theorem State.setCol_nextNum (s : State) (n : Nat) (c : Col) : (s.setCol n c).nextNum = s.nextNum := by unfold State.setCol; split <;> rfl
@[simp] theorem State.setCol_copies (s : State) (n : Nat) (c : Col) : (s.setCol n c).copies = s.copies := by unfold State.setCol; split <;> rfl
@[simp] theorem State.setCol_mtx (s : State) (n : Nat) (c : Col) : (s.setCol n c).mtx = s.mtx := by unfold State.setCol; split <;> rfl
@[simp] theorem State.setCol_merges (s : State) (n : Nat) (c : Col) : (s.setCol n c).merges = s.merges := by unfold State.setCol; split <;> rfl
@[simp] theorem State.setCol_tlb (s : State) (n : Nat) (c : Col) : (s.setCol n c).tlb = s.tlb := by unfold State.setCol; split <;> rfl
@[simp] theorem State.setCol_icache (s : State) (n : Nat) (c : Col) : (s.setCol n c).icache = s.icache := by unfold State.setCol; split <;> rfl
@[simp] theorem State.setCol_waiters (s : State) (n : Nat) (c : Col) : (s.setCol n c).waiters = s.waiters := by unfold State.setCol; split <;> rfl
@[simp] theorem State.setCol_fuses (s : State) (n : Nat) (c : Col) : (s.setCol n c).fuses = s.fuses := by unfold State.setCol; split <;> rfl
@[simp] theorem State.setCol_streams (s : State) (n : Nat) (c : Col) : (s.setCol n c).streams = s.streams := by unfold State.setCol; split <;> rfl
@[simp] theorem State.setCol_late (s : State) (n : Nat) (c : Col) : (s.setCol n c).late = s.late := by unfold State.setCol; split <;> rfl
@[simp] theorem State.setCol_lag (s : State) (n : Nat) (c : Col) : (s.setCol n c).lag = s.lag := by unfold State.setCol; split <;> rfl
@[simp] theorem State.setCol_cut (s : State) (n : Nat) (c : Col) : (s.setCol n c).cut = s.cut := by unfold State.setCol; split <;> rfl
@[simp] theorem State.setCol_queues (s : State) (n : Nat) (c : Col) : (s.setCol n c).queues = s.queues := by unfold State.setCol; split <;> rfl
@[simp] theorem State.setCol_sys (s : State) (n : Nat) (c : Col) : (s.setCol n c).sys = s.sys := by unfold State.setCol; split <;> rfl
@[simp] theorem State.setCol_keys (s : State) (n : Nat) (c : Col) : (s.setCol n c).keys = s.keys := by unfold State.setCol; split <;> rfl
@[simp] theorem State.setCol_net (s : State) (n : Nat) (c : Col) : (s.setCol n c).net = s.net := by unfold State.setCol; split <;> rfl
@[simp] theorem State.setCol_trc (s : State) (n : Nat) (c : Col) : (s.setCol n c).trc = s.trc := by unfold State.setCol; split <;> rfl
@[simp] theorem State.setCol_aud (s : State) (n : Nat) (c : Col) : (s.setCol n c).aud = s.aud := by unfold State.setCol; split <;> rfl
@[simp] theorem State.setCol_mod (s : State) (n : Nat) (c : Col) : (s.setCol n c).mod = s.mod := by unfold State.setCol; split <;> rfl

/-! ### One agent -/

@[simp] theorem State.setAg_time (s : State) (a : Agent) (g : Group) : (s.setAg a g).time = s.time := by cases a <;> simp [State.setAg]
@[simp] theorem State.setAg_tick (s : State) (a : Agent) (g : Group) : (s.setAg a g).tick = s.tick := by cases a <;> simp [State.setAg]
@[simp] theorem State.setAg_inputs (s : State) (a : Agent) (g : Group) : (s.setAg a g).inputs = s.inputs := by cases a <;> simp [State.setAg]
@[simp] theorem State.setAg_ev (s : State) (a : Agent) (g : Group) : (s.setAg a g).ev = s.ev := by cases a <;> simp [State.setAg]
@[simp] theorem State.setAg_issuing (s : State) (a : Agent) (g : Group) : (s.setAg a g).issuing = s.issuing := by cases a <;> simp [State.setAg]
@[simp] theorem State.setAg_cur (s : State) (a : Agent) (g : Group) : (s.setAg a g).cur = s.cur := by cases a <;> simp [State.setAg]
@[simp] theorem State.setAg_mem (s : State) (a : Agent) (g : Group) : (s.setAg a g).mem = s.mem := by cases a <;> simp [State.setAg]
@[simp] theorem State.setAg_poison (s : State) (a : Agent) (g : Group) : (s.setAg a g).poison = s.poison := by cases a <;> simp [State.setAg]
@[simp] theorem State.setAg_cacheErr (s : State) (a : Agent) (g : Group) : (s.setAg a g).cacheErr = s.cacheErr := by cases a <;> simp [State.setAg]
@[simp] theorem State.setAg_nextGroup (s : State) (a : Agent) (g : Group) : (s.setAg a g).nextGroup = s.nextGroup := by cases a <;> simp [State.setAg]
@[simp] theorem State.setAg_teams (s : State) (a : Agent) (g : Group) : (s.setAg a g).teams = s.teams := by cases a <;> simp [State.setAg]
@[simp] theorem State.setAg_saved (s : State) (a : Agent) (g : Group) : (s.setAg a g).saved = s.saved := by cases a <;> simp [State.setAg]
@[simp] theorem State.setAg_contexts (s : State) (a : Agent) (g : Group) : (s.setAg a g).contexts = s.contexts := by cases a <;> simp [State.setAg]
@[simp] theorem State.setAg_moving (s : State) (a : Agent) (g : Group) : (s.setAg a g).moving = s.moving := by cases a <;> simp [State.setAg]
@[simp] theorem State.setAg_nextNum (s : State) (a : Agent) (g : Group) : (s.setAg a g).nextNum = s.nextNum := by cases a <;> simp [State.setAg]
@[simp] theorem State.setAg_copies (s : State) (a : Agent) (g : Group) : (s.setAg a g).copies = s.copies := by cases a <;> simp [State.setAg]
@[simp] theorem State.setAg_mtx (s : State) (a : Agent) (g : Group) : (s.setAg a g).mtx = s.mtx := by cases a <;> simp [State.setAg]
@[simp] theorem State.setAg_merges (s : State) (a : Agent) (g : Group) : (s.setAg a g).merges = s.merges := by cases a <;> simp [State.setAg]
@[simp] theorem State.setAg_tlb (s : State) (a : Agent) (g : Group) : (s.setAg a g).tlb = s.tlb := by cases a <;> simp [State.setAg]
@[simp] theorem State.setAg_icache (s : State) (a : Agent) (g : Group) : (s.setAg a g).icache = s.icache := by cases a <;> simp [State.setAg]
@[simp] theorem State.setAg_waiters (s : State) (a : Agent) (g : Group) : (s.setAg a g).waiters = s.waiters := by cases a <;> simp [State.setAg]
@[simp] theorem State.setAg_fuses (s : State) (a : Agent) (g : Group) : (s.setAg a g).fuses = s.fuses := by cases a <;> simp [State.setAg]
@[simp] theorem State.setAg_streams (s : State) (a : Agent) (g : Group) : (s.setAg a g).streams = s.streams := by cases a <;> simp [State.setAg]
@[simp] theorem State.setAg_late (s : State) (a : Agent) (g : Group) : (s.setAg a g).late = s.late := by cases a <;> simp [State.setAg]
@[simp] theorem State.setAg_lag (s : State) (a : Agent) (g : Group) : (s.setAg a g).lag = s.lag := by cases a <;> simp [State.setAg]
@[simp] theorem State.setAg_cut (s : State) (a : Agent) (g : Group) : (s.setAg a g).cut = s.cut := by cases a <;> simp [State.setAg]
@[simp] theorem State.setAg_queues (s : State) (a : Agent) (g : Group) : (s.setAg a g).queues = s.queues := by cases a <;> simp [State.setAg]
@[simp] theorem State.setAg_sys (s : State) (a : Agent) (g : Group) : (s.setAg a g).sys = s.sys := by cases a <;> simp [State.setAg]
@[simp] theorem State.setAg_keys (s : State) (a : Agent) (g : Group) : (s.setAg a g).keys = s.keys := by cases a <;> simp [State.setAg]
@[simp] theorem State.setAg_net (s : State) (a : Agent) (g : Group) : (s.setAg a g).net = s.net := by cases a <;> simp [State.setAg]
@[simp] theorem State.setAg_trc (s : State) (a : Agent) (g : Group) : (s.setAg a g).trc = s.trc := by cases a <;> simp [State.setAg]
@[simp] theorem State.setAg_aud (s : State) (a : Agent) (g : Group) : (s.setAg a g).aud = s.aud := by cases a <;> simp [State.setAg]
@[simp] theorem State.setAg_mod (s : State) (a : Agent) (g : Group) : (s.setAg a g).mod = s.mod := by cases a <;> simp [State.setAg]

/-! ### One context -/

@[simp] theorem State.setCtx_time (s : State) (c : Context) : (s.setCtx c).time = s.time := rfl
@[simp] theorem State.setCtx_tick (s : State) (c : Context) : (s.setCtx c).tick = s.tick := rfl
@[simp] theorem State.setCtx_inputs (s : State) (c : Context) : (s.setCtx c).inputs = s.inputs := rfl
@[simp] theorem State.setCtx_ev (s : State) (c : Context) : (s.setCtx c).ev = s.ev := rfl
@[simp] theorem State.setCtx_issuing (s : State) (c : Context) : (s.setCtx c).issuing = s.issuing := rfl
@[simp] theorem State.setCtx_cur (s : State) (c : Context) : (s.setCtx c).cur = s.cur := rfl
@[simp] theorem State.setCtx_mem (s : State) (c : Context) : (s.setCtx c).mem = s.mem := rfl
@[simp] theorem State.setCtx_poison (s : State) (c : Context) : (s.setCtx c).poison = s.poison := rfl
@[simp] theorem State.setCtx_cacheErr (s : State) (c : Context) : (s.setCtx c).cacheErr = s.cacheErr := rfl
@[simp] theorem State.setCtx_groups (s : State) (c : Context) : (s.setCtx c).groups = s.groups := rfl
@[simp] theorem State.setCtx_nextGroup (s : State) (c : Context) : (s.setCtx c).nextGroup = s.nextGroup := rfl
@[simp] theorem State.setCtx_cols (s : State) (c : Context) : (s.setCtx c).cols = s.cols := rfl
@[simp] theorem State.setCtx_teams (s : State) (c : Context) : (s.setCtx c).teams = s.teams := rfl
@[simp] theorem State.setCtx_saved (s : State) (c : Context) : (s.setCtx c).saved = s.saved := rfl
@[simp] theorem State.setCtx_moving (s : State) (c : Context) : (s.setCtx c).moving = s.moving := rfl
@[simp] theorem State.setCtx_nextNum (s : State) (c : Context) : (s.setCtx c).nextNum = s.nextNum := rfl
@[simp] theorem State.setCtx_copies (s : State) (c : Context) : (s.setCtx c).copies = s.copies := rfl
@[simp] theorem State.setCtx_mtx (s : State) (c : Context) : (s.setCtx c).mtx = s.mtx := rfl
@[simp] theorem State.setCtx_merges (s : State) (c : Context) : (s.setCtx c).merges = s.merges := rfl
@[simp] theorem State.setCtx_tlb (s : State) (c : Context) : (s.setCtx c).tlb = s.tlb := rfl
@[simp] theorem State.setCtx_icache (s : State) (c : Context) : (s.setCtx c).icache = s.icache := rfl
@[simp] theorem State.setCtx_waiters (s : State) (c : Context) : (s.setCtx c).waiters = s.waiters := rfl
@[simp] theorem State.setCtx_fuses (s : State) (c : Context) : (s.setCtx c).fuses = s.fuses := rfl
@[simp] theorem State.setCtx_streams (s : State) (c : Context) : (s.setCtx c).streams = s.streams := rfl
@[simp] theorem State.setCtx_late (s : State) (c : Context) : (s.setCtx c).late = s.late := rfl
@[simp] theorem State.setCtx_lag (s : State) (c : Context) : (s.setCtx c).lag = s.lag := rfl
@[simp] theorem State.setCtx_cut (s : State) (c : Context) : (s.setCtx c).cut = s.cut := rfl
@[simp] theorem State.setCtx_queues (s : State) (c : Context) : (s.setCtx c).queues = s.queues := rfl
@[simp] theorem State.setCtx_sys (s : State) (c : Context) : (s.setCtx c).sys = s.sys := rfl
@[simp] theorem State.setCtx_keys (s : State) (c : Context) : (s.setCtx c).keys = s.keys := rfl
@[simp] theorem State.setCtx_net (s : State) (c : Context) : (s.setCtx c).net = s.net := rfl
@[simp] theorem State.setCtx_trc (s : State) (c : Context) : (s.setCtx c).trc = s.trc := rfl
@[simp] theorem State.setCtx_aud (s : State) (c : Context) : (s.setCtx c).aud = s.aud := rfl
@[simp] theorem State.setCtx_mod (s : State) (c : Context) : (s.setCtx c).mod = s.mod := rfl

/-! ### One team -/

@[simp] theorem State.setTeam_time (s : State) (t : Team) : (s.setTeam t).time = s.time := rfl
@[simp] theorem State.setTeam_tick (s : State) (t : Team) : (s.setTeam t).tick = s.tick := rfl
@[simp] theorem State.setTeam_inputs (s : State) (t : Team) : (s.setTeam t).inputs = s.inputs := rfl
@[simp] theorem State.setTeam_ev (s : State) (t : Team) : (s.setTeam t).ev = s.ev := rfl
@[simp] theorem State.setTeam_issuing (s : State) (t : Team) : (s.setTeam t).issuing = s.issuing := rfl
@[simp] theorem State.setTeam_cur (s : State) (t : Team) : (s.setTeam t).cur = s.cur := rfl
@[simp] theorem State.setTeam_mem (s : State) (t : Team) : (s.setTeam t).mem = s.mem := rfl
@[simp] theorem State.setTeam_poison (s : State) (t : Team) : (s.setTeam t).poison = s.poison := rfl
@[simp] theorem State.setTeam_cacheErr (s : State) (t : Team) : (s.setTeam t).cacheErr = s.cacheErr := rfl
@[simp] theorem State.setTeam_groups (s : State) (t : Team) : (s.setTeam t).groups = s.groups := rfl
@[simp] theorem State.setTeam_nextGroup (s : State) (t : Team) : (s.setTeam t).nextGroup = s.nextGroup := rfl
@[simp] theorem State.setTeam_cols (s : State) (t : Team) : (s.setTeam t).cols = s.cols := rfl
@[simp] theorem State.setTeam_saved (s : State) (t : Team) : (s.setTeam t).saved = s.saved := rfl
@[simp] theorem State.setTeam_contexts (s : State) (t : Team) : (s.setTeam t).contexts = s.contexts := rfl
@[simp] theorem State.setTeam_moving (s : State) (t : Team) : (s.setTeam t).moving = s.moving := rfl
@[simp] theorem State.setTeam_nextNum (s : State) (t : Team) : (s.setTeam t).nextNum = s.nextNum := rfl
@[simp] theorem State.setTeam_copies (s : State) (t : Team) : (s.setTeam t).copies = s.copies := rfl
@[simp] theorem State.setTeam_mtx (s : State) (t : Team) : (s.setTeam t).mtx = s.mtx := rfl
@[simp] theorem State.setTeam_merges (s : State) (t : Team) : (s.setTeam t).merges = s.merges := rfl
@[simp] theorem State.setTeam_tlb (s : State) (t : Team) : (s.setTeam t).tlb = s.tlb := rfl
@[simp] theorem State.setTeam_icache (s : State) (t : Team) : (s.setTeam t).icache = s.icache := rfl
@[simp] theorem State.setTeam_waiters (s : State) (t : Team) : (s.setTeam t).waiters = s.waiters := rfl
@[simp] theorem State.setTeam_fuses (s : State) (t : Team) : (s.setTeam t).fuses = s.fuses := rfl
@[simp] theorem State.setTeam_streams (s : State) (t : Team) : (s.setTeam t).streams = s.streams := rfl
@[simp] theorem State.setTeam_late (s : State) (t : Team) : (s.setTeam t).late = s.late := rfl
@[simp] theorem State.setTeam_lag (s : State) (t : Team) : (s.setTeam t).lag = s.lag := rfl
@[simp] theorem State.setTeam_cut (s : State) (t : Team) : (s.setTeam t).cut = s.cut := rfl
@[simp] theorem State.setTeam_queues (s : State) (t : Team) : (s.setTeam t).queues = s.queues := rfl
@[simp] theorem State.setTeam_sys (s : State) (t : Team) : (s.setTeam t).sys = s.sys := rfl
@[simp] theorem State.setTeam_keys (s : State) (t : Team) : (s.setTeam t).keys = s.keys := rfl
@[simp] theorem State.setTeam_net (s : State) (t : Team) : (s.setTeam t).net = s.net := rfl
@[simp] theorem State.setTeam_trc (s : State) (t : Team) : (s.setTeam t).trc = s.trc := rfl
@[simp] theorem State.setTeam_aud (s : State) (t : Team) : (s.setTeam t).aud = s.aud := rfl
@[simp] theorem State.setTeam_mod (s : State) (t : Team) : (s.setTeam t).mod = s.mod := rfl

/-! ### An operation completes -/

@[simp] theorem State.completeOp_time (s : State) (op : Nat) : (s.completeOp op).time = s.time := rfl
@[simp] theorem State.completeOp_tick (s : State) (op : Nat) : (s.completeOp op).tick = s.tick := rfl
@[simp] theorem State.completeOp_inputs (s : State) (op : Nat) : (s.completeOp op).inputs = s.inputs := rfl
@[simp] theorem State.completeOp_ev (s : State) (op : Nat) : (s.completeOp op).ev = s.ev := rfl
@[simp] theorem State.completeOp_issuing (s : State) (op : Nat) : (s.completeOp op).issuing = s.issuing := rfl
@[simp] theorem State.completeOp_cur (s : State) (op : Nat) : (s.completeOp op).cur = s.cur := rfl
@[simp] theorem State.completeOp_mem (s : State) (op : Nat) : (s.completeOp op).mem = s.mem := rfl
@[simp] theorem State.completeOp_poison (s : State) (op : Nat) : (s.completeOp op).poison = s.poison := rfl
@[simp] theorem State.completeOp_cacheErr (s : State) (op : Nat) : (s.completeOp op).cacheErr = s.cacheErr := rfl
@[simp] theorem State.completeOp_nextGroup (s : State) (op : Nat) : (s.completeOp op).nextGroup = s.nextGroup := rfl
@[simp] theorem State.completeOp_cols (s : State) (op : Nat) : (s.completeOp op).cols = s.cols := rfl
@[simp] theorem State.completeOp_saved (s : State) (op : Nat) : (s.completeOp op).saved = s.saved := rfl
@[simp] theorem State.completeOp_contexts (s : State) (op : Nat) : (s.completeOp op).contexts = s.contexts := rfl
@[simp] theorem State.completeOp_moving (s : State) (op : Nat) : (s.completeOp op).moving = s.moving := rfl
@[simp] theorem State.completeOp_nextNum (s : State) (op : Nat) : (s.completeOp op).nextNum = s.nextNum := rfl
@[simp] theorem State.completeOp_copies (s : State) (op : Nat) : (s.completeOp op).copies = s.copies := rfl
@[simp] theorem State.completeOp_mtx (s : State) (op : Nat) : (s.completeOp op).mtx = s.mtx := rfl
@[simp] theorem State.completeOp_merges (s : State) (op : Nat) : (s.completeOp op).merges = s.merges := rfl
@[simp] theorem State.completeOp_tlb (s : State) (op : Nat) : (s.completeOp op).tlb = s.tlb := rfl
@[simp] theorem State.completeOp_icache (s : State) (op : Nat) : (s.completeOp op).icache = s.icache := rfl
@[simp] theorem State.completeOp_waiters (s : State) (op : Nat) : (s.completeOp op).waiters = s.waiters := rfl
@[simp] theorem State.completeOp_fuses (s : State) (op : Nat) : (s.completeOp op).fuses = s.fuses := rfl
@[simp] theorem State.completeOp_streams (s : State) (op : Nat) : (s.completeOp op).streams = s.streams := rfl
@[simp] theorem State.completeOp_late (s : State) (op : Nat) : (s.completeOp op).late = s.late := rfl
@[simp] theorem State.completeOp_lag (s : State) (op : Nat) : (s.completeOp op).lag = s.lag := rfl
@[simp] theorem State.completeOp_cut (s : State) (op : Nat) : (s.completeOp op).cut = s.cut := rfl
@[simp] theorem State.completeOp_queues (s : State) (op : Nat) : (s.completeOp op).queues = s.queues := rfl
@[simp] theorem State.completeOp_sys (s : State) (op : Nat) : (s.completeOp op).sys = s.sys := rfl
@[simp] theorem State.completeOp_keys (s : State) (op : Nat) : (s.completeOp op).keys = s.keys := rfl
@[simp] theorem State.completeOp_net (s : State) (op : Nat) : (s.completeOp op).net = s.net := rfl
@[simp] theorem State.completeOp_trc (s : State) (op : Nat) : (s.completeOp op).trc = s.trc := rfl
@[simp] theorem State.completeOp_aud (s : State) (op : Nat) : (s.completeOp op).aud = s.aud := rfl
@[simp] theorem State.completeOp_mod (s : State) (op : Nat) : (s.completeOp op).mod = s.mod := rfl

/-! ### One tenant -/

@[simp] theorem State.setTenant_time (s : State) (t : Tenant) : (s.setTenant t).time = s.time := rfl
@[simp] theorem State.setTenant_tick (s : State) (t : Tenant) : (s.setTenant t).tick = s.tick := rfl
@[simp] theorem State.setTenant_inputs (s : State) (t : Tenant) : (s.setTenant t).inputs = s.inputs := rfl
@[simp] theorem State.setTenant_ev (s : State) (t : Tenant) : (s.setTenant t).ev = s.ev := rfl
@[simp] theorem State.setTenant_issuing (s : State) (t : Tenant) : (s.setTenant t).issuing = s.issuing := rfl
@[simp] theorem State.setTenant_cur (s : State) (t : Tenant) : (s.setTenant t).cur = s.cur := rfl
@[simp] theorem State.setTenant_mem (s : State) (t : Tenant) : (s.setTenant t).mem = s.mem := rfl
@[simp] theorem State.setTenant_poison (s : State) (t : Tenant) : (s.setTenant t).poison = s.poison := rfl
@[simp] theorem State.setTenant_cacheErr (s : State) (t : Tenant) : (s.setTenant t).cacheErr = s.cacheErr := rfl
@[simp] theorem State.setTenant_groups (s : State) (t : Tenant) : (s.setTenant t).groups = s.groups := rfl
@[simp] theorem State.setTenant_nextGroup (s : State) (t : Tenant) : (s.setTenant t).nextGroup = s.nextGroup := rfl
@[simp] theorem State.setTenant_cols (s : State) (t : Tenant) : (s.setTenant t).cols = s.cols := rfl
@[simp] theorem State.setTenant_teams (s : State) (t : Tenant) : (s.setTenant t).teams = s.teams := rfl
@[simp] theorem State.setTenant_saved (s : State) (t : Tenant) : (s.setTenant t).saved = s.saved := rfl
@[simp] theorem State.setTenant_contexts (s : State) (t : Tenant) : (s.setTenant t).contexts = s.contexts := rfl
@[simp] theorem State.setTenant_moving (s : State) (t : Tenant) : (s.setTenant t).moving = s.moving := rfl
@[simp] theorem State.setTenant_nextNum (s : State) (t : Tenant) : (s.setTenant t).nextNum = s.nextNum := rfl
@[simp] theorem State.setTenant_copies (s : State) (t : Tenant) : (s.setTenant t).copies = s.copies := rfl
@[simp] theorem State.setTenant_mtx (s : State) (t : Tenant) : (s.setTenant t).mtx = s.mtx := rfl
@[simp] theorem State.setTenant_merges (s : State) (t : Tenant) : (s.setTenant t).merges = s.merges := rfl
@[simp] theorem State.setTenant_tlb (s : State) (t : Tenant) : (s.setTenant t).tlb = s.tlb := rfl
@[simp] theorem State.setTenant_icache (s : State) (t : Tenant) : (s.setTenant t).icache = s.icache := rfl
@[simp] theorem State.setTenant_waiters (s : State) (t : Tenant) : (s.setTenant t).waiters = s.waiters := rfl
@[simp] theorem State.setTenant_fuses (s : State) (t : Tenant) : (s.setTenant t).fuses = s.fuses := rfl
@[simp] theorem State.setTenant_streams (s : State) (t : Tenant) : (s.setTenant t).streams = s.streams := rfl
@[simp] theorem State.setTenant_late (s : State) (t : Tenant) : (s.setTenant t).late = s.late := rfl
@[simp] theorem State.setTenant_lag (s : State) (t : Tenant) : (s.setTenant t).lag = s.lag := rfl
@[simp] theorem State.setTenant_cut (s : State) (t : Tenant) : (s.setTenant t).cut = s.cut := rfl
@[simp] theorem State.setTenant_queues (s : State) (t : Tenant) : (s.setTenant t).queues = s.queues := rfl
@[simp] theorem State.setTenant_sys (s : State) (t : Tenant) : (s.setTenant t).sys = s.sys := rfl
@[simp] theorem State.setTenant_keys (s : State) (t : Tenant) : (s.setTenant t).keys = s.keys := rfl
@[simp] theorem State.setTenant_net (s : State) (t : Tenant) : (s.setTenant t).net = s.net := rfl
@[simp] theorem State.setTenant_aud (s : State) (t : Tenant) : (s.setTenant t).aud = s.aud := rfl
@[simp] theorem State.setTenant_mod (s : State) (t : Tenant) : (s.setTenant t).mod = s.mod := rfl

/-! ### Trace records -/

/-- A record that enters a buffer changes the trace fabric alone. -/
theorem State.enterRec_eq (s : State) (t : Tenant) (r : TracePend) : ∃ x, s.enterRec t r = { s with trc := x } := by
  unfold State.enterRec State.takeStall
  cases s.trc.srcs.find? fun y => y.src == r.src <;> exact ⟨_, rfl⟩

/-- A trace record changes the trace fabric alone. -/
theorem State.emitTo_eq (s : State) (ten src kind tag : Nat) (pay : List Byte) (core : Nat) (gid : Option Nat) :
    ∃ r, s.emitTo ten src kind tag pay core gid = { s with trc := r } := by
  unfold State.emitTo
  split
  · exact ⟨s.trc, rfl⟩
  · dsimp only [State.nextSeq]
    split
    · exact ⟨s.trc, rfl⟩
    · split
      · exact State.enterRec_eq ..
      · split
        · exact ⟨_, rfl⟩
        · split <;> exact ⟨_, rfl⟩

theorem State.traceG_eq (s : State) (a : Agent) (g : Group) (cls kind tag pc x d : Nat) :
    ∃ r, s.traceG a g cls kind tag pc x d = { s with trc := r } := by
  cases a <;> exact State.emitTo_eq ..

theorem State.traceI_eq (s : State) (a : Agent) (g : Group) (kind x d : Nat) : ∃ r, s.traceI a g kind x d = { s with trc := r } :=
  State.traceG_eq ..

theorem State.traceCol_eq (s : State) (ctx ridge kind : Nat) (pay : List Byte) : ∃ r, s.traceCol ctx ridge kind pay = { s with trc := r } :=
  State.emitTo_eq ..

/-! ### A record for a tenant -/

@[simp] theorem State.emitTo_time (s : State) (ten src kind tag : Nat) (pay : List Byte) (core : Nat) (gid : Option Nat) : (s.emitTo ten src kind tag pay core gid).time = s.time := by obtain ⟨r, h⟩ := State.emitTo_eq s ten src kind tag pay core gid; rw [h]
@[simp] theorem State.emitTo_tick (s : State) (ten src kind tag : Nat) (pay : List Byte) (core : Nat) (gid : Option Nat) : (s.emitTo ten src kind tag pay core gid).tick = s.tick := by obtain ⟨r, h⟩ := State.emitTo_eq s ten src kind tag pay core gid; rw [h]
@[simp] theorem State.emitTo_inputs (s : State) (ten src kind tag : Nat) (pay : List Byte) (core : Nat) (gid : Option Nat) : (s.emitTo ten src kind tag pay core gid).inputs = s.inputs := by obtain ⟨r, h⟩ := State.emitTo_eq s ten src kind tag pay core gid; rw [h]
@[simp] theorem State.emitTo_ev (s : State) (ten src kind tag : Nat) (pay : List Byte) (core : Nat) (gid : Option Nat) : (s.emitTo ten src kind tag pay core gid).ev = s.ev := by obtain ⟨r, h⟩ := State.emitTo_eq s ten src kind tag pay core gid; rw [h]
@[simp] theorem State.emitTo_issuing (s : State) (ten src kind tag : Nat) (pay : List Byte) (core : Nat) (gid : Option Nat) : (s.emitTo ten src kind tag pay core gid).issuing = s.issuing := by obtain ⟨r, h⟩ := State.emitTo_eq s ten src kind tag pay core gid; rw [h]
@[simp] theorem State.emitTo_cur (s : State) (ten src kind tag : Nat) (pay : List Byte) (core : Nat) (gid : Option Nat) : (s.emitTo ten src kind tag pay core gid).cur = s.cur := by obtain ⟨r, h⟩ := State.emitTo_eq s ten src kind tag pay core gid; rw [h]
@[simp] theorem State.emitTo_mem (s : State) (ten src kind tag : Nat) (pay : List Byte) (core : Nat) (gid : Option Nat) : (s.emitTo ten src kind tag pay core gid).mem = s.mem := by obtain ⟨r, h⟩ := State.emitTo_eq s ten src kind tag pay core gid; rw [h]
@[simp] theorem State.emitTo_poison (s : State) (ten src kind tag : Nat) (pay : List Byte) (core : Nat) (gid : Option Nat) : (s.emitTo ten src kind tag pay core gid).poison = s.poison := by obtain ⟨r, h⟩ := State.emitTo_eq s ten src kind tag pay core gid; rw [h]
@[simp] theorem State.emitTo_cacheErr (s : State) (ten src kind tag : Nat) (pay : List Byte) (core : Nat) (gid : Option Nat) : (s.emitTo ten src kind tag pay core gid).cacheErr = s.cacheErr := by obtain ⟨r, h⟩ := State.emitTo_eq s ten src kind tag pay core gid; rw [h]
@[simp] theorem State.emitTo_groups (s : State) (ten src kind tag : Nat) (pay : List Byte) (core : Nat) (gid : Option Nat) : (s.emitTo ten src kind tag pay core gid).groups = s.groups := by obtain ⟨r, h⟩ := State.emitTo_eq s ten src kind tag pay core gid; rw [h]
@[simp] theorem State.emitTo_nextGroup (s : State) (ten src kind tag : Nat) (pay : List Byte) (core : Nat) (gid : Option Nat) : (s.emitTo ten src kind tag pay core gid).nextGroup = s.nextGroup := by obtain ⟨r, h⟩ := State.emitTo_eq s ten src kind tag pay core gid; rw [h]
@[simp] theorem State.emitTo_cols (s : State) (ten src kind tag : Nat) (pay : List Byte) (core : Nat) (gid : Option Nat) : (s.emitTo ten src kind tag pay core gid).cols = s.cols := by obtain ⟨r, h⟩ := State.emitTo_eq s ten src kind tag pay core gid; rw [h]
@[simp] theorem State.emitTo_teams (s : State) (ten src kind tag : Nat) (pay : List Byte) (core : Nat) (gid : Option Nat) : (s.emitTo ten src kind tag pay core gid).teams = s.teams := by obtain ⟨r, h⟩ := State.emitTo_eq s ten src kind tag pay core gid; rw [h]
@[simp] theorem State.emitTo_saved (s : State) (ten src kind tag : Nat) (pay : List Byte) (core : Nat) (gid : Option Nat) : (s.emitTo ten src kind tag pay core gid).saved = s.saved := by obtain ⟨r, h⟩ := State.emitTo_eq s ten src kind tag pay core gid; rw [h]
@[simp] theorem State.emitTo_contexts (s : State) (ten src kind tag : Nat) (pay : List Byte) (core : Nat) (gid : Option Nat) : (s.emitTo ten src kind tag pay core gid).contexts = s.contexts := by obtain ⟨r, h⟩ := State.emitTo_eq s ten src kind tag pay core gid; rw [h]
@[simp] theorem State.emitTo_moving (s : State) (ten src kind tag : Nat) (pay : List Byte) (core : Nat) (gid : Option Nat) : (s.emitTo ten src kind tag pay core gid).moving = s.moving := by obtain ⟨r, h⟩ := State.emitTo_eq s ten src kind tag pay core gid; rw [h]
@[simp] theorem State.emitTo_nextNum (s : State) (ten src kind tag : Nat) (pay : List Byte) (core : Nat) (gid : Option Nat) : (s.emitTo ten src kind tag pay core gid).nextNum = s.nextNum := by obtain ⟨r, h⟩ := State.emitTo_eq s ten src kind tag pay core gid; rw [h]
@[simp] theorem State.emitTo_copies (s : State) (ten src kind tag : Nat) (pay : List Byte) (core : Nat) (gid : Option Nat) : (s.emitTo ten src kind tag pay core gid).copies = s.copies := by obtain ⟨r, h⟩ := State.emitTo_eq s ten src kind tag pay core gid; rw [h]
@[simp] theorem State.emitTo_mtx (s : State) (ten src kind tag : Nat) (pay : List Byte) (core : Nat) (gid : Option Nat) : (s.emitTo ten src kind tag pay core gid).mtx = s.mtx := by obtain ⟨r, h⟩ := State.emitTo_eq s ten src kind tag pay core gid; rw [h]
@[simp] theorem State.emitTo_merges (s : State) (ten src kind tag : Nat) (pay : List Byte) (core : Nat) (gid : Option Nat) : (s.emitTo ten src kind tag pay core gid).merges = s.merges := by obtain ⟨r, h⟩ := State.emitTo_eq s ten src kind tag pay core gid; rw [h]
@[simp] theorem State.emitTo_tlb (s : State) (ten src kind tag : Nat) (pay : List Byte) (core : Nat) (gid : Option Nat) : (s.emitTo ten src kind tag pay core gid).tlb = s.tlb := by obtain ⟨r, h⟩ := State.emitTo_eq s ten src kind tag pay core gid; rw [h]
@[simp] theorem State.emitTo_icache (s : State) (ten src kind tag : Nat) (pay : List Byte) (core : Nat) (gid : Option Nat) : (s.emitTo ten src kind tag pay core gid).icache = s.icache := by obtain ⟨r, h⟩ := State.emitTo_eq s ten src kind tag pay core gid; rw [h]
@[simp] theorem State.emitTo_waiters (s : State) (ten src kind tag : Nat) (pay : List Byte) (core : Nat) (gid : Option Nat) : (s.emitTo ten src kind tag pay core gid).waiters = s.waiters := by obtain ⟨r, h⟩ := State.emitTo_eq s ten src kind tag pay core gid; rw [h]
@[simp] theorem State.emitTo_fuses (s : State) (ten src kind tag : Nat) (pay : List Byte) (core : Nat) (gid : Option Nat) : (s.emitTo ten src kind tag pay core gid).fuses = s.fuses := by obtain ⟨r, h⟩ := State.emitTo_eq s ten src kind tag pay core gid; rw [h]
@[simp] theorem State.emitTo_streams (s : State) (ten src kind tag : Nat) (pay : List Byte) (core : Nat) (gid : Option Nat) : (s.emitTo ten src kind tag pay core gid).streams = s.streams := by obtain ⟨r, h⟩ := State.emitTo_eq s ten src kind tag pay core gid; rw [h]
@[simp] theorem State.emitTo_late (s : State) (ten src kind tag : Nat) (pay : List Byte) (core : Nat) (gid : Option Nat) : (s.emitTo ten src kind tag pay core gid).late = s.late := by obtain ⟨r, h⟩ := State.emitTo_eq s ten src kind tag pay core gid; rw [h]
@[simp] theorem State.emitTo_lag (s : State) (ten src kind tag : Nat) (pay : List Byte) (core : Nat) (gid : Option Nat) : (s.emitTo ten src kind tag pay core gid).lag = s.lag := by obtain ⟨r, h⟩ := State.emitTo_eq s ten src kind tag pay core gid; rw [h]
@[simp] theorem State.emitTo_cut (s : State) (ten src kind tag : Nat) (pay : List Byte) (core : Nat) (gid : Option Nat) : (s.emitTo ten src kind tag pay core gid).cut = s.cut := by obtain ⟨r, h⟩ := State.emitTo_eq s ten src kind tag pay core gid; rw [h]
@[simp] theorem State.emitTo_queues (s : State) (ten src kind tag : Nat) (pay : List Byte) (core : Nat) (gid : Option Nat) : (s.emitTo ten src kind tag pay core gid).queues = s.queues := by obtain ⟨r, h⟩ := State.emitTo_eq s ten src kind tag pay core gid; rw [h]
@[simp] theorem State.emitTo_sys (s : State) (ten src kind tag : Nat) (pay : List Byte) (core : Nat) (gid : Option Nat) : (s.emitTo ten src kind tag pay core gid).sys = s.sys := by obtain ⟨r, h⟩ := State.emitTo_eq s ten src kind tag pay core gid; rw [h]
@[simp] theorem State.emitTo_keys (s : State) (ten src kind tag : Nat) (pay : List Byte) (core : Nat) (gid : Option Nat) : (s.emitTo ten src kind tag pay core gid).keys = s.keys := by obtain ⟨r, h⟩ := State.emitTo_eq s ten src kind tag pay core gid; rw [h]
@[simp] theorem State.emitTo_net (s : State) (ten src kind tag : Nat) (pay : List Byte) (core : Nat) (gid : Option Nat) : (s.emitTo ten src kind tag pay core gid).net = s.net := by obtain ⟨r, h⟩ := State.emitTo_eq s ten src kind tag pay core gid; rw [h]
@[simp] theorem State.emitTo_aud (s : State) (ten src kind tag : Nat) (pay : List Byte) (core : Nat) (gid : Option Nat) : (s.emitTo ten src kind tag pay core gid).aud = s.aud := by obtain ⟨r, h⟩ := State.emitTo_eq s ten src kind tag pay core gid; rw [h]
@[simp] theorem State.emitTo_mod (s : State) (ten src kind tag : Nat) (pay : List Byte) (core : Nat) (gid : Option Nat) : (s.emitTo ten src kind tag pay core gid).mod = s.mod := by obtain ⟨r, h⟩ := State.emitTo_eq s ten src kind tag pay core gid; rw [h]

/-! ### A record of a group -/

@[simp] theorem State.traceG_time (s : State) (a : Agent) (g : Group) (cls kind tag pc x d : Nat) : (s.traceG a g cls kind tag pc x d).time = s.time := by obtain ⟨r, h⟩ := State.traceG_eq s a g cls kind tag pc x d; rw [h]
@[simp] theorem State.traceG_tick (s : State) (a : Agent) (g : Group) (cls kind tag pc x d : Nat) : (s.traceG a g cls kind tag pc x d).tick = s.tick := by obtain ⟨r, h⟩ := State.traceG_eq s a g cls kind tag pc x d; rw [h]
@[simp] theorem State.traceG_inputs (s : State) (a : Agent) (g : Group) (cls kind tag pc x d : Nat) : (s.traceG a g cls kind tag pc x d).inputs = s.inputs := by obtain ⟨r, h⟩ := State.traceG_eq s a g cls kind tag pc x d; rw [h]
@[simp] theorem State.traceG_ev (s : State) (a : Agent) (g : Group) (cls kind tag pc x d : Nat) : (s.traceG a g cls kind tag pc x d).ev = s.ev := by obtain ⟨r, h⟩ := State.traceG_eq s a g cls kind tag pc x d; rw [h]
@[simp] theorem State.traceG_issuing (s : State) (a : Agent) (g : Group) (cls kind tag pc x d : Nat) : (s.traceG a g cls kind tag pc x d).issuing = s.issuing := by obtain ⟨r, h⟩ := State.traceG_eq s a g cls kind tag pc x d; rw [h]
@[simp] theorem State.traceG_cur (s : State) (a : Agent) (g : Group) (cls kind tag pc x d : Nat) : (s.traceG a g cls kind tag pc x d).cur = s.cur := by obtain ⟨r, h⟩ := State.traceG_eq s a g cls kind tag pc x d; rw [h]
@[simp] theorem State.traceG_mem (s : State) (a : Agent) (g : Group) (cls kind tag pc x d : Nat) : (s.traceG a g cls kind tag pc x d).mem = s.mem := by obtain ⟨r, h⟩ := State.traceG_eq s a g cls kind tag pc x d; rw [h]
@[simp] theorem State.traceG_poison (s : State) (a : Agent) (g : Group) (cls kind tag pc x d : Nat) : (s.traceG a g cls kind tag pc x d).poison = s.poison := by obtain ⟨r, h⟩ := State.traceG_eq s a g cls kind tag pc x d; rw [h]
@[simp] theorem State.traceG_cacheErr (s : State) (a : Agent) (g : Group) (cls kind tag pc x d : Nat) : (s.traceG a g cls kind tag pc x d).cacheErr = s.cacheErr := by obtain ⟨r, h⟩ := State.traceG_eq s a g cls kind tag pc x d; rw [h]
@[simp] theorem State.traceG_groups (s : State) (a : Agent) (g : Group) (cls kind tag pc x d : Nat) : (s.traceG a g cls kind tag pc x d).groups = s.groups := by obtain ⟨r, h⟩ := State.traceG_eq s a g cls kind tag pc x d; rw [h]
@[simp] theorem State.traceG_nextGroup (s : State) (a : Agent) (g : Group) (cls kind tag pc x d : Nat) : (s.traceG a g cls kind tag pc x d).nextGroup = s.nextGroup := by obtain ⟨r, h⟩ := State.traceG_eq s a g cls kind tag pc x d; rw [h]
@[simp] theorem State.traceG_cols (s : State) (a : Agent) (g : Group) (cls kind tag pc x d : Nat) : (s.traceG a g cls kind tag pc x d).cols = s.cols := by obtain ⟨r, h⟩ := State.traceG_eq s a g cls kind tag pc x d; rw [h]
@[simp] theorem State.traceG_teams (s : State) (a : Agent) (g : Group) (cls kind tag pc x d : Nat) : (s.traceG a g cls kind tag pc x d).teams = s.teams := by obtain ⟨r, h⟩ := State.traceG_eq s a g cls kind tag pc x d; rw [h]
@[simp] theorem State.traceG_saved (s : State) (a : Agent) (g : Group) (cls kind tag pc x d : Nat) : (s.traceG a g cls kind tag pc x d).saved = s.saved := by obtain ⟨r, h⟩ := State.traceG_eq s a g cls kind tag pc x d; rw [h]
@[simp] theorem State.traceG_contexts (s : State) (a : Agent) (g : Group) (cls kind tag pc x d : Nat) : (s.traceG a g cls kind tag pc x d).contexts = s.contexts := by obtain ⟨r, h⟩ := State.traceG_eq s a g cls kind tag pc x d; rw [h]
@[simp] theorem State.traceG_moving (s : State) (a : Agent) (g : Group) (cls kind tag pc x d : Nat) : (s.traceG a g cls kind tag pc x d).moving = s.moving := by obtain ⟨r, h⟩ := State.traceG_eq s a g cls kind tag pc x d; rw [h]
@[simp] theorem State.traceG_nextNum (s : State) (a : Agent) (g : Group) (cls kind tag pc x d : Nat) : (s.traceG a g cls kind tag pc x d).nextNum = s.nextNum := by obtain ⟨r, h⟩ := State.traceG_eq s a g cls kind tag pc x d; rw [h]
@[simp] theorem State.traceG_copies (s : State) (a : Agent) (g : Group) (cls kind tag pc x d : Nat) : (s.traceG a g cls kind tag pc x d).copies = s.copies := by obtain ⟨r, h⟩ := State.traceG_eq s a g cls kind tag pc x d; rw [h]
@[simp] theorem State.traceG_mtx (s : State) (a : Agent) (g : Group) (cls kind tag pc x d : Nat) : (s.traceG a g cls kind tag pc x d).mtx = s.mtx := by obtain ⟨r, h⟩ := State.traceG_eq s a g cls kind tag pc x d; rw [h]
@[simp] theorem State.traceG_merges (s : State) (a : Agent) (g : Group) (cls kind tag pc x d : Nat) : (s.traceG a g cls kind tag pc x d).merges = s.merges := by obtain ⟨r, h⟩ := State.traceG_eq s a g cls kind tag pc x d; rw [h]
@[simp] theorem State.traceG_tlb (s : State) (a : Agent) (g : Group) (cls kind tag pc x d : Nat) : (s.traceG a g cls kind tag pc x d).tlb = s.tlb := by obtain ⟨r, h⟩ := State.traceG_eq s a g cls kind tag pc x d; rw [h]
@[simp] theorem State.traceG_icache (s : State) (a : Agent) (g : Group) (cls kind tag pc x d : Nat) : (s.traceG a g cls kind tag pc x d).icache = s.icache := by obtain ⟨r, h⟩ := State.traceG_eq s a g cls kind tag pc x d; rw [h]
@[simp] theorem State.traceG_waiters (s : State) (a : Agent) (g : Group) (cls kind tag pc x d : Nat) : (s.traceG a g cls kind tag pc x d).waiters = s.waiters := by obtain ⟨r, h⟩ := State.traceG_eq s a g cls kind tag pc x d; rw [h]
@[simp] theorem State.traceG_fuses (s : State) (a : Agent) (g : Group) (cls kind tag pc x d : Nat) : (s.traceG a g cls kind tag pc x d).fuses = s.fuses := by obtain ⟨r, h⟩ := State.traceG_eq s a g cls kind tag pc x d; rw [h]
@[simp] theorem State.traceG_streams (s : State) (a : Agent) (g : Group) (cls kind tag pc x d : Nat) : (s.traceG a g cls kind tag pc x d).streams = s.streams := by obtain ⟨r, h⟩ := State.traceG_eq s a g cls kind tag pc x d; rw [h]
@[simp] theorem State.traceG_late (s : State) (a : Agent) (g : Group) (cls kind tag pc x d : Nat) : (s.traceG a g cls kind tag pc x d).late = s.late := by obtain ⟨r, h⟩ := State.traceG_eq s a g cls kind tag pc x d; rw [h]
@[simp] theorem State.traceG_lag (s : State) (a : Agent) (g : Group) (cls kind tag pc x d : Nat) : (s.traceG a g cls kind tag pc x d).lag = s.lag := by obtain ⟨r, h⟩ := State.traceG_eq s a g cls kind tag pc x d; rw [h]
@[simp] theorem State.traceG_cut (s : State) (a : Agent) (g : Group) (cls kind tag pc x d : Nat) : (s.traceG a g cls kind tag pc x d).cut = s.cut := by obtain ⟨r, h⟩ := State.traceG_eq s a g cls kind tag pc x d; rw [h]
@[simp] theorem State.traceG_queues (s : State) (a : Agent) (g : Group) (cls kind tag pc x d : Nat) : (s.traceG a g cls kind tag pc x d).queues = s.queues := by obtain ⟨r, h⟩ := State.traceG_eq s a g cls kind tag pc x d; rw [h]
@[simp] theorem State.traceG_sys (s : State) (a : Agent) (g : Group) (cls kind tag pc x d : Nat) : (s.traceG a g cls kind tag pc x d).sys = s.sys := by obtain ⟨r, h⟩ := State.traceG_eq s a g cls kind tag pc x d; rw [h]
@[simp] theorem State.traceG_keys (s : State) (a : Agent) (g : Group) (cls kind tag pc x d : Nat) : (s.traceG a g cls kind tag pc x d).keys = s.keys := by obtain ⟨r, h⟩ := State.traceG_eq s a g cls kind tag pc x d; rw [h]
@[simp] theorem State.traceG_net (s : State) (a : Agent) (g : Group) (cls kind tag pc x d : Nat) : (s.traceG a g cls kind tag pc x d).net = s.net := by obtain ⟨r, h⟩ := State.traceG_eq s a g cls kind tag pc x d; rw [h]
@[simp] theorem State.traceG_aud (s : State) (a : Agent) (g : Group) (cls kind tag pc x d : Nat) : (s.traceG a g cls kind tag pc x d).aud = s.aud := by obtain ⟨r, h⟩ := State.traceG_eq s a g cls kind tag pc x d; rw [h]
@[simp] theorem State.traceG_mod (s : State) (a : Agent) (g : Group) (cls kind tag pc x d : Nat) : (s.traceG a g cls kind tag pc x d).mod = s.mod := by obtain ⟨r, h⟩ := State.traceG_eq s a g cls kind tag pc x d; rw [h]

/-! ### A record of an issue unit -/

@[simp] theorem State.traceI_time (s : State) (a : Agent) (g : Group) (kind x d : Nat) : (s.traceI a g kind x d).time = s.time := by obtain ⟨r, h⟩ := State.traceI_eq s a g kind x d; rw [h]
@[simp] theorem State.traceI_tick (s : State) (a : Agent) (g : Group) (kind x d : Nat) : (s.traceI a g kind x d).tick = s.tick := by obtain ⟨r, h⟩ := State.traceI_eq s a g kind x d; rw [h]
@[simp] theorem State.traceI_inputs (s : State) (a : Agent) (g : Group) (kind x d : Nat) : (s.traceI a g kind x d).inputs = s.inputs := by obtain ⟨r, h⟩ := State.traceI_eq s a g kind x d; rw [h]
@[simp] theorem State.traceI_ev (s : State) (a : Agent) (g : Group) (kind x d : Nat) : (s.traceI a g kind x d).ev = s.ev := by obtain ⟨r, h⟩ := State.traceI_eq s a g kind x d; rw [h]
@[simp] theorem State.traceI_issuing (s : State) (a : Agent) (g : Group) (kind x d : Nat) : (s.traceI a g kind x d).issuing = s.issuing := by obtain ⟨r, h⟩ := State.traceI_eq s a g kind x d; rw [h]
@[simp] theorem State.traceI_cur (s : State) (a : Agent) (g : Group) (kind x d : Nat) : (s.traceI a g kind x d).cur = s.cur := by obtain ⟨r, h⟩ := State.traceI_eq s a g kind x d; rw [h]
@[simp] theorem State.traceI_mem (s : State) (a : Agent) (g : Group) (kind x d : Nat) : (s.traceI a g kind x d).mem = s.mem := by obtain ⟨r, h⟩ := State.traceI_eq s a g kind x d; rw [h]
@[simp] theorem State.traceI_poison (s : State) (a : Agent) (g : Group) (kind x d : Nat) : (s.traceI a g kind x d).poison = s.poison := by obtain ⟨r, h⟩ := State.traceI_eq s a g kind x d; rw [h]
@[simp] theorem State.traceI_cacheErr (s : State) (a : Agent) (g : Group) (kind x d : Nat) : (s.traceI a g kind x d).cacheErr = s.cacheErr := by obtain ⟨r, h⟩ := State.traceI_eq s a g kind x d; rw [h]
@[simp] theorem State.traceI_groups (s : State) (a : Agent) (g : Group) (kind x d : Nat) : (s.traceI a g kind x d).groups = s.groups := by obtain ⟨r, h⟩ := State.traceI_eq s a g kind x d; rw [h]
@[simp] theorem State.traceI_nextGroup (s : State) (a : Agent) (g : Group) (kind x d : Nat) : (s.traceI a g kind x d).nextGroup = s.nextGroup := by obtain ⟨r, h⟩ := State.traceI_eq s a g kind x d; rw [h]
@[simp] theorem State.traceI_cols (s : State) (a : Agent) (g : Group) (kind x d : Nat) : (s.traceI a g kind x d).cols = s.cols := by obtain ⟨r, h⟩ := State.traceI_eq s a g kind x d; rw [h]
@[simp] theorem State.traceI_teams (s : State) (a : Agent) (g : Group) (kind x d : Nat) : (s.traceI a g kind x d).teams = s.teams := by obtain ⟨r, h⟩ := State.traceI_eq s a g kind x d; rw [h]
@[simp] theorem State.traceI_saved (s : State) (a : Agent) (g : Group) (kind x d : Nat) : (s.traceI a g kind x d).saved = s.saved := by obtain ⟨r, h⟩ := State.traceI_eq s a g kind x d; rw [h]
@[simp] theorem State.traceI_contexts (s : State) (a : Agent) (g : Group) (kind x d : Nat) : (s.traceI a g kind x d).contexts = s.contexts := by obtain ⟨r, h⟩ := State.traceI_eq s a g kind x d; rw [h]
@[simp] theorem State.traceI_moving (s : State) (a : Agent) (g : Group) (kind x d : Nat) : (s.traceI a g kind x d).moving = s.moving := by obtain ⟨r, h⟩ := State.traceI_eq s a g kind x d; rw [h]
@[simp] theorem State.traceI_nextNum (s : State) (a : Agent) (g : Group) (kind x d : Nat) : (s.traceI a g kind x d).nextNum = s.nextNum := by obtain ⟨r, h⟩ := State.traceI_eq s a g kind x d; rw [h]
@[simp] theorem State.traceI_copies (s : State) (a : Agent) (g : Group) (kind x d : Nat) : (s.traceI a g kind x d).copies = s.copies := by obtain ⟨r, h⟩ := State.traceI_eq s a g kind x d; rw [h]
@[simp] theorem State.traceI_mtx (s : State) (a : Agent) (g : Group) (kind x d : Nat) : (s.traceI a g kind x d).mtx = s.mtx := by obtain ⟨r, h⟩ := State.traceI_eq s a g kind x d; rw [h]
@[simp] theorem State.traceI_merges (s : State) (a : Agent) (g : Group) (kind x d : Nat) : (s.traceI a g kind x d).merges = s.merges := by obtain ⟨r, h⟩ := State.traceI_eq s a g kind x d; rw [h]
@[simp] theorem State.traceI_tlb (s : State) (a : Agent) (g : Group) (kind x d : Nat) : (s.traceI a g kind x d).tlb = s.tlb := by obtain ⟨r, h⟩ := State.traceI_eq s a g kind x d; rw [h]
@[simp] theorem State.traceI_icache (s : State) (a : Agent) (g : Group) (kind x d : Nat) : (s.traceI a g kind x d).icache = s.icache := by obtain ⟨r, h⟩ := State.traceI_eq s a g kind x d; rw [h]
@[simp] theorem State.traceI_waiters (s : State) (a : Agent) (g : Group) (kind x d : Nat) : (s.traceI a g kind x d).waiters = s.waiters := by obtain ⟨r, h⟩ := State.traceI_eq s a g kind x d; rw [h]
@[simp] theorem State.traceI_fuses (s : State) (a : Agent) (g : Group) (kind x d : Nat) : (s.traceI a g kind x d).fuses = s.fuses := by obtain ⟨r, h⟩ := State.traceI_eq s a g kind x d; rw [h]
@[simp] theorem State.traceI_streams (s : State) (a : Agent) (g : Group) (kind x d : Nat) : (s.traceI a g kind x d).streams = s.streams := by obtain ⟨r, h⟩ := State.traceI_eq s a g kind x d; rw [h]
@[simp] theorem State.traceI_late (s : State) (a : Agent) (g : Group) (kind x d : Nat) : (s.traceI a g kind x d).late = s.late := by obtain ⟨r, h⟩ := State.traceI_eq s a g kind x d; rw [h]
@[simp] theorem State.traceI_lag (s : State) (a : Agent) (g : Group) (kind x d : Nat) : (s.traceI a g kind x d).lag = s.lag := by obtain ⟨r, h⟩ := State.traceI_eq s a g kind x d; rw [h]
@[simp] theorem State.traceI_cut (s : State) (a : Agent) (g : Group) (kind x d : Nat) : (s.traceI a g kind x d).cut = s.cut := by obtain ⟨r, h⟩ := State.traceI_eq s a g kind x d; rw [h]
@[simp] theorem State.traceI_queues (s : State) (a : Agent) (g : Group) (kind x d : Nat) : (s.traceI a g kind x d).queues = s.queues := by obtain ⟨r, h⟩ := State.traceI_eq s a g kind x d; rw [h]
@[simp] theorem State.traceI_sys (s : State) (a : Agent) (g : Group) (kind x d : Nat) : (s.traceI a g kind x d).sys = s.sys := by obtain ⟨r, h⟩ := State.traceI_eq s a g kind x d; rw [h]
@[simp] theorem State.traceI_keys (s : State) (a : Agent) (g : Group) (kind x d : Nat) : (s.traceI a g kind x d).keys = s.keys := by obtain ⟨r, h⟩ := State.traceI_eq s a g kind x d; rw [h]
@[simp] theorem State.traceI_net (s : State) (a : Agent) (g : Group) (kind x d : Nat) : (s.traceI a g kind x d).net = s.net := by obtain ⟨r, h⟩ := State.traceI_eq s a g kind x d; rw [h]
@[simp] theorem State.traceI_aud (s : State) (a : Agent) (g : Group) (kind x d : Nat) : (s.traceI a g kind x d).aud = s.aud := by obtain ⟨r, h⟩ := State.traceI_eq s a g kind x d; rw [h]
@[simp] theorem State.traceI_mod (s : State) (a : Agent) (g : Group) (kind x d : Nat) : (s.traceI a g kind x d).mod = s.mod := by obtain ⟨r, h⟩ := State.traceI_eq s a g kind x d; rw [h]

/-! ### A record of a col -/

@[simp] theorem State.traceCol_time (s : State) (ctx ridge kind : Nat) (pay : List Byte) : (s.traceCol ctx ridge kind pay).time = s.time := by obtain ⟨r, h⟩ := State.traceCol_eq s ctx ridge kind pay; rw [h]
@[simp] theorem State.traceCol_tick (s : State) (ctx ridge kind : Nat) (pay : List Byte) : (s.traceCol ctx ridge kind pay).tick = s.tick := by obtain ⟨r, h⟩ := State.traceCol_eq s ctx ridge kind pay; rw [h]
@[simp] theorem State.traceCol_inputs (s : State) (ctx ridge kind : Nat) (pay : List Byte) : (s.traceCol ctx ridge kind pay).inputs = s.inputs := by obtain ⟨r, h⟩ := State.traceCol_eq s ctx ridge kind pay; rw [h]
@[simp] theorem State.traceCol_ev (s : State) (ctx ridge kind : Nat) (pay : List Byte) : (s.traceCol ctx ridge kind pay).ev = s.ev := by obtain ⟨r, h⟩ := State.traceCol_eq s ctx ridge kind pay; rw [h]
@[simp] theorem State.traceCol_issuing (s : State) (ctx ridge kind : Nat) (pay : List Byte) : (s.traceCol ctx ridge kind pay).issuing = s.issuing := by obtain ⟨r, h⟩ := State.traceCol_eq s ctx ridge kind pay; rw [h]
@[simp] theorem State.traceCol_cur (s : State) (ctx ridge kind : Nat) (pay : List Byte) : (s.traceCol ctx ridge kind pay).cur = s.cur := by obtain ⟨r, h⟩ := State.traceCol_eq s ctx ridge kind pay; rw [h]
@[simp] theorem State.traceCol_mem (s : State) (ctx ridge kind : Nat) (pay : List Byte) : (s.traceCol ctx ridge kind pay).mem = s.mem := by obtain ⟨r, h⟩ := State.traceCol_eq s ctx ridge kind pay; rw [h]
@[simp] theorem State.traceCol_poison (s : State) (ctx ridge kind : Nat) (pay : List Byte) : (s.traceCol ctx ridge kind pay).poison = s.poison := by obtain ⟨r, h⟩ := State.traceCol_eq s ctx ridge kind pay; rw [h]
@[simp] theorem State.traceCol_cacheErr (s : State) (ctx ridge kind : Nat) (pay : List Byte) : (s.traceCol ctx ridge kind pay).cacheErr = s.cacheErr := by obtain ⟨r, h⟩ := State.traceCol_eq s ctx ridge kind pay; rw [h]
@[simp] theorem State.traceCol_groups (s : State) (ctx ridge kind : Nat) (pay : List Byte) : (s.traceCol ctx ridge kind pay).groups = s.groups := by obtain ⟨r, h⟩ := State.traceCol_eq s ctx ridge kind pay; rw [h]
@[simp] theorem State.traceCol_nextGroup (s : State) (ctx ridge kind : Nat) (pay : List Byte) : (s.traceCol ctx ridge kind pay).nextGroup = s.nextGroup := by obtain ⟨r, h⟩ := State.traceCol_eq s ctx ridge kind pay; rw [h]
@[simp] theorem State.traceCol_cols (s : State) (ctx ridge kind : Nat) (pay : List Byte) : (s.traceCol ctx ridge kind pay).cols = s.cols := by obtain ⟨r, h⟩ := State.traceCol_eq s ctx ridge kind pay; rw [h]
@[simp] theorem State.traceCol_teams (s : State) (ctx ridge kind : Nat) (pay : List Byte) : (s.traceCol ctx ridge kind pay).teams = s.teams := by obtain ⟨r, h⟩ := State.traceCol_eq s ctx ridge kind pay; rw [h]
@[simp] theorem State.traceCol_saved (s : State) (ctx ridge kind : Nat) (pay : List Byte) : (s.traceCol ctx ridge kind pay).saved = s.saved := by obtain ⟨r, h⟩ := State.traceCol_eq s ctx ridge kind pay; rw [h]
@[simp] theorem State.traceCol_contexts (s : State) (ctx ridge kind : Nat) (pay : List Byte) : (s.traceCol ctx ridge kind pay).contexts = s.contexts := by obtain ⟨r, h⟩ := State.traceCol_eq s ctx ridge kind pay; rw [h]
@[simp] theorem State.traceCol_moving (s : State) (ctx ridge kind : Nat) (pay : List Byte) : (s.traceCol ctx ridge kind pay).moving = s.moving := by obtain ⟨r, h⟩ := State.traceCol_eq s ctx ridge kind pay; rw [h]
@[simp] theorem State.traceCol_nextNum (s : State) (ctx ridge kind : Nat) (pay : List Byte) : (s.traceCol ctx ridge kind pay).nextNum = s.nextNum := by obtain ⟨r, h⟩ := State.traceCol_eq s ctx ridge kind pay; rw [h]
@[simp] theorem State.traceCol_copies (s : State) (ctx ridge kind : Nat) (pay : List Byte) : (s.traceCol ctx ridge kind pay).copies = s.copies := by obtain ⟨r, h⟩ := State.traceCol_eq s ctx ridge kind pay; rw [h]
@[simp] theorem State.traceCol_mtx (s : State) (ctx ridge kind : Nat) (pay : List Byte) : (s.traceCol ctx ridge kind pay).mtx = s.mtx := by obtain ⟨r, h⟩ := State.traceCol_eq s ctx ridge kind pay; rw [h]
@[simp] theorem State.traceCol_merges (s : State) (ctx ridge kind : Nat) (pay : List Byte) : (s.traceCol ctx ridge kind pay).merges = s.merges := by obtain ⟨r, h⟩ := State.traceCol_eq s ctx ridge kind pay; rw [h]
@[simp] theorem State.traceCol_tlb (s : State) (ctx ridge kind : Nat) (pay : List Byte) : (s.traceCol ctx ridge kind pay).tlb = s.tlb := by obtain ⟨r, h⟩ := State.traceCol_eq s ctx ridge kind pay; rw [h]
@[simp] theorem State.traceCol_icache (s : State) (ctx ridge kind : Nat) (pay : List Byte) : (s.traceCol ctx ridge kind pay).icache = s.icache := by obtain ⟨r, h⟩ := State.traceCol_eq s ctx ridge kind pay; rw [h]
@[simp] theorem State.traceCol_waiters (s : State) (ctx ridge kind : Nat) (pay : List Byte) : (s.traceCol ctx ridge kind pay).waiters = s.waiters := by obtain ⟨r, h⟩ := State.traceCol_eq s ctx ridge kind pay; rw [h]
@[simp] theorem State.traceCol_fuses (s : State) (ctx ridge kind : Nat) (pay : List Byte) : (s.traceCol ctx ridge kind pay).fuses = s.fuses := by obtain ⟨r, h⟩ := State.traceCol_eq s ctx ridge kind pay; rw [h]
@[simp] theorem State.traceCol_streams (s : State) (ctx ridge kind : Nat) (pay : List Byte) : (s.traceCol ctx ridge kind pay).streams = s.streams := by obtain ⟨r, h⟩ := State.traceCol_eq s ctx ridge kind pay; rw [h]
@[simp] theorem State.traceCol_late (s : State) (ctx ridge kind : Nat) (pay : List Byte) : (s.traceCol ctx ridge kind pay).late = s.late := by obtain ⟨r, h⟩ := State.traceCol_eq s ctx ridge kind pay; rw [h]
@[simp] theorem State.traceCol_lag (s : State) (ctx ridge kind : Nat) (pay : List Byte) : (s.traceCol ctx ridge kind pay).lag = s.lag := by obtain ⟨r, h⟩ := State.traceCol_eq s ctx ridge kind pay; rw [h]
@[simp] theorem State.traceCol_cut (s : State) (ctx ridge kind : Nat) (pay : List Byte) : (s.traceCol ctx ridge kind pay).cut = s.cut := by obtain ⟨r, h⟩ := State.traceCol_eq s ctx ridge kind pay; rw [h]
@[simp] theorem State.traceCol_queues (s : State) (ctx ridge kind : Nat) (pay : List Byte) : (s.traceCol ctx ridge kind pay).queues = s.queues := by obtain ⟨r, h⟩ := State.traceCol_eq s ctx ridge kind pay; rw [h]
@[simp] theorem State.traceCol_sys (s : State) (ctx ridge kind : Nat) (pay : List Byte) : (s.traceCol ctx ridge kind pay).sys = s.sys := by obtain ⟨r, h⟩ := State.traceCol_eq s ctx ridge kind pay; rw [h]
@[simp] theorem State.traceCol_keys (s : State) (ctx ridge kind : Nat) (pay : List Byte) : (s.traceCol ctx ridge kind pay).keys = s.keys := by obtain ⟨r, h⟩ := State.traceCol_eq s ctx ridge kind pay; rw [h]
@[simp] theorem State.traceCol_net (s : State) (ctx ridge kind : Nat) (pay : List Byte) : (s.traceCol ctx ridge kind pay).net = s.net := by obtain ⟨r, h⟩ := State.traceCol_eq s ctx ridge kind pay; rw [h]
@[simp] theorem State.traceCol_aud (s : State) (ctx ridge kind : Nat) (pay : List Byte) : (s.traceCol ctx ridge kind pay).aud = s.aud := by obtain ⟨r, h⟩ := State.traceCol_eq s ctx ridge kind pay; rw [h]
@[simp] theorem State.traceCol_mod (s : State) (ctx ridge kind : Nat) (pay : List Byte) : (s.traceCol ctx ridge kind pay).mod = s.mod := by obtain ⟨r, h⟩ := State.traceCol_eq s ctx ridge kind pay; rw [h]

/-! ### Parking -/

@[simp] theorem State.park_time (s : State) (a : Agent) (g : Group) (p : Park) : (s.park a g p).time = s.time := by unfold State.park; dsimp only; split <;> simp
@[simp] theorem State.park_tick (s : State) (a : Agent) (g : Group) (p : Park) : (s.park a g p).tick = s.tick := by unfold State.park; dsimp only; split <;> simp
@[simp] theorem State.park_inputs (s : State) (a : Agent) (g : Group) (p : Park) : (s.park a g p).inputs = s.inputs := by unfold State.park; dsimp only; split <;> simp
@[simp] theorem State.park_ev (s : State) (a : Agent) (g : Group) (p : Park) : (s.park a g p).ev = s.ev := by unfold State.park; dsimp only; split <;> simp
@[simp] theorem State.park_issuing (s : State) (a : Agent) (g : Group) (p : Park) : (s.park a g p).issuing = s.issuing := by unfold State.park; dsimp only; split <;> simp
@[simp] theorem State.park_cur (s : State) (a : Agent) (g : Group) (p : Park) : (s.park a g p).cur = s.cur := by unfold State.park; dsimp only; split <;> simp
@[simp] theorem State.park_mem (s : State) (a : Agent) (g : Group) (p : Park) : (s.park a g p).mem = s.mem := by unfold State.park; dsimp only; split <;> simp
@[simp] theorem State.park_poison (s : State) (a : Agent) (g : Group) (p : Park) : (s.park a g p).poison = s.poison := by unfold State.park; dsimp only; split <;> simp
@[simp] theorem State.park_cacheErr (s : State) (a : Agent) (g : Group) (p : Park) : (s.park a g p).cacheErr = s.cacheErr := by unfold State.park; dsimp only; split <;> simp
@[simp] theorem State.park_nextGroup (s : State) (a : Agent) (g : Group) (p : Park) : (s.park a g p).nextGroup = s.nextGroup := by unfold State.park; dsimp only; split <;> simp
@[simp] theorem State.park_teams (s : State) (a : Agent) (g : Group) (p : Park) : (s.park a g p).teams = s.teams := by unfold State.park; dsimp only; split <;> simp
@[simp] theorem State.park_saved (s : State) (a : Agent) (g : Group) (p : Park) : (s.park a g p).saved = s.saved := by unfold State.park; dsimp only; split <;> simp
@[simp] theorem State.park_contexts (s : State) (a : Agent) (g : Group) (p : Park) : (s.park a g p).contexts = s.contexts := by unfold State.park; dsimp only; split <;> simp
@[simp] theorem State.park_moving (s : State) (a : Agent) (g : Group) (p : Park) : (s.park a g p).moving = s.moving := by unfold State.park; dsimp only; split <;> simp
@[simp] theorem State.park_nextNum (s : State) (a : Agent) (g : Group) (p : Park) : (s.park a g p).nextNum = s.nextNum := by unfold State.park; dsimp only; split <;> simp
@[simp] theorem State.park_copies (s : State) (a : Agent) (g : Group) (p : Park) : (s.park a g p).copies = s.copies := by unfold State.park; dsimp only; split <;> simp
@[simp] theorem State.park_mtx (s : State) (a : Agent) (g : Group) (p : Park) : (s.park a g p).mtx = s.mtx := by unfold State.park; dsimp only; split <;> simp
@[simp] theorem State.park_merges (s : State) (a : Agent) (g : Group) (p : Park) : (s.park a g p).merges = s.merges := by unfold State.park; dsimp only; split <;> simp
@[simp] theorem State.park_tlb (s : State) (a : Agent) (g : Group) (p : Park) : (s.park a g p).tlb = s.tlb := by unfold State.park; dsimp only; split <;> simp
@[simp] theorem State.park_icache (s : State) (a : Agent) (g : Group) (p : Park) : (s.park a g p).icache = s.icache := by unfold State.park; dsimp only; split <;> simp
@[simp] theorem State.park_waiters (s : State) (a : Agent) (g : Group) (p : Park) : (s.park a g p).waiters = s.waiters := by unfold State.park; dsimp only; split <;> simp
@[simp] theorem State.park_fuses (s : State) (a : Agent) (g : Group) (p : Park) : (s.park a g p).fuses = s.fuses := by unfold State.park; dsimp only; split <;> simp
@[simp] theorem State.park_streams (s : State) (a : Agent) (g : Group) (p : Park) : (s.park a g p).streams = s.streams := by unfold State.park; dsimp only; split <;> simp
@[simp] theorem State.park_late (s : State) (a : Agent) (g : Group) (p : Park) : (s.park a g p).late = s.late := by unfold State.park; dsimp only; split <;> simp
@[simp] theorem State.park_lag (s : State) (a : Agent) (g : Group) (p : Park) : (s.park a g p).lag = s.lag := by unfold State.park; dsimp only; split <;> simp
@[simp] theorem State.park_cut (s : State) (a : Agent) (g : Group) (p : Park) : (s.park a g p).cut = s.cut := by unfold State.park; dsimp only; split <;> simp
@[simp] theorem State.park_queues (s : State) (a : Agent) (g : Group) (p : Park) : (s.park a g p).queues = s.queues := by unfold State.park; dsimp only; split <;> simp
@[simp] theorem State.park_sys (s : State) (a : Agent) (g : Group) (p : Park) : (s.park a g p).sys = s.sys := by unfold State.park; dsimp only; split <;> simp
@[simp] theorem State.park_keys (s : State) (a : Agent) (g : Group) (p : Park) : (s.park a g p).keys = s.keys := by unfold State.park; dsimp only; split <;> simp
@[simp] theorem State.park_net (s : State) (a : Agent) (g : Group) (p : Park) : (s.park a g p).net = s.net := by unfold State.park; dsimp only; split <;> simp
@[simp] theorem State.park_aud (s : State) (a : Agent) (g : Group) (p : Park) : (s.park a g p).aud = s.aud := by unfold State.park; dsimp only; split <;> simp
@[simp] theorem State.park_mod (s : State) (a : Agent) (g : Group) (p : Park) : (s.park a g p).mod = s.mod := by unfold State.park; dsimp only; split <;> simp

/-! ### Waking -/

@[simp] theorem State.wake_time (s : State) (a : Agent) (g : Group) : (s.wake a g).time = s.time := by unfold State.wake; split <;> simp
@[simp] theorem State.wake_tick (s : State) (a : Agent) (g : Group) : (s.wake a g).tick = s.tick := by unfold State.wake; split <;> simp
@[simp] theorem State.wake_inputs (s : State) (a : Agent) (g : Group) : (s.wake a g).inputs = s.inputs := by unfold State.wake; split <;> simp
@[simp] theorem State.wake_ev (s : State) (a : Agent) (g : Group) : (s.wake a g).ev = s.ev := by unfold State.wake; split <;> simp
@[simp] theorem State.wake_issuing (s : State) (a : Agent) (g : Group) : (s.wake a g).issuing = s.issuing := by unfold State.wake; split <;> simp
@[simp] theorem State.wake_cur (s : State) (a : Agent) (g : Group) : (s.wake a g).cur = s.cur := by unfold State.wake; split <;> simp
@[simp] theorem State.wake_mem (s : State) (a : Agent) (g : Group) : (s.wake a g).mem = s.mem := by unfold State.wake; split <;> simp
@[simp] theorem State.wake_poison (s : State) (a : Agent) (g : Group) : (s.wake a g).poison = s.poison := by unfold State.wake; split <;> simp
@[simp] theorem State.wake_cacheErr (s : State) (a : Agent) (g : Group) : (s.wake a g).cacheErr = s.cacheErr := by unfold State.wake; split <;> simp
@[simp] theorem State.wake_nextGroup (s : State) (a : Agent) (g : Group) : (s.wake a g).nextGroup = s.nextGroup := by unfold State.wake; split <;> simp
@[simp] theorem State.wake_teams (s : State) (a : Agent) (g : Group) : (s.wake a g).teams = s.teams := by unfold State.wake; split <;> simp
@[simp] theorem State.wake_saved (s : State) (a : Agent) (g : Group) : (s.wake a g).saved = s.saved := by unfold State.wake; split <;> simp
@[simp] theorem State.wake_contexts (s : State) (a : Agent) (g : Group) : (s.wake a g).contexts = s.contexts := by unfold State.wake; split <;> simp
@[simp] theorem State.wake_moving (s : State) (a : Agent) (g : Group) : (s.wake a g).moving = s.moving := by unfold State.wake; split <;> simp
@[simp] theorem State.wake_nextNum (s : State) (a : Agent) (g : Group) : (s.wake a g).nextNum = s.nextNum := by unfold State.wake; split <;> simp
@[simp] theorem State.wake_copies (s : State) (a : Agent) (g : Group) : (s.wake a g).copies = s.copies := by unfold State.wake; split <;> simp
@[simp] theorem State.wake_mtx (s : State) (a : Agent) (g : Group) : (s.wake a g).mtx = s.mtx := by unfold State.wake; split <;> simp
@[simp] theorem State.wake_merges (s : State) (a : Agent) (g : Group) : (s.wake a g).merges = s.merges := by unfold State.wake; split <;> simp
@[simp] theorem State.wake_tlb (s : State) (a : Agent) (g : Group) : (s.wake a g).tlb = s.tlb := by unfold State.wake; split <;> simp
@[simp] theorem State.wake_icache (s : State) (a : Agent) (g : Group) : (s.wake a g).icache = s.icache := by unfold State.wake; split <;> simp
@[simp] theorem State.wake_waiters (s : State) (a : Agent) (g : Group) : (s.wake a g).waiters = s.waiters := by unfold State.wake; split <;> simp
@[simp] theorem State.wake_fuses (s : State) (a : Agent) (g : Group) : (s.wake a g).fuses = s.fuses := by unfold State.wake; split <;> simp
@[simp] theorem State.wake_streams (s : State) (a : Agent) (g : Group) : (s.wake a g).streams = s.streams := by unfold State.wake; split <;> simp
@[simp] theorem State.wake_late (s : State) (a : Agent) (g : Group) : (s.wake a g).late = s.late := by unfold State.wake; split <;> simp
@[simp] theorem State.wake_lag (s : State) (a : Agent) (g : Group) : (s.wake a g).lag = s.lag := by unfold State.wake; split <;> simp
@[simp] theorem State.wake_cut (s : State) (a : Agent) (g : Group) : (s.wake a g).cut = s.cut := by unfold State.wake; split <;> simp
@[simp] theorem State.wake_queues (s : State) (a : Agent) (g : Group) : (s.wake a g).queues = s.queues := by unfold State.wake; split <;> simp
@[simp] theorem State.wake_sys (s : State) (a : Agent) (g : Group) : (s.wake a g).sys = s.sys := by unfold State.wake; split <;> simp
@[simp] theorem State.wake_keys (s : State) (a : Agent) (g : Group) : (s.wake a g).keys = s.keys := by unfold State.wake; split <;> simp
@[simp] theorem State.wake_net (s : State) (a : Agent) (g : Group) : (s.wake a g).net = s.net := by unfold State.wake; split <;> simp
@[simp] theorem State.wake_aud (s : State) (a : Agent) (g : Group) : (s.wake a g).aud = s.aud := by unfold State.wake; split <;> simp
@[simp] theorem State.wake_mod (s : State) (a : Agent) (g : Group) : (s.wake a g).mod = s.mod := by unfold State.wake; split <;> simp

/-! ### The end of an instruction -/

@[simp] theorem State.finishAt_time (s : State) (a : Agent) (g : Group) (sw : Bool) (pc : Pc) : (s.finishAt a g sw pc).time = s.time := by unfold State.finishAt; dsimp only; split <;> [simp; split <;> simp]
@[simp] theorem State.finishAt_tick (s : State) (a : Agent) (g : Group) (sw : Bool) (pc : Pc) : (s.finishAt a g sw pc).tick = s.tick := by unfold State.finishAt; dsimp only; split <;> [simp; split <;> simp]
@[simp] theorem State.finishAt_inputs (s : State) (a : Agent) (g : Group) (sw : Bool) (pc : Pc) : (s.finishAt a g sw pc).inputs = s.inputs := by unfold State.finishAt; dsimp only; split <;> [simp; split <;> simp]
@[simp] theorem State.finishAt_ev (s : State) (a : Agent) (g : Group) (sw : Bool) (pc : Pc) : (s.finishAt a g sw pc).ev = s.ev := by unfold State.finishAt; dsimp only; split <;> [simp; split <;> simp]
@[simp] theorem State.finishAt_issuing (s : State) (a : Agent) (g : Group) (sw : Bool) (pc : Pc) : (s.finishAt a g sw pc).issuing = s.issuing := by unfold State.finishAt; dsimp only; split <;> [simp; split <;> simp]
@[simp] theorem State.finishAt_cur (s : State) (a : Agent) (g : Group) (sw : Bool) (pc : Pc) : (s.finishAt a g sw pc).cur = s.cur := by unfold State.finishAt; dsimp only; split <;> [simp; split <;> simp]
@[simp] theorem State.finishAt_mem (s : State) (a : Agent) (g : Group) (sw : Bool) (pc : Pc) : (s.finishAt a g sw pc).mem = s.mem := by unfold State.finishAt; dsimp only; split <;> [simp; split <;> simp]
@[simp] theorem State.finishAt_poison (s : State) (a : Agent) (g : Group) (sw : Bool) (pc : Pc) : (s.finishAt a g sw pc).poison = s.poison := by unfold State.finishAt; dsimp only; split <;> [simp; split <;> simp]
@[simp] theorem State.finishAt_cacheErr (s : State) (a : Agent) (g : Group) (sw : Bool) (pc : Pc) : (s.finishAt a g sw pc).cacheErr = s.cacheErr := by unfold State.finishAt; dsimp only; split <;> [simp; split <;> simp]
@[simp] theorem State.finishAt_nextGroup (s : State) (a : Agent) (g : Group) (sw : Bool) (pc : Pc) : (s.finishAt a g sw pc).nextGroup = s.nextGroup := by unfold State.finishAt; dsimp only; split <;> [simp; split <;> simp]
@[simp] theorem State.finishAt_teams (s : State) (a : Agent) (g : Group) (sw : Bool) (pc : Pc) : (s.finishAt a g sw pc).teams = s.teams := by unfold State.finishAt; dsimp only; split <;> [simp; split <;> simp]
@[simp] theorem State.finishAt_saved (s : State) (a : Agent) (g : Group) (sw : Bool) (pc : Pc) : (s.finishAt a g sw pc).saved = s.saved := by unfold State.finishAt; dsimp only; split <;> [simp; split <;> simp]
@[simp] theorem State.finishAt_contexts (s : State) (a : Agent) (g : Group) (sw : Bool) (pc : Pc) : (s.finishAt a g sw pc).contexts = s.contexts := by unfold State.finishAt; dsimp only; split <;> [simp; split <;> simp]
@[simp] theorem State.finishAt_moving (s : State) (a : Agent) (g : Group) (sw : Bool) (pc : Pc) : (s.finishAt a g sw pc).moving = s.moving := by unfold State.finishAt; dsimp only; split <;> [simp; split <;> simp]
@[simp] theorem State.finishAt_nextNum (s : State) (a : Agent) (g : Group) (sw : Bool) (pc : Pc) : (s.finishAt a g sw pc).nextNum = s.nextNum := by unfold State.finishAt; dsimp only; split <;> [simp; split <;> simp]
@[simp] theorem State.finishAt_copies (s : State) (a : Agent) (g : Group) (sw : Bool) (pc : Pc) : (s.finishAt a g sw pc).copies = s.copies := by unfold State.finishAt; dsimp only; split <;> [simp; split <;> simp]
@[simp] theorem State.finishAt_mtx (s : State) (a : Agent) (g : Group) (sw : Bool) (pc : Pc) : (s.finishAt a g sw pc).mtx = s.mtx := by unfold State.finishAt; dsimp only; split <;> [simp; split <;> simp]
@[simp] theorem State.finishAt_merges (s : State) (a : Agent) (g : Group) (sw : Bool) (pc : Pc) : (s.finishAt a g sw pc).merges = s.merges := by unfold State.finishAt; dsimp only; split <;> [simp; split <;> simp]
@[simp] theorem State.finishAt_tlb (s : State) (a : Agent) (g : Group) (sw : Bool) (pc : Pc) : (s.finishAt a g sw pc).tlb = s.tlb := by unfold State.finishAt; dsimp only; split <;> [simp; split <;> simp]
@[simp] theorem State.finishAt_icache (s : State) (a : Agent) (g : Group) (sw : Bool) (pc : Pc) : (s.finishAt a g sw pc).icache = s.icache := by unfold State.finishAt; dsimp only; split <;> [simp; split <;> simp]
@[simp] theorem State.finishAt_waiters (s : State) (a : Agent) (g : Group) (sw : Bool) (pc : Pc) : (s.finishAt a g sw pc).waiters = s.waiters := by unfold State.finishAt; dsimp only; split <;> [simp; split <;> simp]
@[simp] theorem State.finishAt_fuses (s : State) (a : Agent) (g : Group) (sw : Bool) (pc : Pc) : (s.finishAt a g sw pc).fuses = s.fuses := by unfold State.finishAt; dsimp only; split <;> [simp; split <;> simp]
@[simp] theorem State.finishAt_streams (s : State) (a : Agent) (g : Group) (sw : Bool) (pc : Pc) : (s.finishAt a g sw pc).streams = s.streams := by unfold State.finishAt; dsimp only; split <;> [simp; split <;> simp]
@[simp] theorem State.finishAt_late (s : State) (a : Agent) (g : Group) (sw : Bool) (pc : Pc) : (s.finishAt a g sw pc).late = s.late := by unfold State.finishAt; dsimp only; split <;> [simp; split <;> simp]
@[simp] theorem State.finishAt_lag (s : State) (a : Agent) (g : Group) (sw : Bool) (pc : Pc) : (s.finishAt a g sw pc).lag = s.lag := by unfold State.finishAt; dsimp only; split <;> [simp; split <;> simp]
@[simp] theorem State.finishAt_cut (s : State) (a : Agent) (g : Group) (sw : Bool) (pc : Pc) : (s.finishAt a g sw pc).cut = s.cut := by unfold State.finishAt; dsimp only; split <;> [simp; split <;> simp]
@[simp] theorem State.finishAt_queues (s : State) (a : Agent) (g : Group) (sw : Bool) (pc : Pc) : (s.finishAt a g sw pc).queues = s.queues := by unfold State.finishAt; dsimp only; split <;> [simp; split <;> simp]
@[simp] theorem State.finishAt_sys (s : State) (a : Agent) (g : Group) (sw : Bool) (pc : Pc) : (s.finishAt a g sw pc).sys = s.sys := by unfold State.finishAt; dsimp only; split <;> [simp; split <;> simp]
@[simp] theorem State.finishAt_keys (s : State) (a : Agent) (g : Group) (sw : Bool) (pc : Pc) : (s.finishAt a g sw pc).keys = s.keys := by unfold State.finishAt; dsimp only; split <;> [simp; split <;> simp]
@[simp] theorem State.finishAt_net (s : State) (a : Agent) (g : Group) (sw : Bool) (pc : Pc) : (s.finishAt a g sw pc).net = s.net := by unfold State.finishAt; dsimp only; split <;> [simp; split <;> simp]
@[simp] theorem State.finishAt_aud (s : State) (a : Agent) (g : Group) (sw : Bool) (pc : Pc) : (s.finishAt a g sw pc).aud = s.aud := by unfold State.finishAt; dsimp only; split <;> [simp; split <;> simp]
@[simp] theorem State.finishAt_mod (s : State) (a : Agent) (g : Group) (sw : Bool) (pc : Pc) : (s.finishAt a g sw pc).mod = s.mod := by unfold State.finishAt; dsimp only; split <;> [simp; split <;> simp]

/-! ### The end of an instruction at the next address -/

@[simp] theorem State.finish_time (s : State) (a : Agent) (g : Group) (sw : Bool) : (s.finish a g sw).time = s.time := by simp [State.finish]
@[simp] theorem State.finish_tick (s : State) (a : Agent) (g : Group) (sw : Bool) : (s.finish a g sw).tick = s.tick := by simp [State.finish]
@[simp] theorem State.finish_inputs (s : State) (a : Agent) (g : Group) (sw : Bool) : (s.finish a g sw).inputs = s.inputs := by simp [State.finish]
@[simp] theorem State.finish_ev (s : State) (a : Agent) (g : Group) (sw : Bool) : (s.finish a g sw).ev = s.ev := by simp [State.finish]
@[simp] theorem State.finish_issuing (s : State) (a : Agent) (g : Group) (sw : Bool) : (s.finish a g sw).issuing = s.issuing := by simp [State.finish]
@[simp] theorem State.finish_cur (s : State) (a : Agent) (g : Group) (sw : Bool) : (s.finish a g sw).cur = s.cur := by simp [State.finish]
@[simp] theorem State.finish_mem (s : State) (a : Agent) (g : Group) (sw : Bool) : (s.finish a g sw).mem = s.mem := by simp [State.finish]
@[simp] theorem State.finish_poison (s : State) (a : Agent) (g : Group) (sw : Bool) : (s.finish a g sw).poison = s.poison := by simp [State.finish]
@[simp] theorem State.finish_cacheErr (s : State) (a : Agent) (g : Group) (sw : Bool) : (s.finish a g sw).cacheErr = s.cacheErr := by simp [State.finish]
@[simp] theorem State.finish_nextGroup (s : State) (a : Agent) (g : Group) (sw : Bool) : (s.finish a g sw).nextGroup = s.nextGroup := by simp [State.finish]
@[simp] theorem State.finish_teams (s : State) (a : Agent) (g : Group) (sw : Bool) : (s.finish a g sw).teams = s.teams := by simp [State.finish]
@[simp] theorem State.finish_saved (s : State) (a : Agent) (g : Group) (sw : Bool) : (s.finish a g sw).saved = s.saved := by simp [State.finish]
@[simp] theorem State.finish_contexts (s : State) (a : Agent) (g : Group) (sw : Bool) : (s.finish a g sw).contexts = s.contexts := by simp [State.finish]
@[simp] theorem State.finish_moving (s : State) (a : Agent) (g : Group) (sw : Bool) : (s.finish a g sw).moving = s.moving := by simp [State.finish]
@[simp] theorem State.finish_nextNum (s : State) (a : Agent) (g : Group) (sw : Bool) : (s.finish a g sw).nextNum = s.nextNum := by simp [State.finish]
@[simp] theorem State.finish_copies (s : State) (a : Agent) (g : Group) (sw : Bool) : (s.finish a g sw).copies = s.copies := by simp [State.finish]
@[simp] theorem State.finish_mtx (s : State) (a : Agent) (g : Group) (sw : Bool) : (s.finish a g sw).mtx = s.mtx := by simp [State.finish]
@[simp] theorem State.finish_merges (s : State) (a : Agent) (g : Group) (sw : Bool) : (s.finish a g sw).merges = s.merges := by simp [State.finish]
@[simp] theorem State.finish_tlb (s : State) (a : Agent) (g : Group) (sw : Bool) : (s.finish a g sw).tlb = s.tlb := by simp [State.finish]
@[simp] theorem State.finish_icache (s : State) (a : Agent) (g : Group) (sw : Bool) : (s.finish a g sw).icache = s.icache := by simp [State.finish]
@[simp] theorem State.finish_waiters (s : State) (a : Agent) (g : Group) (sw : Bool) : (s.finish a g sw).waiters = s.waiters := by simp [State.finish]
@[simp] theorem State.finish_fuses (s : State) (a : Agent) (g : Group) (sw : Bool) : (s.finish a g sw).fuses = s.fuses := by simp [State.finish]
@[simp] theorem State.finish_streams (s : State) (a : Agent) (g : Group) (sw : Bool) : (s.finish a g sw).streams = s.streams := by simp [State.finish]
@[simp] theorem State.finish_late (s : State) (a : Agent) (g : Group) (sw : Bool) : (s.finish a g sw).late = s.late := by simp [State.finish]
@[simp] theorem State.finish_lag (s : State) (a : Agent) (g : Group) (sw : Bool) : (s.finish a g sw).lag = s.lag := by simp [State.finish]
@[simp] theorem State.finish_cut (s : State) (a : Agent) (g : Group) (sw : Bool) : (s.finish a g sw).cut = s.cut := by simp [State.finish]
@[simp] theorem State.finish_queues (s : State) (a : Agent) (g : Group) (sw : Bool) : (s.finish a g sw).queues = s.queues := by simp [State.finish]
@[simp] theorem State.finish_sys (s : State) (a : Agent) (g : Group) (sw : Bool) : (s.finish a g sw).sys = s.sys := by simp [State.finish]
@[simp] theorem State.finish_keys (s : State) (a : Agent) (g : Group) (sw : Bool) : (s.finish a g sw).keys = s.keys := by simp [State.finish]
@[simp] theorem State.finish_net (s : State) (a : Agent) (g : Group) (sw : Bool) : (s.finish a g sw).net = s.net := by simp [State.finish]
@[simp] theorem State.finish_aud (s : State) (a : Agent) (g : Group) (sw : Bool) : (s.finish a g sw).aud = s.aud := by simp [State.finish]
@[simp] theorem State.finish_mod (s : State) (a : Agent) (g : Group) (sw : Bool) : (s.finish a g sw).mod = s.mod := by simp [State.finish]

end Sys2Proof.Machine
end

