-- ==== Sys2Proof/Laws/Ops.lean ====
section
/-! SUPPORT. What each shared operation can do, said once: agents after an update, the start and the end of an
instruction, register results. -/

namespace Sys2Proof.Machine

/-! ### Agents -/

theorem group?_map (ls : List Group) (f : Group → Group) (hf : ∀ x ∈ ls, (f x).id = x.id) (id : Nat) :
    (ls.map f).find? (fun g => g.id == id) = (ls.find? fun g => g.id == id).map f := by
  induction ls with
  | nil => rfl
  | cons x r ih =>
    have hx := hf x (List.mem_cons_self ..)
    have ih := ih fun y hy => hf y (List.mem_cons_of_mem _ hy)
    simp only [List.map_cons, List.find?_cons, hx]
    split
    · rfl
    · exact ih

theorem group?_id {s : State} {id : Nat} {g : Group} (h : s.group? id = some g) : g.id = id := by
  have := List.find?_some h
  simpa using this

theorem group?_setGroup_same {s : State} {g x : Group} (h : s.group? g.id = some x) : (s.setGroup g).group? g.id = some g := by
  have e : (s.setGroup g).group? g.id = (s.group? g.id).map fun x => if x.id == g.id then g else x := by
    refine group?_map _ _ (fun y _ => ?_) _
    by_cases e : y.id = g.id <;> simp [e]
  rw [e, h]
  simp [group?_id h]

theorem group?_setGroup_other {s : State} {g : Group} {id : Nat} (h : id ≠ g.id) : (s.setGroup g).group? id = s.group? id := by
  have e : (s.setGroup g).group? id = (s.group? id).map fun x => if x.id == g.id then g else x := by
    refine group?_map _ _ (fun y _ => ?_) _
    by_cases e : y.id = g.id <;> simp [e]
  rw [e]
  cases hx : s.group? id with
  | none => rfl
  | some x => simp [group?_id hx, h]

@[simp] theorem col_setCol_same {s : State} {n : Nat} {c : Col} (h : n < 48) : (s.setCol n c).col n = c := by
  simp [State.setCol, State.col, h]

@[simp] theorem col_setCol_other {s : State} {n m : Nat} {c : Col} (h : m ≠ n) : (s.setCol n c).col m = s.col m := by
  unfold State.setCol
  split
  · unfold State.col
    split
    · simp [Ne.symm h]
    · rfl
  · rfl

/-- The registers of an agent after they are written: those written, under the agent's own number. -/
theorem ag?_setAg_same {s : State} {a : Agent} {g x : Group} (h : s.ag? a = some x) :
    (s.setAg a g).ag? a = some (match a with
      | .group id => { g with id := id }
      | .col _ => g) := by
  cases a with
  | group id => exact group?_setGroup_same (g := { g with id := id }) h
  | col n =>
    simp only [State.ag?] at h ⊢
    split at h
    · rename_i hn
      simp [State.setAg, hn]
    · cases h

theorem ag?_setAg_other {s : State} {a b : Agent} {g : Group} (h : b ≠ a) : (s.setAg a g).ag? b = s.ag? b := by
  cases a with
  | group id =>
    cases b with
    | group j => exact group?_setGroup_other (by intro e; exact h (by rw [e]))
    | col n => rfl
  | col n =>
    cases b with
    | group j => simp [State.ag?, State.group?, State.setAg]
    | col m =>
      have e : m ≠ n := fun e => h (by rw [e])
      simp [State.ag?, State.setAg, col_setCol_other e]

/-- A trace record leaves every agent as it was. -/
@[simp] theorem ag?_traceI (s : State) (a b : Agent) (g : Group) (kind x d : Nat) : (s.traceI a g kind x d).ag? b = s.ag? b := by
  cases b <;> simp [State.ag?, State.group?, State.col]

/-- A parked agent holds its registers and the address after its instruction (R316). -/
theorem ag?_park {s : State} {a : Agent} {g x : Group} (p : Park) (h : s.ag? a = some x) :
    (s.park a g p).ag? a = some (match a with
      | .group id => { g with park := p, pnext := s.cur.next, id := id }
      | .col _ => { g with park := p, pnext := s.cur.next }) := by
  unfold State.park
  dsimp only
  split <;> (try rw [ag?_traceI]) <;> rw [ag?_setAg_same h]

/-! ### The start of an instruction -/

theorem withAg_run {s : State} {g : Group} {k : Agent → Group → Out State} (h : s.ag? s.cur.agent = some g) :
    s.withAg k = k s.cur.agent g := by
  simp [State.withAg, h]

/-- Registers that hold no error are read without one (R424). -/
@[simp] theorem spoiledOf_clean {f : LF} {g : Group} {lanes : W64} {srcs : List (Spec × Nat)} (h : g.bad = []) : spoiledOf f g lanes srcs = false := by
  simp [spoiledOf, h]

@[simp] theorem vecSpoiled_clean {f : LF} {g : Group} {r : Rd} {srcs : List (Spec × Nat)} {far : Far} (h : g.bad = []) :
    vecSpoiled f g r srcs far = false := by
  simp [vecSpoiled, h]

/-- Everything that the start of an instruction can do: it finds no agent, an illegal encoding, a hazard or a register with an
uncorrectable error, or the meaning runs. -/
theorem startOp_cases (s : State) (wf : Bool) (f : LF) (srcs : List (Spec × Nat)) (k : Agent → Group → Rd → Out State) :
    (s.ag? s.cur.agent = none ∧ startOp s wf f srcs k = .fault .noAgent) ∨
    ∃ g, s.ag? s.cur.agent = some g ∧
      ((wf = false ∧ startOp s wf f srcs k = .next (s.illegal s.cur.agent g)) ∨
       (wf = true ∧ hazardOf f g g.allLanes srcs = true ∧ startOp s wf f srcs k = .next (s.hazardFault s.cur.agent g)) ∨
       (wf = true ∧ hazardOf f g g.allLanes srcs = false ∧ spoiledOf f g g.allLanes srcs = true ∧
         startOp s wf f srcs k = .next (s.regFault s.cur.agent g)) ∨
       (wf = true ∧ hazardOf f g g.allLanes srcs = false ∧ spoiledOf f g g.allLanes srcs = false ∧
         startOp s wf f srcs k = k s.cur.agent g (s.rd g))) := by
  cases h : s.ag? s.cur.agent with
  | none => exact .inl ⟨rfl, by simp [startOp, State.withAg, h]⟩
  | some g =>
    refine .inr ⟨g, rfl, ?_⟩
    cases wf <;> cases hz : hazardOf f g g.allLanes srcs <;> cases hb : spoiledOf f g g.allLanes srcs <;> simp [startOp, withAg_run h, hz, hb]

theorem startOp_run {s : State} {g : Group} {f : LF} {srcs : List (Spec × Nat)} {k : Agent → Group → Rd → Out State}
    (h : s.ag? s.cur.agent = some g) (hb : g.bad = []) (hz : hazardOf f g g.allLanes srcs = false) :
    startOp s true f srcs k = k s.cur.agent g (s.rd g) := by
  simp [startOp, withAg_run h, hz, hb]

/-- The same for vector instructions, with the active lanes. -/
theorem startVec_run {s : State} {g : Group} {f : LF} {srcs : List (Spec × Nat)} {far : Far}
    {k : Agent → Group → Rd → List Nat → Out State} (h : s.ag? s.cur.agent = some g) (hb : g.bad = [])
    (hz : vecHazard f g (s.rd g) srcs far = false) :
    startVec s true f srcs far k = k s.cur.agent g (s.rd g) (lanesOf g.width (activeOf f (s.rd g))) := by
  simp [startVec, withAg_run h, hz, hb]

theorem startVec_cases (s : State) (wf : Bool) (f : LF) (srcs : List (Spec × Nat)) (far : Far)
    (k : Agent → Group → Rd → List Nat → Out State) :
    (s.ag? s.cur.agent = none ∧ startVec s wf f srcs far k = .fault .noAgent) ∨
    ∃ g, s.ag? s.cur.agent = some g ∧
      ((wf = false ∧ startVec s wf f srcs far k = .next (s.illegal s.cur.agent g)) ∨
       (wf = true ∧ vecHazard f g (s.rd g) srcs far = true ∧
         startVec s wf f srcs far k = .next (s.hazardFault s.cur.agent g)) ∨
       (wf = true ∧ vecHazard f g (s.rd g) srcs far = false ∧ vecSpoiled f g (s.rd g) srcs far = true ∧
         startVec s wf f srcs far k = .next (s.regFault s.cur.agent g)) ∨
       (wf = true ∧ vecHazard f g (s.rd g) srcs far = false ∧ vecSpoiled f g (s.rd g) srcs far = false ∧
         startVec s wf f srcs far k = k s.cur.agent g (s.rd g) (lanesOf g.width (activeOf f (s.rd g))))) := by
  cases h : s.ag? s.cur.agent with
  | none => exact .inl ⟨rfl, by simp [startVec, State.withAg, h]⟩
  | some g =>
    refine .inr ⟨g, rfl, ?_⟩
    cases wf <;> cases hz : vecHazard f g (s.rd g) srcs far <;> cases hb : vecSpoiled f g (s.rd g) srcs far <;>
      simp [startVec, withAg_run h, hz, hb]

/-! ### The end of an instruction -/

/-- Everything that the end of an instruction can do (R45, R67, R321). -/
theorem finishAt_cases (s : State) (a : Agent) (g : Group) (sw : Bool) (pc : Pc) :
    (g.rest = none ∧ g.marked sw = false ∧ s.finishAt a g sw pc = s.setAg a (g.ended sw pc)) ∨
    (g.rest = none ∧ g.marked sw = true ∧ s.finishAt a g sw pc = (s.setAg a (g.ended sw pc)).traceI a g 0x12 1 0) ∨
    ∃ m r n, g.rest = some (m, r, n) ∧
      s.finishAt a g sw pc = s.setAg a { g with park := .held r, mask := m, redo := none, rest := none, stage := 0, reserved := g.pushes - n } := by
  cases h : g.rest with
  | none => cases hm : g.marked sw <;> simp [State.finishAt, h, hm]
  | some p => exact .inr (.inr ⟨p.1, p.2.1, p.2.2, rfl, by simp [State.finishAt, h]⟩)

/-- The agent after its instruction. -/
theorem ag?_finishAt {s : State} {a : Agent} {g x : Group} {sw : Bool} {pc : Pc} (h : s.ag? a = some x) (hr : g.rest = none) :
    (s.finishAt a g sw pc).ag? a = some (match a with
      | .group id => { g.ended sw pc with id := id }
      | .col _ => g.ended sw pc) := by
  rw [← ag?_setAg_same h]
  cases hm : g.marked sw <;> simp [State.finishAt, hr, hm]

theorem finish_run {s : State} {a : Agent} {g : Group} {sw : Bool} (h : g.rest = none) (hm : g.marked sw = false) :
    s.finish a g sw = s.setAg a (g.ended sw s.cur.next) := by
  simp [State.finish, State.finishAt, h, hm]

/-! ### Registers -/

theorem getD_vector {α : Type} {n : Nat} (v : Vector α n) (i : Nat) (d : α) : v.getD i d = if h : i < n then v[i] else d := by
  simp only [Vector.getD, Array.getD, Vector.size_toArray]
  rfl

theorem getD_vector_set {α : Type} {n : Nat} (v : Vector α n) (i m : Nat) (x d : α) (h : i < n) :
    (v.set i x h).getD m d = if m = i then x else v.getD m d := by
  simp only [getD_vector, Vector.getElem_set]
  by_cases e : m = i
  · subst e
    simp [h]
  · simp [e, Ne.symm e]

@[simp] theorem getS_setS (g : Group) (n m : Nat) (x : W64) : (g.setS n x).getS m = if m = n ∧ n < 32 then x else g.getS m := by
  unfold Group.setS Group.getS
  by_cases h : n < 32
  · simp only [h, dite_true, and_true, getD_vector_set]
  · simp [h]

@[simp] theorem getV_setV (l : Lane) (n m : Nat) (x : W32) : (l.setV n x).getV m = if m = n ∧ n < 64 then x else l.getV m := by
  unfold Lane.setV Lane.getV
  by_cases h : n < 64
  · simp only [h, dite_true, and_true, getD_vector_set]
  · simp [h]

@[simp] theorem length_setLane (ls : List Lane) (i : Nat) (f : Lane → Lane) : (setLane ls i f).length = ls.length := by
  simp [setLane]

@[simp] theorem post_results (g : Group) (ws : List Write) (fl : List (Nat × Nat)) (op : Option Nat) :
    (g.post ws fl op).results = g.results ++ [{ writes := ws, flags := fl, op := op }] := rfl
@[simp] theorem post_sregs (g : Group) (ws : List Write) (fl : List (Nat × Nat)) (op : Option Nat) : (g.post ws fl op).sregs = g.sregs := rfl
@[simp] theorem post_lanes (g : Group) (ws : List Write) (fl : List (Nat × Nat)) (op : Option Nat) : (g.post ws fl op).lanes = g.lanes := rfl
@[simp] theorem post_rest (g : Group) (ws : List Write) (fl : List (Nat × Nat)) (op : Option Nat) : (g.post ws fl op).rest = g.rest := rfl

end Sys2Proof.Machine
end

