-- ==== Sys2Proof/Laws/PerInstr.lean ====
section
/-! SUPPORT. Statements about every instruction as syntax, proved for each constructor. -/

namespace Sys2Proof.Laws

/-- An instruction has one place in the opcode maps, in the range of the fields that name it, and the map gives it back with all its operands
(R79, R80); a step that is no instruction has none. -/
def Operands.Statement (i : Instr) : Prop :=
  match i.short?, i.long? with
  | some (n, f), none => i.isEvent = false ∧ n < 128 ∧ shortMap n f = some i
  | none, some (grp, fn, f) => i.isEvent = false ∧ grp < 11 ∧ fn < 64 ∧ longMap grp fn f = some i
  | none, none => i.isEvent = true
  | _, _ => False

namespace Operands

theorem moduleReset : Statement .moduleReset := rfl
theorem powerLoss : Statement .powerLoss := rfl
theorem grandmasterLock : Statement .grandmasterLock := rfl
theorem grandmasterLoss : Statement .grandmasterLoss := rfl
theorem ethernetOtherFrame : Statement .ethernetOtherFrame := rfl
theorem hostMemoryRequest : Statement .hostMemoryRequest := rfl
theorem hostRegisterWrite : Statement .hostRegisterWrite := rfl
theorem hcmddWrite : Statement .hcmddWrite := rfl
theorem dbellWrite : Statement .dbellWrite := rfl
theorem qreg : Statement .qreg := rfl
theorem qunreg : Statement .qunreg := rfl
theorem qclear : Statement .qclear := rfl
theorem imageRewrite : Statement .imageRewrite := rfl
theorem powerCapSet : Statement .powerCapSet := rfl
theorem lifetimeLogRead : Statement .lifetimeLogRead := rfl
theorem attestationRequest : Statement .attestationRequest := rfl
theorem commit : Statement .commit := rfl
theorem issueCycle : Statement .issueCycle := rfl
theorem issueBoundExpiry : Statement .issueBoundExpiry := rfl
theorem arbitrationLossLimit : Statement .arbitrationLossLimit := rfl
theorem registerResultArrival : Statement .registerResultArrival := rfl
theorem lsAccessComplete : Statement .lsAccessComplete := rfl
theorem lsDrainComplete : Statement .lsDrainComplete := rfl
theorem laneReplay : Statement .laneReplay := rfl
theorem fuseWindowExpiry : Statement .fuseWindowExpiry := rfl
theorem fuseSuccess : Statement .fuseSuccess := rfl
theorem sleepExpiry : Statement .sleepExpiry := rfl
theorem exitComplete : Statement .exitComplete := rfl
theorem copyUnitWrite : Statement .copyUnitWrite := rfl
theorem copyComplete : Statement .copyComplete := rfl
theorem matrixOpComplete : Statement .matrixOpComplete := rfl
theorem phaseReadmission : Statement .phaseReadmission := rfl
theorem semaphoreReevaluation : Statement .semaphoreReevaluation := rfl
theorem semaphoreWaitTimeout : Statement .semaphoreWaitTimeout := rfl
theorem teamStall : Statement .teamStall := rfl
theorem softStopTimeout : Statement .softStopTimeout := rfl
theorem timeSliceExpiry : Statement .timeSliceExpiry := rfl
theorem ctimerExpiry : Statement .ctimerExpiry := rfl
theorem colHandlerEntry : Statement .colHandlerEntry := rfl
theorem eventRingRecordWrite : Statement .eventRingRecordWrite := rfl
theorem queuePoll : Statement .queuePoll := rfl
theorem resumePacket : Statement .resumePacket := rfl
theorem signalPacket : Statement .signalPacket := rfl
theorem waitPacket : Statement .waitPacket := rfl
theorem markPacket : Statement .markPacket := rfl
theorem notePacket : Statement .notePacket := rfl
theorem softStop : Statement .softStop := rfl
theorem hardStop : Statement .hardStop := rfl
theorem hardStopComplete : Statement .hardStopComplete := rfl
theorem resumeIssue : Statement .resumeIssue := rfl
theorem releasePlaces : Statement .releasePlaces := rfl
theorem mresolve : Statement .mresolve := rfl
theorem barreinit : Statement .barreinit := rfl
theorem tenupd : Statement .tenupd := rfl
theorem keyDraw : Statement .keyDraw := rfl
theorem keyErase : Statement .keyErase := rfl
theorem keyInstall : Statement .keyInstall := rfl
theorem monitorKey : Statement .monitorKey := rfl
theorem monitorErase : Statement .monitorErase := rfl
theorem islset : Statement .islset := rfl
theorem islget : Statement .islget := rfl
theorem attest : Statement .attest := rfl
theorem logread : Statement .logread := rfl
theorem memmap : Statement .memmap := rfl
theorem memunmap : Statement .memunmap := rfl
theorem memprot : Statement .memprot := rfl
theorem fopen : Statement .fopen := rfl
theorem fclose : Statement .fclose := rfl
theorem fread : Statement .fread := rfl
theorem fwrite : Statement .fwrite := rfl
theorem finfo : Statement .finfo := rfl
theorem fsync : Statement .fsync := rfl
theorem skopen : Statement .skopen := rfl
theorem skconn : Statement .skconn := rfl
theorem sksend : Statement .sksend := rfl
theorem skrecv : Statement .skrecv := rfl
theorem skclose : Statement .skclose := rfl
theorem timeget : Statement .timeget := rfl
theorem timewait : Statement .timewait := rfl
theorem evring : Statement .evring := rfl
theorem winset : Statement .winset := rfl
theorem grpctl : Statement .grpctl := rfl
theorem qopen : Statement .qopen := rfl
theorem nvmeCompletion : Statement .nvmeCompletion := rfl
theorem putPacket : Statement .putPacket := rfl
theorem putiPacket : Statement .putiPacket := rfl
theorem addPacket : Statement .addPacket := rfl
theorem getreq : Statement .getreq := rfl
theorem getrsp : Statement .getrsp := rfl
theorem atomreq : Statement .atomreq := rfl
theorem atomrsp : Statement .atomrsp := rfl
theorem ack : Statement .ack := rfl
theorem nak : Statement .nak := rfl
theorem busy : Statement .busy := rfl
theorem openPacket : Statement .openPacket := rfl
theorem openack : Statement .openack := rfl
theorem connectionContextFetched : Statement .connectionContextFetched := rfl
theorem messageTransmit : Statement .messageTransmit := rfl
theorem retransmitTimeout : Statement .retransmitTimeout := rfl
theorem busyRetry : Statement .busyRetry := rfl
theorem networkDeadline : Statement .networkDeadline := rfl
theorem reassemblyAbandon : Statement .reassemblyAbandon := rfl
theorem heldNotificationWrite : Statement .heldNotificationWrite := rfl
theorem notificationHoldExpiry : Statement .notificationHoldExpiry := rfl
theorem sampleAudit : Statement .sampleAudit := rfl
theorem traceRingWrite : Statement .traceRingWrite := rfl
theorem dropRecordWrite : Statement .dropRecordWrite := rfl
theorem losslessRelease : Statement .losslessRelease := rfl
theorem trfullTimeout : Statement .trfullTimeout := rfl
theorem samplePick : Statement .samplePick := rfl
theorem powerMeasurement : Statement .powerMeasurement := rfl
theorem limiterRaiseHold : Statement .limiterRaiseHold := rfl
theorem ageingMeasurement : Statement .ageingMeasurement := rfl
theorem ageingMeasurementEnd : Statement .ageingMeasurementEnd := rfl
theorem patrolScrub : Statement .patrolScrub := rfl
theorem lifetimeLogRewrite : Statement .lifetimeLogRewrite := rfl
theorem nopShort (f : SF) : Statement (.nopShort f) := ⟨rfl, by decide, rfl⟩
theorem saddShort (f : SF) : Statement (.saddShort f) := ⟨rfl, by decide, rfl⟩
theorem ssubShort (f : SF) : Statement (.ssubShort f) := ⟨rfl, by decide, rfl⟩
theorem sandShort (f : SF) : Statement (.sandShort f) := ⟨rfl, by decide, rfl⟩
theorem sorShort (f : SF) : Statement (.sorShort f) := ⟨rfl, by decide, rfl⟩
theorem sxorShort (f : SF) : Statement (.sxorShort f) := ⟨rfl, by decide, rfl⟩
theorem sandnShort (f : SF) : Statement (.sandnShort f) := ⟨rfl, by decide, rfl⟩
theorem sshlShort (f : SF) : Statement (.sshlShort f) := ⟨rfl, by decide, rfl⟩
theorem sshrShort (f : SF) : Statement (.sshrShort f) := ⟨rfl, by decide, rfl⟩
theorem ssarShort (f : SF) : Statement (.ssarShort f) := ⟨rfl, by decide, rfl⟩
theorem smovShort (f : SF) : Statement (.smovShort f) := ⟨rfl, by decide, rfl⟩
theorem spopcShort (f : SF) : Statement (.spopcShort f) := ⟨rfl, by decide, rfl⟩
theorem vaddShort (f : SF) : Statement (.vaddShort f) := ⟨rfl, by decide, rfl⟩
theorem vsubShort (f : SF) : Statement (.vsubShort f) := ⟨rfl, by decide, rfl⟩
theorem vmulShort (f : SF) : Statement (.vmulShort f) := ⟨rfl, by decide, rfl⟩
theorem vmulhShort (f : SF) : Statement (.vmulhShort f) := ⟨rfl, by decide, rfl⟩
theorem vminShort (f : SF) : Statement (.vminShort f) := ⟨rfl, by decide, rfl⟩
theorem vmaxShort (f : SF) : Statement (.vmaxShort f) := ⟨rfl, by decide, rfl⟩
theorem vabsShort (f : SF) : Statement (.vabsShort f) := ⟨rfl, by decide, rfl⟩
theorem vandShort (f : SF) : Statement (.vandShort f) := ⟨rfl, by decide, rfl⟩
theorem vorShort (f : SF) : Statement (.vorShort f) := ⟨rfl, by decide, rfl⟩
theorem vxorShort (f : SF) : Statement (.vxorShort f) := ⟨rfl, by decide, rfl⟩
theorem vandnShort (f : SF) : Statement (.vandnShort f) := ⟨rfl, by decide, rfl⟩
theorem vshlShort (f : SF) : Statement (.vshlShort f) := ⟨rfl, by decide, rfl⟩
theorem vshrShort (f : SF) : Statement (.vshrShort f) := ⟨rfl, by decide, rfl⟩
theorem vsarShort (f : SF) : Statement (.vsarShort f) := ⟨rfl, by decide, rfl⟩
theorem vrolShort (f : SF) : Statement (.vrolShort f) := ⟨rfl, by decide, rfl⟩
theorem vpopcShort (f : SF) : Statement (.vpopcShort f) := ⟨rfl, by decide, rfl⟩
theorem vclzShort (f : SF) : Statement (.vclzShort f) := ⟨rfl, by decide, rfl⟩
theorem vbrevShort (f : SF) : Statement (.vbrevShort f) := ⟨rfl, by decide, rfl⟩
theorem vmovShort (f : SF) : Statement (.vmovShort f) := ⟨rfl, by decide, rfl⟩
theorem faddShort (f : SF) : Statement (.faddShort f) := ⟨rfl, by decide, rfl⟩
theorem fsubShort (f : SF) : Statement (.fsubShort f) := ⟨rfl, by decide, rfl⟩
theorem fmulShort (f : SF) : Statement (.fmulShort f) := ⟨rfl, by decide, rfl⟩
theorem fminShort (f : SF) : Statement (.fminShort f) := ⟨rfl, by decide, rfl⟩
theorem fmaxShort (f : SF) : Statement (.fmaxShort f) := ⟨rfl, by decide, rfl⟩
theorem frcpShort (f : SF) : Statement (.frcpShort f) := ⟨rfl, by decide, rfl⟩
theorem frsqShort (f : SF) : Statement (.frsqShort f) := ⟨rfl, by decide, rfl⟩
theorem fsqrtShort (f : SF) : Statement (.fsqrtShort f) := ⟨rfl, by decide, rfl⟩
theorem fexp2Short (f : SF) : Statement (.fexp2Short f) := ⟨rfl, by decide, rfl⟩
theorem flog2Short (f : SF) : Statement (.flog2Short f) := ⟨rfl, by decide, rfl⟩
theorem fsinShort (f : SF) : Statement (.fsinShort f) := ⟨rfl, by decide, rfl⟩
theorem fcosShort (f : SF) : Statement (.fcosShort f) := ⟨rfl, by decide, rfl⟩
theorem ftanhShort (f : SF) : Statement (.ftanhShort f) := ⟨rfl, by decide, rfl⟩
theorem frintShort (f : SF) : Statement (.frintShort f) := ⟨rfl, by decide, rfl⟩
theorem shflShort (f : SF) : Statement (.shflShort f) := ⟨rfl, by decide, rfl⟩
theorem bcastShort (f : SF) : Statement (.bcastShort f) := ⟨rfl, by decide, rfl⟩
theorem ballotShort (f : SF) : Statement (.ballotShort f) := ⟨rfl, by decide, rfl⟩
theorem vanyShort (f : SF) : Statement (.vanyShort f) := ⟨rfl, by decide, rfl⟩
theorem vallShort (f : SF) : Statement (.vallShort f) := ⟨rfl, by decide, rfl⟩
theorem nop (f : LF) : Statement (.nop f) := ⟨rfl, by decide, by decide, rfl⟩
theorem setmode (f : LF) : Statement (.setmode f) := ⟨rfl, by decide, by decide, rfl⟩
theorem getmode (f : LF) : Statement (.getmode f) := ⟨rfl, by decide, by decide, rfl⟩
theorem bra (f : LF) : Statement (.bra f) := ⟨rfl, by decide, by decide, rfl⟩
theorem bral (f : LF) : Statement (.bral f) := ⟨rfl, by decide, by decide, rfl⟩
theorem jmp (f : LF) : Statement (.jmp f) := ⟨rfl, by decide, by decide, rfl⟩
theorem jmpl (f : LF) : Statement (.jmpl f) := ⟨rfl, by decide, by decide, rfl⟩
theorem ret (f : LF) : Statement (.ret f) := ⟨rfl, by decide, by decide, rfl⟩
theorem brzm (f : LF) : Statement (.brzm f) := ⟨rfl, by decide, by decide, rfl⟩
theorem brnzm (f : LF) : Statement (.brnzm f) := ⟨rfl, by decide, by decide, rfl⟩
theorem brallm (f : LF) : Statement (.brallm f) := ⟨rfl, by decide, by decide, rfl⟩
theorem loop (f : LF) : Statement (.loop f) := ⟨rfl, by decide, by decide, rfl⟩
theorem exit (f : LF) : Statement (.exit f) := ⟨rfl, by decide, by decide, rfl⟩
theorem split (f : LF) : Statement (.split f) := ⟨rfl, by decide, by decide, rfl⟩
theorem splitm (f : LF) : Statement (.splitm f) := ⟨rfl, by decide, by decide, rfl⟩
theorem fuse (f : LF) : Statement (.fuse f) := ⟨rfl, by decide, by decide, rfl⟩
theorem setpri (f : LF) : Statement (.setpri f) := ⟨rfl, by decide, by decide, rfl⟩
theorem yield (f : LF) : Statement (.yield f) := ⟨rfl, by decide, by decide, rfl⟩
theorem sleep (f : LF) : Statement (.sleep f) := ⟨rfl, by decide, by decide, rfl⟩
theorem getid (f : LF) : Statement (.getid f) := ⟨rfl, by decide, by decide, rfl⟩
theorem sadd (f : LF) : Statement (.sadd f) := ⟨rfl, by decide, by decide, rfl⟩
theorem ssub (f : LF) : Statement (.ssub f) := ⟨rfl, by decide, by decide, rfl⟩
theorem smul (f : LF) : Statement (.smul f) := ⟨rfl, by decide, by decide, rfl⟩
theorem smulh (f : LF) : Statement (.smulh f) := ⟨rfl, by decide, by decide, rfl⟩
theorem sdiv (f : LF) : Statement (.sdiv f) := ⟨rfl, by decide, by decide, rfl⟩
theorem srem (f : LF) : Statement (.srem f) := ⟨rfl, by decide, by decide, rfl⟩
theorem smin (f : LF) : Statement (.smin f) := ⟨rfl, by decide, by decide, rfl⟩
theorem smax (f : LF) : Statement (.smax f) := ⟨rfl, by decide, by decide, rfl⟩
theorem sand (f : LF) : Statement (.sand f) := ⟨rfl, by decide, by decide, rfl⟩
theorem sor (f : LF) : Statement (.sor f) := ⟨rfl, by decide, by decide, rfl⟩
theorem sxor (f : LF) : Statement (.sxor f) := ⟨rfl, by decide, by decide, rfl⟩
theorem sandn (f : LF) : Statement (.sandn f) := ⟨rfl, by decide, by decide, rfl⟩
theorem sshl (f : LF) : Statement (.sshl f) := ⟨rfl, by decide, by decide, rfl⟩
theorem sshr (f : LF) : Statement (.sshr f) := ⟨rfl, by decide, by decide, rfl⟩
theorem ssar (f : LF) : Statement (.ssar f) := ⟨rfl, by decide, by decide, rfl⟩
theorem smov (f : LF) : Statement (.smov f) := ⟨rfl, by decide, by decide, rfl⟩
theorem sli (f : LF) : Statement (.sli f) := ⟨rfl, by decide, by decide, rfl⟩
theorem scmp (f : LF) : Statement (.scmp f) := ⟨rfl, by decide, by decide, rfl⟩
theorem ssel (f : LF) : Statement (.ssel f) := ⟨rfl, by decide, by decide, rfl⟩
theorem spopc (f : LF) : Statement (.spopc f) := ⟨rfl, by decide, by decide, rfl⟩
theorem sclz (f : LF) : Statement (.sclz f) := ⟨rfl, by decide, by decide, rfl⟩
theorem sctz (f : LF) : Statement (.sctz f) := ⟨rfl, by decide, by decide, rfl⟩
theorem sffs (f : LF) : Statement (.sffs f) := ⟨rfl, by decide, by decide, rfl⟩
theorem sbfx (f : LF) : Statement (.sbfx f) := ⟨rfl, by decide, by decide, rfl⟩
theorem sbfi (f : LF) : Statement (.sbfi f) := ⟨rfl, by decide, by decide, rfl⟩
theorem vadd (f : LF) : Statement (.vadd f) := ⟨rfl, by decide, by decide, rfl⟩
theorem vsub (f : LF) : Statement (.vsub f) := ⟨rfl, by decide, by decide, rfl⟩
theorem vmul (f : LF) : Statement (.vmul f) := ⟨rfl, by decide, by decide, rfl⟩
theorem vmulh (f : LF) : Statement (.vmulh f) := ⟨rfl, by decide, by decide, rfl⟩
theorem vmad (f : LF) : Statement (.vmad f) := ⟨rfl, by decide, by decide, rfl⟩
theorem vmin (f : LF) : Statement (.vmin f) := ⟨rfl, by decide, by decide, rfl⟩
theorem vmax (f : LF) : Statement (.vmax f) := ⟨rfl, by decide, by decide, rfl⟩
theorem vabs (f : LF) : Statement (.vabs f) := ⟨rfl, by decide, by decide, rfl⟩
theorem vand (f : LF) : Statement (.vand f) := ⟨rfl, by decide, by decide, rfl⟩
theorem vor (f : LF) : Statement (.vor f) := ⟨rfl, by decide, by decide, rfl⟩
theorem vxor (f : LF) : Statement (.vxor f) := ⟨rfl, by decide, by decide, rfl⟩
theorem vandn (f : LF) : Statement (.vandn f) := ⟨rfl, by decide, by decide, rfl⟩
theorem vshl (f : LF) : Statement (.vshl f) := ⟨rfl, by decide, by decide, rfl⟩
theorem vshr (f : LF) : Statement (.vshr f) := ⟨rfl, by decide, by decide, rfl⟩
theorem vsar (f : LF) : Statement (.vsar f) := ⟨rfl, by decide, by decide, rfl⟩
theorem vrol (f : LF) : Statement (.vrol f) := ⟨rfl, by decide, by decide, rfl⟩
theorem vbfx (f : LF) : Statement (.vbfx f) := ⟨rfl, by decide, by decide, rfl⟩
theorem vbfi (f : LF) : Statement (.vbfi f) := ⟨rfl, by decide, by decide, rfl⟩
theorem vpopc (f : LF) : Statement (.vpopc f) := ⟨rfl, by decide, by decide, rfl⟩
theorem vclz (f : LF) : Statement (.vclz f) := ⟨rfl, by decide, by decide, rfl⟩
theorem vbrev (f : LF) : Statement (.vbrev f) := ⟨rfl, by decide, by decide, rfl⟩
theorem vsel (f : LF) : Statement (.vsel f) := ⟨rfl, by decide, by decide, rfl⟩
theorem vmov (f : LF) : Statement (.vmov f) := ⟨rfl, by decide, by decide, rfl⟩
theorem vli (f : LF) : Statement (.vli f) := ⟨rfl, by decide, by decide, rfl⟩
theorem vcmp (f : LF) : Statement (.vcmp f) := ⟨rfl, by decide, by decide, rfl⟩
theorem fadd (f : LF) : Statement (.fadd f) := ⟨rfl, by decide, by decide, rfl⟩
theorem fsub (f : LF) : Statement (.fsub f) := ⟨rfl, by decide, by decide, rfl⟩
theorem fmul (f : LF) : Statement (.fmul f) := ⟨rfl, by decide, by decide, rfl⟩
theorem fma (f : LF) : Statement (.fma f) := ⟨rfl, by decide, by decide, rfl⟩
theorem fmin (f : LF) : Statement (.fmin f) := ⟨rfl, by decide, by decide, rfl⟩
theorem fmax (f : LF) : Statement (.fmax f) := ⟨rfl, by decide, by decide, rfl⟩
theorem fcmp (f : LF) : Statement (.fcmp f) := ⟨rfl, by decide, by decide, rfl⟩
theorem frcp (f : LF) : Statement (.frcp f) := ⟨rfl, by decide, by decide, rfl⟩
theorem frsq (f : LF) : Statement (.frsq f) := ⟨rfl, by decide, by decide, rfl⟩
theorem fsqrt (f : LF) : Statement (.fsqrt f) := ⟨rfl, by decide, by decide, rfl⟩
theorem fdiv (f : LF) : Statement (.fdiv f) := ⟨rfl, by decide, by decide, rfl⟩
theorem fexp2 (f : LF) : Statement (.fexp2 f) := ⟨rfl, by decide, by decide, rfl⟩
theorem flog2 (f : LF) : Statement (.flog2 f) := ⟨rfl, by decide, by decide, rfl⟩
theorem fsin (f : LF) : Statement (.fsin f) := ⟨rfl, by decide, by decide, rfl⟩
theorem fcos (f : LF) : Statement (.fcos f) := ⟨rfl, by decide, by decide, rfl⟩
theorem ftanh (f : LF) : Statement (.ftanh f) := ⟨rfl, by decide, by decide, rfl⟩
theorem fclass (f : LF) : Statement (.fclass f) := ⟨rfl, by decide, by decide, rfl⟩
theorem fscale (f : LF) : Statement (.fscale f) := ⟨rfl, by decide, by decide, rfl⟩
theorem frint (f : LF) : Statement (.frint f) := ⟨rfl, by decide, by decide, rfl⟩
theorem cvt (f : LF) : Statement (.cvt f) := ⟨rfl, by decide, by decide, rfl⟩
theorem pack (f : LF) : Statement (.pack f) := ⟨rfl, by decide, by decide, rfl⟩
theorem unpk (f : LF) : Statement (.unpk f) := ⟨rfl, by decide, by decide, rfl⟩
theorem srseed (f : LF) : Statement (.srseed f) := ⟨rfl, by decide, by decide, rfl⟩
theorem srget (f : LF) : Statement (.srget f) := ⟨rfl, by decide, by decide, rfl⟩
theorem shfl (f : LF) : Statement (.shfl f) := ⟨rfl, by decide, by decide, rfl⟩
theorem shflx (f : LF) : Statement (.shflx f) := ⟨rfl, by decide, by decide, rfl⟩
theorem shflup (f : LF) : Statement (.shflup f) := ⟨rfl, by decide, by decide, rfl⟩
theorem shfldn (f : LF) : Statement (.shfldn f) := ⟨rfl, by decide, by decide, rfl⟩
theorem put (f : LF) : Statement (.put f) := ⟨rfl, by decide, by decide, rfl⟩
theorem bcast (f : LF) : Statement (.bcast f) := ⟨rfl, by decide, by decide, rfl⟩
theorem vany (f : LF) : Statement (.vany f) := ⟨rfl, by decide, by decide, rfl⟩
theorem vall (f : LF) : Statement (.vall f) := ⟨rfl, by decide, by decide, rfl⟩
theorem ballot (f : LF) : Statement (.ballot f) := ⟨rfl, by decide, by decide, rfl⟩
theorem matchLanes (f : LF) : Statement (.matchLanes f) := ⟨rfl, by decide, by decide, rfl⟩
theorem redux (f : LF) : Statement (.redux f) := ⟨rfl, by decide, by decide, rfl⟩
theorem scan (f : LF) : Statement (.scan f) := ⟨rfl, by decide, by decide, rfl⟩
theorem ld (f : LF) : Statement (.ld f) := ⟨rfl, by decide, by decide, rfl⟩
theorem st (f : LF) : Statement (.st f) := ⟨rfl, by decide, by decide, rfl⟩
theorem ldf (f : LF) : Statement (.ldf f) := ⟨rfl, by decide, by decide, rfl⟩
theorem lds (f : LF) : Statement (.lds f) := ⟨rfl, by decide, by decide, rfl⟩
theorem sts (f : LF) : Statement (.sts f) := ⟨rfl, by decide, by decide, rfl⟩
theorem ldc (f : LF) : Statement (.ldc f) := ⟨rfl, by decide, by decide, rfl⟩
theorem stc (f : LF) : Statement (.stc f) := ⟨rfl, by decide, by decide, rfl⟩
theorem ldk (f : LF) : Statement (.ldk f) := ⟨rfl, by decide, by decide, rfl⟩
theorem stk (f : LF) : Statement (.stk f) := ⟨rfl, by decide, by decide, rfl⟩
theorem ldp (f : LF) : Statement (.ldp f) := ⟨rfl, by decide, by decide, rfl⟩
theorem stp (f : LF) : Statement (.stp f) := ⟨rfl, by decide, by decide, rfl⟩
theorem atom (f : LF) : Statement (.atom f) := ⟨rfl, by decide, by decide, rfl⟩
theorem atoms (f : LF) : Statement (.atoms f) := ⟨rfl, by decide, by decide, rfl⟩
theorem atomc (f : LF) : Statement (.atomc f) := ⟨rfl, by decide, by decide, rfl⟩
theorem pref (f : LF) : Statement (.pref f) := ⟨rfl, by decide, by decide, rfl⟩
theorem discard (f : LF) : Statement (.discard f) := ⟨rfl, by decide, by decide, rfl⟩
theorem fence (f : LF) : Statement (.fence f) := ⟨rfl, by decide, by decide, rfl⟩
theorem waitc (f : LF) : Statement (.waitc f) := ⟨rfl, by decide, by decide, rfl⟩
theorem cntrd (f : LF) : Statement (.cntrd f) := ⟨rfl, by decide, by decide, rfl⟩
theorem mma (f : LF) : Statement (.mma f) := ⟨rfl, by decide, by decide, rfl⟩
theorem mconv (f : LF) : Statement (.mconv f) := ⟨rfl, by decide, by decide, rfl⟩
theorem mzero (f : LF) : Statement (.mzero f) := ⟨rfl, by decide, by decide, rfl⟩
theorem mload (f : LF) : Statement (.mload f) := ⟨rfl, by decide, by decide, rfl⟩
theorem mdrain (f : LF) : Statement (.mdrain f) := ⟨rfl, by decide, by decide, rfl⟩
theorem mdrains (f : LF) : Statement (.mdrains f) := ⟨rfl, by decide, by decide, rfl⟩
theorem mrows (f : LF) : Statement (.mrows f) := ⟨rfl, by decide, by decide, rfl⟩
theorem mshape (f : LF) : Statement (.mshape f) := ⟨rfl, by decide, by decide, rfl⟩
theorem cpy (f : LF) : Statement (.cpy f) := ⟨rfl, by decide, by decide, rfl⟩
theorem cpyg (f : LF) : Statement (.cpyg f) := ⟨rfl, by decide, by decide, rfl⟩
theorem cpys (f : LF) : Statement (.cpys f) := ⟨rfl, by decide, by decide, rfl⟩
theorem barinit (f : LF) : Statement (.barinit f) := ⟨rfl, by decide, by decide, rfl⟩
theorem barexp (f : LF) : Statement (.barexp f) := ⟨rfl, by decide, by decide, rfl⟩
theorem bararr (f : LF) : Statement (.bararr f) := ⟨rfl, by decide, by decide, rfl⟩
theorem barwait (f : LF) : Statement (.barwait f) := ⟨rfl, by decide, by decide, rfl⟩
theorem bartest (f : LF) : Statement (.bartest f) := ⟨rfl, by decide, by decide, rfl⟩
theorem barpay (f : LF) : Statement (.barpay f) := ⟨rfl, by decide, by decide, rfl⟩
theorem fwait (f : LF) : Statement (.fwait f) := ⟨rfl, by decide, by decide, rfl⟩
theorem ffill (f : LF) : Statement (.ffill f) := ⟨rfl, by decide, by decide, rfl⟩
theorem fclr (f : LF) : Statement (.fclr f) := ⟨rfl, by decide, by decide, rfl⟩
theorem semsig (f : LF) : Statement (.semsig f) := ⟨rfl, by decide, by decide, rfl⟩
theorem semwait (f : LF) : Statement (.semwait f) := ⟨rfl, by decide, by decide, rfl⟩
theorem rngres (f : LF) : Statement (.rngres f) := ⟨rfl, by decide, by decide, rfl⟩
theorem rngpub (f : LF) : Statement (.rngpub f) := ⟨rfl, by decide, by decide, rfl⟩
theorem phase (f : LF) : Statement (.phase f) := ⟨rfl, by decide, by decide, rfl⟩
theorem teambar (f : LF) : Statement (.teambar f) := ⟨rfl, by decide, by decide, rfl⟩
theorem trapc (f : LF) : Statement (.trapc f) := ⟨rfl, by decide, by decide, rfl⟩
theorem resume (f : LF) : Statement (.resume f) := ⟨rfl, by decide, by decide, rfl⟩
theorem retx (f : LF) : Statement (.retx f) := ⟨rfl, by decide, by decide, rfl⟩
theorem brk (f : LF) : Statement (.brk f) := ⟨rfl, by decide, by decide, rfl⟩
theorem sysrd (f : LF) : Statement (.sysrd f) := ⟨rfl, by decide, by decide, rfl⟩
theorem syswr (f : LF) : Statement (.syswr f) := ⟨rfl, by decide, by decide, rfl⟩
theorem msend (f : LF) : Statement (.msend f) := ⟨rfl, by decide, by decide, rfl⟩
theorem mrecv (f : LF) : Statement (.mrecv f) := ⟨rfl, by decide, by decide, rfl⟩
theorem saveg (f : LF) : Statement (.saveg f) := ⟨rfl, by decide, by decide, rfl⟩
theorem loadg (f : LF) : Statement (.loadg f) := ⟨rfl, by decide, by decide, rfl⟩
theorem tlbinv (f : LF) : Statement (.tlbinv f) := ⟨rfl, by decide, by decide, rfl⟩
theorem keysel (f : LF) : Statement (.keysel f) := ⟨rfl, by decide, by decide, rfl⟩
theorem idle (f : LF) : Statement (.idle f) := ⟨rfl, by decide, by decide, rfl⟩
theorem nput (f : LF) : Statement (.nput f) := ⟨rfl, by decide, by decide, rfl⟩
theorem nget (f : LF) : Statement (.nget f) := ⟨rfl, by decide, by decide, rfl⟩
theorem nputi (f : LF) : Statement (.nputi f) := ⟨rfl, by decide, by decide, rfl⟩
theorem nputa (f : LF) : Statement (.nputa f) := ⟨rfl, by decide, by decide, rfl⟩
theorem natom (f : LF) : Statement (.natom f) := ⟨rfl, by decide, by decide, rfl⟩
theorem nwaitn (f : LF) : Statement (.nwaitn f) := ⟨rfl, by decide, by decide, rfl⟩
theorem nwopen (f : LF) : Statement (.nwopen f) := ⟨rfl, by decide, by decide, rfl⟩
theorem nwrev (f : LF) : Statement (.nwrev f) := ⟨rfl, by decide, by decide, rfl⟩
theorem trace (f : LF) : Statement (.trace f) := ⟨rfl, by decide, by decide, rfl⟩
theorem trflush (f : LF) : Statement (.trflush f) := ⟨rfl, by decide, by decide, rfl⟩
theorem trtag (f : LF) : Statement (.trtag f) := ⟨rfl, by decide, by decide, rfl⟩
theorem audtag (f : LF) : Statement (.audtag f) := ⟨rfl, by decide, by decide, rfl⟩
theorem audrd (f : LF) : Statement (.audrd f) := ⟨rfl, by decide, by decide, rfl⟩
theorem audclr (f : LF) : Statement (.audclr f) := ⟨rfl, by decide, by decide, rfl⟩
theorem pyxlinkPacketDropped : Statement .pyxlinkPacketDropped := rfl
theorem temperatureVoltageBinMinute : Statement .temperatureVoltageBinMinute := rfl

end Operands

end Sys2Proof.Laws
end

