-- ==== Sys2Proof/Laws/Step.lean ====
section
/-! SUPPORT. Everything that a step can do, said once. -/

namespace Sys2Proof.Machine

theorem finishStep_next {s t : State} {b : Bool} {o : Out State} (h : finishStep s b o = .next t) : ∃ u, o = .next u ∧ t = s.after b u := by
  cases o with
  | next u => exact ⟨u, rfl, by simpa [finishStep] using h.symm⟩
  | fault f => simp [finishStep] at h
  | refused r => simp [finishStep] at h

/-- What happens in a step before what follows every step: an input of the outside world; the instruction of an agent that has been
chosen to issue; or, with neither, one of the things that can happen, or nothing. -/
def Happens (s : State) (b : Bool) (u : State) : Prop :=
  (∃ e r, s.inputs = e :: r ∧ b = restarts e.step ∧
    if e.step.isEvent then ({ s with inputs := r } : State).doEvent e = .next u else u = { s with inputs := r }) ∨
  (∃ a r, s.inputs = [] ∧ s.issuing = a :: r ∧ b = false ∧ ({ s with issuing := r } : State).doIssue a = .next u) ∨
  (s.inputs = [] ∧ s.issuing = [] ∧ b = false ∧ ((s.choices = [] ∧ u = s) ∨ ∃ c ∈ s.choices, s.doChoice c = .next u))

theorem step_cases {s t : State} (h : step s = .next t) : ∃ b u, Happens s b u ∧ t = s.after b u := by
  unfold step at h
  split at h
  · rename_i e r hi
    obtain ⟨u, hu, ht⟩ := finishStep_next h
    refine ⟨_, u, .inl ⟨e, r, hi, rfl, ?_⟩, ht⟩
    split
    · rename_i he
      simpa [he] using hu
    · rename_i he
      simpa [he, eq_comm] using hu
  · rename_i hi
    split at h
    · rename_i a r ha
      obtain ⟨u, hu, ht⟩ := finishStep_next h
      exact ⟨_, u, .inr (.inl ⟨a, r, hi, ha, rfl, hu⟩), ht⟩
    · rename_i ha
      split at h
      · rename_i hc
        obtain ⟨u, hu, ht⟩ := finishStep_next h
        exact ⟨_, u, .inr (.inr ⟨hi, ha, rfl, .inl ⟨hc, by simpa [eq_comm] using hu⟩⟩), ht⟩
      · rename_i c r hc
        obtain ⟨u, hu, ht⟩ := finishStep_next h
        refine ⟨_, u, .inr (.inr ⟨hi, ha, rfl, .inr ⟨_, ?_, hu⟩⟩), ht⟩
        rw [hc]
        have hm : Config.choose s.tick 0 % (r.length + 1) < (c :: r).length := by
          simpa using Nat.mod_lt _ (Nat.succ_pos r.length)
        rw [List.getD_eq_getElem _ _ hm]
        exact List.getElem_mem hm

/-- Everything that an agent chosen to issue can do: it is gone or cannot issue; a col enters its handler; the fetch stops it; or it executes one
instruction; and where the record that it creates has no room, it is held. -/
theorem doIssue_cases (s : State) (a : Agent) :
    (s.doIssue a = .next s) ∨
    (∃ g, s.ag? a = some g ∧ s.canIssue a g = true ∧ s.entersFirst a = true ∧ s.doIssue a = .next (s.enterNow a g)) ∨
    (∃ g t, s.ag? a = some g ∧ s.canIssue a g = true ∧ s.entersFirst a = false ∧ s.fetchFor a g = .stop t ∧ s.doIssue a = s.orHold a g (.next t)) ∨
    ∃ g i t, s.ag? a = some g ∧ s.canIssue a g = true ∧ s.entersFirst a = false ∧ s.fetchFor a g = .run i t ∧
      s.doIssue a = s.orHold a g (exec i (t.begins a i)) := by
  unfold State.doIssue
  cases hg : s.ag? a with
  | none => exact .inl rfl
  | some g =>
    cases hc : s.canIssue a g with
    | false => exact .inl (by simp [hc])
    | true =>
      cases he : s.entersFirst a with
      | true => exact .inr (.inl ⟨g, rfl, hc, rfl, by simp [hc]⟩)
      | false =>
        cases hf : s.fetchFor a g with
        | stop t => exact .inr (.inr (.inl ⟨g, t, rfl, hc, rfl, hf, by simp [hc, hf]⟩))
        | run i t => exact .inr (.inr (.inr ⟨g, i, t, rfl, hc, rfl, hf, by simp [hc, hf]⟩))

/-- Each step advances the counter of free values by one. -/
@[simp] theorem after_tick (s : State) (b : Bool) (t : State) : (s.after b t).tick = s.tick + 1 := rfl

end Sys2Proof.Machine
end

