-- ==== Sys2Proof/Tests/Slice0.lean ====
section
/-! SUPPORT. Tests of the model: words written out from the spec's encodings, ill-formed terms, single steps whose results the
spec gives, and for each statement a state that meets its hypotheses. -/

namespace Sys2Proof.Tests

open Machine

/-- A long form with every field zero. -/
def zf : LF :=
  { sw := false, lit := none, dst := .v 0, sa := .v 0, ext := 0, sb := .v 0, sc := .v 0, guard := { inv := false, idx := 0 }, ty := .i32
    rnd := .rne, mod := 0 }

/-- A short form with every field zero. -/
def zs : SF := { sw := false, g := false, dst := .v 0, sa := .v 0, sb := .v 0 }

/-- A term is well-formed, and none of the terms that differ from it in one field is. -/
def refuses (mk : LF → Instr) (f : LF) (ms : List (LF → LF)) : Bool := (mk f).wf && ms.all fun m => !(mk (m f)).wf
def refusesS (mk : SF → Instr) (f : SF) (ms : List (SF → SF)) : Bool := (mk f).wf && ms.all fun m => !(mk (m f)).wf

/-! ### Decoding: one word for each instruction, from the fields of R50 and R51 and the codes of R79 and R80 -/

/-- Short forms (R50, R79). -/
theorem test_decode_short_0 :
    decodeTableWord 32 0x0 = some (.nopShort zs) ∧
    decodeTableWord 32 0x1162C58 = some (.saddShort { zs with dst := .s 8, sa := .s 8, sb := .s 8 }) ∧
    decodeTableWord 32 0x1362C58 = some (.ssubShort { zs with dst := .s 8, sa := .s 8, sb := .s 8 }) ∧
    decodeTableWord 32 0x1562C58 = some (.sandShort { zs with dst := .s 8, sa := .s 8, sb := .s 8 }) ∧
    decodeTableWord 32 0x1762C58 = some (.sorShort { zs with dst := .s 8, sa := .s 8, sb := .s 8 }) ∧
    decodeTableWord 32 0x1962C58 = some (.sxorShort { zs with dst := .s 8, sa := .s 8, sb := .s 8 }) ∧
    decodeTableWord 32 0x1B62C58 = some (.sandnShort { zs with dst := .s 8, sa := .s 8, sb := .s 8 }) ∧
    decodeTableWord 32 0x1D62C58 = some (.sshlShort { zs with dst := .s 8, sa := .s 8, sb := .s 8 }) ∧
    decodeTableWord 32 0x1F62C58 = some (.sshrShort { zs with dst := .s 8, sa := .s 8, sb := .s 8 }) ∧
    decodeTableWord 32 0x2162C58 = some (.ssarShort { zs with dst := .s 8, sa := .s 8, sb := .s 8 }) ∧
    decodeTableWord 32 0x2362C00 = some (.smovShort { zs with dst := .s 8, sa := .s 8 }) ∧
    decodeTableWord 32 0x2562C00 = some (.spopcShort { zs with dst := .s 8, sa := .s 8 }) ∧
    decodeTableWord 32 0x4020408 = some (.vaddShort { zs with dst := .v 8, sa := .v 8, sb := .v 8 }) ∧
    decodeTableWord 32 0x4220408 = some (.vsubShort { zs with dst := .v 8, sa := .v 8, sb := .v 8 }) ∧
    decodeTableWord 32 0x4420408 = some (.vmulShort { zs with dst := .v 8, sa := .v 8, sb := .v 8 }) ∧
    decodeTableWord 32 0x4620408 = some (.vmulhShort { zs with dst := .v 8, sa := .v 8, sb := .v 8 }) ∧
    decodeTableWord 32 0x4820408 = some (.vminShort { zs with dst := .v 8, sa := .v 8, sb := .v 8 }) ∧
    decodeTableWord 32 0x4A20408 = some (.vmaxShort { zs with dst := .v 8, sa := .v 8, sb := .v 8 }) ∧
    decodeTableWord 32 0x4C20400 = some (.vabsShort { zs with dst := .v 8, sa := .v 8 }) ∧
    decodeTableWord 32 0x4E20408 = some (.vandShort { zs with dst := .v 8, sa := .v 8, sb := .v 8 }) ∧
    decodeTableWord 32 0x5020408 = some (.vorShort { zs with dst := .v 8, sa := .v 8, sb := .v 8 }) ∧
    decodeTableWord 32 0x5220408 = some (.vxorShort { zs with dst := .v 8, sa := .v 8, sb := .v 8 }) ∧
    decodeTableWord 32 0x5420408 = some (.vandnShort { zs with dst := .v 8, sa := .v 8, sb := .v 8 }) ∧
    decodeTableWord 32 0x5620408 = some (.vshlShort { zs with dst := .v 8, sa := .v 8, sb := .v 8 }) ∧
    decodeTableWord 32 0x5820408 = some (.vshrShort { zs with dst := .v 8, sa := .v 8, sb := .v 8 }) := by decide

/-- Short forms (R50, R79). -/
theorem test_decode_short_1 :
    decodeTableWord 32 0x5A20408 = some (.vsarShort { zs with dst := .v 8, sa := .v 8, sb := .v 8 }) ∧
    decodeTableWord 32 0x5C20408 = some (.vrolShort { zs with dst := .v 8, sa := .v 8, sb := .v 8 }) ∧
    decodeTableWord 32 0x5E20400 = some (.vpopcShort { zs with dst := .v 8, sa := .v 8 }) ∧
    decodeTableWord 32 0x6020400 = some (.vclzShort { zs with dst := .v 8, sa := .v 8 }) ∧
    decodeTableWord 32 0x6220400 = some (.vbrevShort { zs with dst := .v 8, sa := .v 8 }) ∧
    decodeTableWord 32 0x6420400 = some (.vmovShort { zs with dst := .v 8, sa := .v 8 }) ∧
    decodeTableWord 32 0x8020408 = some (.faddShort { zs with dst := .v 8, sa := .v 8, sb := .v 8 }) ∧
    decodeTableWord 32 0x8220408 = some (.fsubShort { zs with dst := .v 8, sa := .v 8, sb := .v 8 }) ∧
    decodeTableWord 32 0x8420408 = some (.fmulShort { zs with dst := .v 8, sa := .v 8, sb := .v 8 }) ∧
    decodeTableWord 32 0x8620408 = some (.fminShort { zs with dst := .v 8, sa := .v 8, sb := .v 8 }) ∧
    decodeTableWord 32 0x8820408 = some (.fmaxShort { zs with dst := .v 8, sa := .v 8, sb := .v 8 }) ∧
    decodeTableWord 32 0x8A20400 = some (.frcpShort { zs with dst := .v 8, sa := .v 8 }) ∧
    decodeTableWord 32 0x8C20400 = some (.frsqShort { zs with dst := .v 8, sa := .v 8 }) ∧
    decodeTableWord 32 0x8E20400 = some (.fsqrtShort { zs with dst := .v 8, sa := .v 8 }) ∧
    decodeTableWord 32 0x9020400 = some (.fexp2Short { zs with dst := .v 8, sa := .v 8 }) ∧
    decodeTableWord 32 0x9220400 = some (.flog2Short { zs with dst := .v 8, sa := .v 8 }) ∧
    decodeTableWord 32 0x9420400 = some (.fsinShort { zs with dst := .v 8, sa := .v 8 }) ∧
    decodeTableWord 32 0x9620400 = some (.fcosShort { zs with dst := .v 8, sa := .v 8 }) ∧
    decodeTableWord 32 0x9820400 = some (.ftanhShort { zs with dst := .v 8, sa := .v 8 }) ∧
    decodeTableWord 32 0x9A20400 = some (.frintShort { zs with dst := .v 8, sa := .v 8 }) ∧
    decodeTableWord 32 0xC020408 = some (.shflShort { zs with dst := .v 8, sa := .v 8, sb := .v 8 }) ∧
    decodeTableWord 32 0xC220408 = some (.bcastShort { zs with dst := .v 8, sa := .v 8, sb := .v 8 }) ∧
    decodeTableWord 32 0xC560400 = some (.ballotShort { zs with dst := .s 8, sa := .v 8 }) ∧
    decodeTableWord 32 0xC760400 = some (.vanyShort { zs with dst := .s 8, sa := .v 8 }) ∧
    decodeTableWord 32 0xC960400 = some (.vallShort { zs with dst := .s 8, sa := .v 8 }) := by decide

/-- Long forms of the group sequencer (R51, R80). -/
theorem test_decode_sequencer_0 :
    decodeTableWord 64 0x40000000 = some (.nop zf) ∧
    decodeTableWord 64 0xB000000040080B00 = some (.setmode { zf with sa := .s 8, sb := .s 8 }) ∧
    decodeTableWord 64 0x40158000 = some (.getmode { zf with dst := .s 8 }) ∧
    decodeTableWord 96 0x80000000080180000 = some (.bra { zf with lit := some 8 }) ∧
    decodeTableWord 96 0x80000000080258000 = some (.bral { zf with dst := .s 8, lit := some 8 }) ∧
    decodeTableWord 64 0x40280B00 = some (.jmp { zf with sa := .s 8 }) ∧
    decodeTableWord 64 0x40358B00 = some (.jmpl { zf with dst := .s 8, sa := .s 8 }) ∧
    decodeTableWord 64 0x40380B00 = some (.ret { zf with sa := .s 8 }) ∧
    decodeTableWord 96 0x80000000080400B00 = some (.brzm { zf with sa := .s 8, lit := some 8 }) ∧
    decodeTableWord 96 0x80000000080480B00 = some (.brnzm { zf with sa := .s 8, lit := some 8 }) ∧
    decodeTableWord 96 0x80000000080500B00 = some (.brallm { zf with sa := .s 8, lit := some 8 }) ∧
    decodeTableWord 96 0x800000000805D8000 = some (.loop { zf with dst := .s 8, lit := some 8 }) ∧
    decodeTableWord 64 0x40600000 = some (.exit zf) := by decide

/-- Long forms of the group sequencer (R51, R80). -/
theorem test_decode_sequencer_1 :
    decodeTableWord 64 0x406D8000 = some (.split { zf with dst := .s 8 }) ∧
    decodeTableWord 64 0x40758B00 = some (.splitm { zf with dst := .s 8, sa := .s 8 }) ∧
    decodeTableWord 64 0x407D8B00 = some (.fuse { zf with dst := .s 8, sa := .s 8 }) ∧
    decodeTableWord 64 0x40800B00 = some (.setpri { zf with sa := .s 8 }) ∧
    decodeTableWord 64 0x40880000 = some (.yield zf) ∧
    decodeTableWord 64 0x40900B00 = some (.sleep { zf with sa := .s 8 }) ∧
    decodeTableWord 64 0x409D8000 = some (.getid { zf with dst := .s 8 }) := by decide

/-- Long forms of the group scalar (R51, R80). -/
theorem test_decode_scalar_0 :
    decodeTableWord 64 0xB000000042058B00 = some (.sadd { zf with dst := .s 8, sa := .s 8, sb := .s 8 }) ∧
    decodeTableWord 64 0xB0000000420D8B00 = some (.ssub { zf with dst := .s 8, sa := .s 8, sb := .s 8 }) ∧
    decodeTableWord 64 0xB000000042158B00 = some (.smul { zf with dst := .s 8, sa := .s 8, sb := .s 8 }) ∧
    decodeTableWord 64 0xB0000000421D8B00 = some (.smulh { zf with dst := .s 8, sa := .s 8, sb := .s 8 }) ∧
    decodeTableWord 64 0xB000000042258B00 = some (.sdiv { zf with dst := .s 8, sa := .s 8, sb := .s 8 }) ∧
    decodeTableWord 64 0xB0000000422D8B00 = some (.srem { zf with dst := .s 8, sa := .s 8, sb := .s 8 }) ∧
    decodeTableWord 64 0xB000000042358B00 = some (.smin { zf with dst := .s 8, sa := .s 8, sb := .s 8 }) ∧
    decodeTableWord 64 0xB0000000423D8B00 = some (.smax { zf with dst := .s 8, sa := .s 8, sb := .s 8 }) ∧
    decodeTableWord 64 0xB000000042458B00 = some (.sand { zf with dst := .s 8, sa := .s 8, sb := .s 8 }) ∧
    decodeTableWord 64 0xB0000000424D8B00 = some (.sor { zf with dst := .s 8, sa := .s 8, sb := .s 8 }) ∧
    decodeTableWord 64 0xB000000042558B00 = some (.sxor { zf with dst := .s 8, sa := .s 8, sb := .s 8 }) ∧
    decodeTableWord 64 0xB0000000425D8B00 = some (.sandn { zf with dst := .s 8, sa := .s 8, sb := .s 8 }) ∧
    decodeTableWord 64 0xB000000042658B00 = some (.sshl { zf with dst := .s 8, sa := .s 8, sb := .s 8 }) := by decide

/-- Long forms of the group scalar (R51, R80). -/
theorem test_decode_scalar_1 :
    decodeTableWord 64 0xB0000000426D8B00 = some (.sshr { zf with dst := .s 8, sa := .s 8, sb := .s 8 }) ∧
    decodeTableWord 64 0xB000000042758B00 = some (.ssar { zf with dst := .s 8, sa := .s 8, sb := .s 8 }) ∧
    decodeTableWord 64 0x427D8B00 = some (.smov { zf with dst := .s 8, sa := .s 8 }) ∧
    decodeTableWord 64 0x42858B00 = some (.sli { zf with dst := .s 8, sa := .s 8 }) ∧
    decodeTableWord 64 0xB0000000428D8B00 = some (.scmp { zf with dst := .s 8, sa := .s 8, sb := .s 8 }) ∧
    decodeTableWord 64 0xB160000042958B00 = some (.ssel { zf with dst := .s 8, sa := .s 8, sb := .s 8, sc := .s 8 }) ∧
    decodeTableWord 64 0x429D8B00 = some (.spopc { zf with dst := .s 8, sa := .s 8 }) ∧
    decodeTableWord 64 0x42A58B00 = some (.sclz { zf with dst := .s 8, sa := .s 8 }) ∧
    decodeTableWord 64 0x42AD8B00 = some (.sctz { zf with dst := .s 8, sa := .s 8 }) ∧
    decodeTableWord 64 0xB000000042B58B00 = some (.sffs { zf with dst := .s 8, sa := .s 8, sb := .s 8 }) ∧
    decodeTableWord 64 0xB160000042BD8B00 = some (.sbfx { zf with dst := .s 8, sa := .s 8, sb := .s 8, sc := .s 8 }) ∧
    decodeTableWord 64 0xB160000042C58B00 = some (.sbfi { zf with dst := .s 8, sa := .s 8, sb := .s 8, sc := .s 8 }) := by decide

/-- Long forms of the group vector integer (R51, R80). -/
theorem test_decode_vector_integer_0 :
    decodeTableWord 64 0x1000010044008100 = some (.vadd { zf with dst := .v 8, sa := .v 8, sb := .v 8, ty := .n32 }) ∧
    decodeTableWord 64 0x1000010044088100 = some (.vsub { zf with dst := .v 8, sa := .v 8, sb := .v 8, ty := .n32 }) ∧
    decodeTableWord 64 0x1000010044108100 = some (.vmul { zf with dst := .v 8, sa := .v 8, sb := .v 8, ty := .n32 }) ∧
    decodeTableWord 64 0x1000010044188100 = some (.vmulh { zf with dst := .v 8, sa := .v 8, sb := .v 8, ty := .n32 }) ∧
    decodeTableWord 64 0x1020010044208100 = some (.vmad { zf with dst := .v 8, sa := .v 8, sb := .v 8, sc := .v 8, ty := .n32 }) ∧
    decodeTableWord 64 0x1000010044288100 = some (.vmin { zf with dst := .v 8, sa := .v 8, sb := .v 8, ty := .n32 }) ∧
    decodeTableWord 64 0x1000010044308100 = some (.vmax { zf with dst := .v 8, sa := .v 8, sb := .v 8, ty := .n32 }) ∧
    decodeTableWord 64 0x44388100 = some (.vabs { zf with dst := .v 8, sa := .v 8 }) ∧
    decodeTableWord 64 0x1000020044408100 = some (.vand { zf with dst := .v 8, sa := .v 8, sb := .v 8, ty := .i64 }) ∧
    decodeTableWord 64 0x1000020044488100 = some (.vor { zf with dst := .v 8, sa := .v 8, sb := .v 8, ty := .i64 }) ∧
    decodeTableWord 64 0x1000020044508100 = some (.vxor { zf with dst := .v 8, sa := .v 8, sb := .v 8, ty := .i64 }) ∧
    decodeTableWord 64 0x1000020044588100 = some (.vandn { zf with dst := .v 8, sa := .v 8, sb := .v 8, ty := .i64 }) ∧
    decodeTableWord 64 0x1000010044608100 = some (.vshl { zf with dst := .v 8, sa := .v 8, sb := .v 8, ty := .n32 }) := by decide

/-- Long forms of the group vector integer (R51, R80). -/
theorem test_decode_vector_integer_1 :
    decodeTableWord 64 0x1000010044688100 = some (.vshr { zf with dst := .v 8, sa := .v 8, sb := .v 8, ty := .n32 }) ∧
    decodeTableWord 64 0x1000010044708100 = some (.vsar { zf with dst := .v 8, sa := .v 8, sb := .v 8, ty := .n32 }) ∧
    decodeTableWord 64 0x1000010044788100 = some (.vrol { zf with dst := .v 8, sa := .v 8, sb := .v 8, ty := .n32 }) ∧
    decodeTableWord 64 0x1020010044808100 = some (.vbfx { zf with dst := .v 8, sa := .v 8, sb := .v 8, sc := .v 8, ty := .n32 }) ∧
    decodeTableWord 64 0x1020010044888100 = some (.vbfi { zf with dst := .v 8, sa := .v 8, sb := .v 8, sc := .v 8, ty := .n32 }) ∧
    decodeTableWord 64 0x30044908100 = some (.vpopc { zf with dst := .v 8, sa := .v 8, ty := .n64 }) ∧
    decodeTableWord 64 0x30044988100 = some (.vclz { zf with dst := .v 8, sa := .v 8, ty := .n64 }) ∧
    decodeTableWord 64 0x30044A08100 = some (.vbrev { zf with dst := .v 8, sa := .v 8, ty := .n64 }) ∧
    decodeTableWord 64 0x1160080044A88100 = some (.vsel { zf with dst := .v 8, sa := .v 8, sb := .v 8, sc := .s 8, ty := .f32 }) ∧
    decodeTableWord 64 0x80044B08100 = some (.vmov { zf with dst := .v 8, sa := .v 8, ty := .f32 }) ∧
    decodeTableWord 96 0x80000030084B88FE0 = some (.vli { zf with dst := .v 8, sa := .lit, ty := .n64, lit := some 8 }) ∧
    decodeTableWord 64 0x1000010044C58100 = some (.vcmp { zf with dst := .s 8, sa := .v 8, sb := .v 8, ty := .n32 }) := by decide

/-- Long forms of the group vector float (R51, R80). -/
theorem test_decode_vector_float_0 :
    decodeTableWord 64 0x1000080046008100 = some (.fadd { zf with dst := .v 8, sa := .v 8, sb := .v 8, ty := .f32 }) ∧
    decodeTableWord 64 0x1000080046088100 = some (.fsub { zf with dst := .v 8, sa := .v 8, sb := .v 8, ty := .f32 }) ∧
    decodeTableWord 64 0x1000080046108100 = some (.fmul { zf with dst := .v 8, sa := .v 8, sb := .v 8, ty := .f32 }) ∧
    decodeTableWord 64 0x1020080046188100 = some (.fma { zf with dst := .v 8, sa := .v 8, sb := .v 8, sc := .v 8, ty := .f32 }) ∧
    decodeTableWord 64 0x1000080046208100 = some (.fmin { zf with dst := .v 8, sa := .v 8, sb := .v 8, ty := .f32 }) ∧
    decodeTableWord 64 0x1000080046288100 = some (.fmax { zf with dst := .v 8, sa := .v 8, sb := .v 8, ty := .f32 }) ∧
    decodeTableWord 64 0x1000080046358100 = some (.fcmp { zf with dst := .s 8, sa := .v 8, sb := .v 8, ty := .f32 }) ∧
    decodeTableWord 64 0x80046388100 = some (.frcp { zf with dst := .v 8, sa := .v 8, ty := .f32 }) ∧
    decodeTableWord 64 0x80046408100 = some (.frsq { zf with dst := .v 8, sa := .v 8, ty := .f32 }) ∧
    decodeTableWord 64 0x80046488100 = some (.fsqrt { zf with dst := .v 8, sa := .v 8, ty := .f32 }) ∧
    decodeTableWord 64 0x1000080046508100 = some (.fdiv { zf with dst := .v 8, sa := .v 8, sb := .v 8, ty := .f32 }) ∧
    decodeTableWord 64 0x80046588100 = some (.fexp2 { zf with dst := .v 8, sa := .v 8, ty := .f32 }) ∧
    decodeTableWord 64 0x80046608100 = some (.flog2 { zf with dst := .v 8, sa := .v 8, ty := .f32 }) := by decide

/-- Long forms of the group vector float (R51, R80). -/
theorem test_decode_vector_float_1 :
    decodeTableWord 64 0x80046688100 = some (.fsin { zf with dst := .v 8, sa := .v 8, ty := .f32 }) ∧
    decodeTableWord 64 0x80046708100 = some (.fcos { zf with dst := .v 8, sa := .v 8, ty := .f32 }) ∧
    decodeTableWord 64 0x80046788100 = some (.ftanh { zf with dst := .v 8, sa := .v 8, ty := .f32 }) ∧
    decodeTableWord 64 0x80046808100 = some (.fclass { zf with dst := .v 8, sa := .v 8, ty := .f32 }) ∧
    decodeTableWord 64 0x1000080046888100 = some (.fscale { zf with dst := .v 8, sa := .v 8, sb := .v 8, ty := .f32 }) ∧
    decodeTableWord 64 0x80046908100 = some (.frint { zf with dst := .v 8, sa := .v 8, ty := .f32 }) := by decide

/-- Long forms of the group conversion and cross-lane (R51, R80). -/
theorem test_decode_conversion_cross_lane_0 :
    decodeTableWord 64 0x80048008100 = some (.cvt { zf with dst := .v 8, sa := .v 8, ty := .f32 }) ∧
    decodeTableWord 64 0x40048088100 = some (.pack { zf with dst := .v 8, sa := .v 8, ty := .i16 }) ∧
    decodeTableWord 64 0x80048108104 = some (.unpk { zf with dst := .v 8, sa := .v 8, ext := 4, ty := .f32 }) ∧
    decodeTableWord 64 0xB000000048180B00 = some (.srseed { zf with sa := .s 8, sb := .s 8 }) ∧
    decodeTableWord 64 0x48258000 = some (.srget { zf with dst := .s 8 }) ∧
    decodeTableWord 64 0x1000080048288100 = some (.shfl { zf with dst := .v 8, sa := .v 8, sb := .v 8, ty := .f32 }) ∧
    decodeTableWord 64 0x1000080048308100 = some (.shflx { zf with dst := .v 8, sa := .v 8, sb := .v 8, ty := .f32 }) ∧
    decodeTableWord 64 0x1000080048388100 = some (.shflup { zf with dst := .v 8, sa := .v 8, sb := .v 8, ty := .f32 }) ∧
    decodeTableWord 64 0x1000080048408100 = some (.shfldn { zf with dst := .v 8, sa := .v 8, sb := .v 8, ty := .f32 }) ∧
    decodeTableWord 64 0x1000080048488100 = some (.put { zf with dst := .v 8, sa := .v 8, sb := .v 8, ty := .f32 }) ∧
    decodeTableWord 64 0xB000080048508100 = some (.bcast { zf with dst := .v 8, sa := .v 8, sb := .s 8, ty := .f32 }) ∧
    decodeTableWord 64 0x800485D8100 = some (.vany { zf with dst := .s 8, sa := .v 8, ty := .f32 }) ∧
    decodeTableWord 64 0x80048658100 = some (.vall { zf with dst := .s 8, sa := .v 8, ty := .f32 }) := by decide

/-- Long forms of the group conversion and cross-lane (R51, R80). -/
theorem test_decode_conversion_cross_lane_1 :
    decodeTableWord 64 0x800486D8100 = some (.ballot { zf with dst := .s 8, sa := .v 8, ty := .f32 }) ∧
    decodeTableWord 64 0x80048708100 = some (.matchLanes { zf with dst := .v 8, sa := .v 8, ty := .f32 }) ∧
    decodeTableWord 64 0x806487D8100 = some (.redux { zf with dst := .s 8, sa := .v 8, ty := .f32, mod := 6 }) ∧
    decodeTableWord 64 0x80648808100 = some (.scan { zf with dst := .v 8, sa := .v 8, ty := .f32, mod := 6 }) := by decide

/-- Long forms of the group memory (R51, R80). -/
theorem test_decode_memory_0 :
    decodeTableWord 64 0x100008004A008B00 = some (.ld { zf with dst := .v 8, sa := .s 8, sb := .v 8, ty := .f32 }) ∧
    decodeTableWord 64 0x102008004A080B00 = some (.st { zf with sa := .s 8, sb := .v 8, sc := .v 8, ty := .f32 }) ∧
    decodeTableWord 64 0xB00008004A108B00 = some (.ldf { zf with dst := .v 8, sa := .s 8, sb := .s 8, ty := .f32 }) ∧
    decodeTableWord 64 0x100008004A188B00 = some (.lds { zf with dst := .v 8, sa := .s 8, sb := .v 8, ty := .f32 }) ∧
    decodeTableWord 64 0x102008004A200B00 = some (.sts { zf with sa := .s 8, sb := .v 8, sc := .v 8, ty := .f32 }) ∧
    decodeTableWord 64 0x100008004A288B00 = some (.ldc { zf with dst := .v 8, sa := .s 8, sb := .v 8, ty := .f32 }) ∧
    decodeTableWord 64 0x102008004A300B00 = some (.stc { zf with sa := .s 8, sb := .v 8, sc := .v 8, ty := .f32 }) ∧
    decodeTableWord 64 0x100008004A388B00 = some (.ldk { zf with dst := .v 8, sa := .s 8, sb := .v 8, ty := .f32 }) ∧
    decodeTableWord 64 0x102008004A400B00 = some (.stk { zf with sa := .s 8, sb := .v 8, sc := .v 8, ty := .f32 }) ∧
    decodeTableWord 64 0x100008004A488B00 = some (.ldp { zf with dst := .v 8, sa := .s 8, sb := .v 8, ty := .f32 }) ∧
    decodeTableWord 64 0x102008004A500B00 = some (.stp { zf with sa := .s 8, sb := .v 8, sc := .v 8, ty := .f32 }) ∧
    decodeTableWord 64 0x102008084A588B00 = some (.atom { zf with dst := .v 8, sa := .s 8, sb := .v 8, sc := .v 8, ty := .f32, mod := 8 }) ∧
    decodeTableWord 64 0x102008084A608B00 = some (.atoms { zf with dst := .v 8, sa := .s 8, sb := .v 8, sc := .v 8, ty := .f32, mod := 8 }) := by decide

/-- Long forms of the group memory (R51, R80). -/
theorem test_decode_memory_1 :
    decodeTableWord 64 0x102008084A688B00 = some (.atomc { zf with dst := .v 8, sa := .s 8, sb := .v 8, sc := .v 8, ty := .f32, mod := 8 }) ∧
    decodeTableWord 64 0x100000004A700B00 = some (.pref { zf with sa := .s 8, sb := .v 8 }) ∧
    decodeTableWord 64 0x100000004A780B00 = some (.discard { zf with sa := .s 8, sb := .v 8 }) ∧
    decodeTableWord 64 0x4A800000 = some (.fence zf) ∧
    decodeTableWord 64 0x4A880B00 = some (.waitc { zf with sa := .s 8 }) ∧
    decodeTableWord 64 0x4A958000 = some (.cntrd { zf with dst := .s 8 }) := by decide

/-- Long forms of the group matrix (R51, R80). -/
theorem test_decode_matrix_0 :
    decodeTableWord 64 0x11C008084C070100 = some (.mma { zf with dst := .zero, sa := .v 8, sb := .v 8, sc := .zero, ty := .f32, mod := 8 }) ∧
    decodeTableWord 64 0x116008084C0F0B00 = some (.mconv { zf with dst := .zero, sa := .s 8, sb := .v 8, sc := .s 8, ty := .f32, mod := 8 }) ∧
    decodeTableWord 64 0x4C100000 = some (.mzero zf) ∧
    decodeTableWord 64 0x8004C180100 = some (.mload { zf with sa := .v 8, ty := .f32 }) ∧
    decodeTableWord 64 0x100008004C208100 = some (.mdrain { zf with dst := .v 8, sa := .v 8, sb := .v 8, ty := .f32 }) ∧
    decodeTableWord 64 0xB02008004C280100 = some (.mdrains { zf with sa := .v 8, sb := .s 8, sc := .v 8, ty := .f32 }) ∧
    decodeTableWord 64 0x8004C308000 = some (.mrows { zf with dst := .v 8, ty := .f32 }) ∧
    decodeTableWord 64 0x4C380B00 = some (.mshape { zf with sa := .s 8 }) := by decide

/-- Long forms of the group synchronisation and copy (R51, R80). -/
theorem test_decode_synchronisation_copy_0 :
    decodeTableWord 64 0xB00000004E058B00 = some (.cpy { zf with dst := .s 8, sa := .s 8, sb := .s 8 }) ∧
    decodeTableWord 64 0xB02000004E0D8B00 = some (.cpyg { zf with dst := .s 8, sa := .s 8, sb := .s 8, sc := .v 8 }) ∧
    decodeTableWord 64 0xB02000004E158B00 = some (.cpys { zf with dst := .s 8, sa := .s 8, sb := .s 8, sc := .v 8 }) ∧
    decodeTableWord 64 0xB00000004E180100 = some (.barinit { zf with sa := .v 8, sb := .s 8 }) ∧
    decodeTableWord 64 0xB00000004E200100 = some (.barexp { zf with sa := .v 8, sb := .s 8 }) ∧
    decodeTableWord 64 0xB00000004E2D8100 = some (.bararr { zf with dst := .s 8, sa := .v 8, sb := .s 8 }) ∧
    decodeTableWord 64 0xB00000004E358100 = some (.barwait { zf with dst := .s 8, sa := .v 8, sb := .s 8 }) ∧
    decodeTableWord 64 0xB00000004E3D8100 = some (.bartest { zf with dst := .s 8, sa := .v 8, sb := .s 8 }) ∧
    decodeTableWord 64 0xB00000004E458100 = some (.barpay { zf with dst := .s 8, sa := .v 8, sb := .s 8 }) ∧
    decodeTableWord 64 0xB00000004E4D8000 = some (.fwait { zf with dst := .s 8, sb := .s 8 }) ∧
    decodeTableWord 64 0xB16000004E558000 = some (.ffill { zf with dst := .s 8, sb := .s 8, sc := .s 8 }) ∧
    decodeTableWord 64 0xB00000004E5D8000 = some (.fclr { zf with dst := .s 8, sb := .s 8 }) ∧
    decodeTableWord 64 0xB16000004E658B00 = some (.semsig { zf with dst := .s 8, sa := .s 8, sb := .s 8, sc := .s 8 }) := by decide

/-- Long forms of the group synchronisation and copy (R51, R80). -/
theorem test_decode_synchronisation_copy_1 :
    decodeTableWord 64 0xB16000004E6D8B00 = some (.semwait { zf with dst := .s 8, sa := .s 8, sb := .s 8, sc := .s 8 }) ∧
    decodeTableWord 64 0xB16000004E758B00 = some (.rngres { zf with dst := .s 8, sa := .s 8, sb := .s 8, sc := .s 8 }) ∧
    decodeTableWord 64 0xB16000004E780B00 = some (.rngpub { zf with sa := .s 8, sb := .s 8, sc := .s 8 }) ∧
    decodeTableWord 96 0x8B00000008E800100 = some (.phase { zf with sa := .v 8, sb := .s 8, lit := some 8 }) ∧
    decodeTableWord 64 0x4E880000 = some (.teambar zf) := by decide

/-- Long forms of the group system (R51, R80). -/
theorem test_decode_system_0 :
    decodeTableWord 64 0x50008100 = some (.trapc { zf with dst := .v 8, sa := .v 8 }) ∧
    decodeTableWord 64 0xB160000050080B00 = some (.resume { zf with sa := .s 8, sb := .s 8, sc := .s 8 }) ∧
    decodeTableWord 64 0x50100000 = some (.retx zf) ∧
    decodeTableWord 64 0x50180000 = some (.brk zf) ∧
    decodeTableWord 64 0xB160000050258000 = some (.sysrd { zf with dst := .s 8, sb := .s 8, sc := .s 8 }) ∧
    decodeTableWord 64 0xB160000050280B00 = some (.syswr { zf with sa := .s 8, sb := .s 8, sc := .s 8 }) ∧
    decodeTableWord 64 0xB000000050358B00 = some (.msend { zf with dst := .s 8, sa := .s 8, sb := .s 8 }) ∧
    decodeTableWord 64 0x503D8000 = some (.mrecv { zf with dst := .s 8 }) ∧
    decodeTableWord 64 0xB000000050458B00 = some (.saveg { zf with dst := .s 8, sa := .s 8, sb := .s 8 }) ∧
    decodeTableWord 64 0xB0000000504D8B00 = some (.loadg { zf with dst := .s 8, sa := .s 8, sb := .s 8 }) ∧
    decodeTableWord 64 0xB000000050500B00 = some (.tlbinv { zf with sa := .s 8, sb := .s 8 }) ∧
    decodeTableWord 64 0x505D8B00 = some (.keysel { zf with dst := .s 8, sa := .s 8 }) ∧
    decodeTableWord 64 0x50600000 = some (.idle zf) := by decide

/-- Long forms of the group network (R51, R80). -/
theorem test_decode_network_0 :
    decodeTableWord 64 0xB160000052058B00 = some (.nput { zf with dst := .s 8, sa := .s 8, sb := .s 8, sc := .s 8 }) ∧
    decodeTableWord 64 0xB1600000520D8B00 = some (.nget { zf with dst := .s 8, sa := .s 8, sb := .s 8, sc := .s 8 }) ∧
    decodeTableWord 64 0xB160000052158B00 = some (.nputi { zf with dst := .s 8, sa := .s 8, sb := .s 8, sc := .s 8 }) ∧
    decodeTableWord 64 0xB1600800521D8B00 = some (.nputa { zf with dst := .s 8, sa := .s 8, sb := .s 8, sc := .s 8, ty := .f32 }) ∧
    decodeTableWord 64 0xB160010052258000 = some (.natom { zf with dst := .s 8, sb := .s 8, sc := .s 8, ty := .n32 }) ∧
    decodeTableWord 64 0x522D8B00 = some (.nwaitn { zf with dst := .s 8, sa := .s 8 }) ∧
    decodeTableWord 64 0xB000000052358B00 = some (.nwopen { zf with dst := .s 8, sa := .s 8, sb := .s 8 }) ∧
    decodeTableWord 64 0x523D8B00 = some (.nwrev { zf with dst := .s 8, sa := .s 8 }) := by decide

/-- Long forms of the group trace and audit (R51, R80). -/
theorem test_decode_trace_audit_0 :
    decodeTableWord 64 0x54000B00 = some (.trace { zf with sa := .s 8 }) ∧
    decodeTableWord 64 0x540D8000 = some (.trflush { zf with dst := .s 8 }) ∧
    decodeTableWord 64 0x54100B00 = some (.trtag { zf with sa := .s 8 }) ∧
    decodeTableWord 64 0x54180B00 = some (.audtag { zf with sa := .s 8 }) ∧
    decodeTableWord 64 0xB160000054258B00 = some (.audrd { zf with dst := .s 8, sa := .s 8, sb := .s 8, sc := .s 8 }) ∧
    decodeTableWord 64 0x160000054280B00 = some (.audclr { zf with sa := .s 8, sc := .s 8 }) := by decide

/-! ### Well-formed terms, and ill-formed ones for each field -/

/-- Short forms. -/
theorem test_wf_short_0 :
    refusesS .nopShort zs [fun f => { f with dst := .lit }, fun f => { f with sa := .oneF }, fun f => { f with sb := .oneF }, fun f => { f with g := true }] = true ∧
    refusesS .saddShort { zs with dst := .s 8, sa := .s 8, sb := .s 8 } [fun f => { f with dst := .lit }, fun f => { f with sa := .oneF }, fun f => { f with sb := .oneF }, fun f => { f with g := true }] = true ∧
    refusesS .ssubShort { zs with dst := .s 8, sa := .s 8, sb := .s 8 } [fun f => { f with dst := .lit }, fun f => { f with sa := .oneF }, fun f => { f with sb := .oneF }, fun f => { f with g := true }] = true ∧
    refusesS .sandShort { zs with dst := .s 8, sa := .s 8, sb := .s 8 } [fun f => { f with dst := .lit }, fun f => { f with sa := .oneF }, fun f => { f with sb := .oneF }, fun f => { f with g := true }] = true ∧
    refusesS .sorShort { zs with dst := .s 8, sa := .s 8, sb := .s 8 } [fun f => { f with dst := .lit }, fun f => { f with sa := .oneF }, fun f => { f with sb := .oneF }, fun f => { f with g := true }] = true ∧
    refusesS .sxorShort { zs with dst := .s 8, sa := .s 8, sb := .s 8 } [fun f => { f with dst := .lit }, fun f => { f with sa := .oneF }, fun f => { f with sb := .oneF }, fun f => { f with g := true }] = true ∧
    refusesS .sandnShort { zs with dst := .s 8, sa := .s 8, sb := .s 8 } [fun f => { f with dst := .lit }, fun f => { f with sa := .oneF }, fun f => { f with sb := .oneF }, fun f => { f with g := true }] = true ∧
    refusesS .sshlShort { zs with dst := .s 8, sa := .s 8, sb := .s 8 } [fun f => { f with dst := .lit }, fun f => { f with sa := .oneF }, fun f => { f with sb := .oneF }, fun f => { f with g := true }] = true ∧
    refusesS .sshrShort { zs with dst := .s 8, sa := .s 8, sb := .s 8 } [fun f => { f with dst := .lit }, fun f => { f with sa := .oneF }, fun f => { f with sb := .oneF }, fun f => { f with g := true }] = true ∧
    refusesS .ssarShort { zs with dst := .s 8, sa := .s 8, sb := .s 8 } [fun f => { f with dst := .lit }, fun f => { f with sa := .oneF }, fun f => { f with sb := .oneF }, fun f => { f with g := true }] = true ∧
    refusesS .smovShort { zs with dst := .s 8, sa := .s 8 } [fun f => { f with dst := .lit }, fun f => { f with sa := .oneF }, fun f => { f with sb := .oneF }, fun f => { f with g := true }] = true ∧
    refusesS .spopcShort { zs with dst := .s 8, sa := .s 8 } [fun f => { f with dst := .lit }, fun f => { f with sa := .oneF }, fun f => { f with sb := .oneF }, fun f => { f with g := true }] = true ∧
    refusesS .vaddShort { zs with dst := .v 8, sa := .v 8, sb := .v 8 } [fun f => { f with dst := .lit }, fun f => { f with sa := .lit }, fun f => { f with sb := .lit }] = true ∧
    refusesS .vsubShort { zs with dst := .v 8, sa := .v 8, sb := .v 8 } [fun f => { f with dst := .lit }, fun f => { f with sa := .lit }, fun f => { f with sb := .lit }] = true ∧
    refusesS .vmulShort { zs with dst := .v 8, sa := .v 8, sb := .v 8 } [fun f => { f with dst := .lit }, fun f => { f with sa := .lit }, fun f => { f with sb := .lit }] = true ∧
    refusesS .vmulhShort { zs with dst := .v 8, sa := .v 8, sb := .v 8 } [fun f => { f with dst := .lit }, fun f => { f with sa := .lit }, fun f => { f with sb := .lit }] = true ∧
    refusesS .vminShort { zs with dst := .v 8, sa := .v 8, sb := .v 8 } [fun f => { f with dst := .lit }, fun f => { f with sa := .lit }, fun f => { f with sb := .lit }] = true ∧
    refusesS .vmaxShort { zs with dst := .v 8, sa := .v 8, sb := .v 8 } [fun f => { f with dst := .lit }, fun f => { f with sa := .lit }, fun f => { f with sb := .lit }] = true ∧
    refusesS .vabsShort { zs with dst := .v 8, sa := .v 8 } [fun f => { f with dst := .lit }, fun f => { f with sa := .lit }, fun f => { f with sb := .oneF }] = true ∧
    refusesS .vandShort { zs with dst := .v 8, sa := .v 8, sb := .v 8 } [fun f => { f with dst := .lit }, fun f => { f with sa := .lit }, fun f => { f with sb := .lit }] = true ∧
    refusesS .vorShort { zs with dst := .v 8, sa := .v 8, sb := .v 8 } [fun f => { f with dst := .lit }, fun f => { f with sa := .lit }, fun f => { f with sb := .lit }] = true ∧
    refusesS .vxorShort { zs with dst := .v 8, sa := .v 8, sb := .v 8 } [fun f => { f with dst := .lit }, fun f => { f with sa := .lit }, fun f => { f with sb := .lit }] = true ∧
    refusesS .vandnShort { zs with dst := .v 8, sa := .v 8, sb := .v 8 } [fun f => { f with dst := .lit }, fun f => { f with sa := .lit }, fun f => { f with sb := .lit }] = true ∧
    refusesS .vshlShort { zs with dst := .v 8, sa := .v 8, sb := .v 8 } [fun f => { f with dst := .lit }, fun f => { f with sa := .lit }, fun f => { f with sb := .lit }] = true ∧
    refusesS .vshrShort { zs with dst := .v 8, sa := .v 8, sb := .v 8 } [fun f => { f with dst := .lit }, fun f => { f with sa := .lit }, fun f => { f with sb := .lit }] = true := by decide

/-- Short forms. -/
theorem test_wf_short_1 :
    refusesS .vsarShort { zs with dst := .v 8, sa := .v 8, sb := .v 8 } [fun f => { f with dst := .lit }, fun f => { f with sa := .lit }, fun f => { f with sb := .lit }] = true ∧
    refusesS .vrolShort { zs with dst := .v 8, sa := .v 8, sb := .v 8 } [fun f => { f with dst := .lit }, fun f => { f with sa := .lit }, fun f => { f with sb := .lit }] = true ∧
    refusesS .vpopcShort { zs with dst := .v 8, sa := .v 8 } [fun f => { f with dst := .lit }, fun f => { f with sa := .lit }, fun f => { f with sb := .oneF }] = true ∧
    refusesS .vclzShort { zs with dst := .v 8, sa := .v 8 } [fun f => { f with dst := .lit }, fun f => { f with sa := .lit }, fun f => { f with sb := .oneF }] = true ∧
    refusesS .vbrevShort { zs with dst := .v 8, sa := .v 8 } [fun f => { f with dst := .lit }, fun f => { f with sa := .lit }, fun f => { f with sb := .oneF }] = true ∧
    refusesS .vmovShort { zs with dst := .v 8, sa := .v 8 } [fun f => { f with dst := .lit }, fun f => { f with sa := .lit }, fun f => { f with sb := .oneF }] = true ∧
    refusesS .faddShort { zs with dst := .v 8, sa := .v 8, sb := .v 8 } [fun f => { f with dst := .lit }, fun f => { f with sa := .lit }, fun f => { f with sb := .lit }] = true ∧
    refusesS .fsubShort { zs with dst := .v 8, sa := .v 8, sb := .v 8 } [fun f => { f with dst := .lit }, fun f => { f with sa := .lit }, fun f => { f with sb := .lit }] = true ∧
    refusesS .fmulShort { zs with dst := .v 8, sa := .v 8, sb := .v 8 } [fun f => { f with dst := .lit }, fun f => { f with sa := .lit }, fun f => { f with sb := .lit }] = true ∧
    refusesS .fminShort { zs with dst := .v 8, sa := .v 8, sb := .v 8 } [fun f => { f with dst := .lit }, fun f => { f with sa := .lit }, fun f => { f with sb := .lit }] = true ∧
    refusesS .fmaxShort { zs with dst := .v 8, sa := .v 8, sb := .v 8 } [fun f => { f with dst := .lit }, fun f => { f with sa := .lit }, fun f => { f with sb := .lit }] = true ∧
    refusesS .frcpShort { zs with dst := .v 8, sa := .v 8 } [fun f => { f with dst := .lit }, fun f => { f with sa := .lit }, fun f => { f with sb := .oneF }] = true ∧
    refusesS .frsqShort { zs with dst := .v 8, sa := .v 8 } [fun f => { f with dst := .lit }, fun f => { f with sa := .lit }, fun f => { f with sb := .oneF }] = true ∧
    refusesS .fsqrtShort { zs with dst := .v 8, sa := .v 8 } [fun f => { f with dst := .lit }, fun f => { f with sa := .lit }, fun f => { f with sb := .oneF }] = true ∧
    refusesS .fexp2Short { zs with dst := .v 8, sa := .v 8 } [fun f => { f with dst := .lit }, fun f => { f with sa := .lit }, fun f => { f with sb := .oneF }] = true ∧
    refusesS .flog2Short { zs with dst := .v 8, sa := .v 8 } [fun f => { f with dst := .lit }, fun f => { f with sa := .lit }, fun f => { f with sb := .oneF }] = true ∧
    refusesS .fsinShort { zs with dst := .v 8, sa := .v 8 } [fun f => { f with dst := .lit }, fun f => { f with sa := .lit }, fun f => { f with sb := .oneF }] = true ∧
    refusesS .fcosShort { zs with dst := .v 8, sa := .v 8 } [fun f => { f with dst := .lit }, fun f => { f with sa := .lit }, fun f => { f with sb := .oneF }] = true ∧
    refusesS .ftanhShort { zs with dst := .v 8, sa := .v 8 } [fun f => { f with dst := .lit }, fun f => { f with sa := .lit }, fun f => { f with sb := .oneF }] = true ∧
    refusesS .frintShort { zs with dst := .v 8, sa := .v 8 } [fun f => { f with dst := .lit }, fun f => { f with sa := .lit }, fun f => { f with sb := .oneF }] = true ∧
    refusesS .shflShort { zs with dst := .v 8, sa := .v 8, sb := .v 8 } [fun f => { f with dst := .lit }, fun f => { f with sa := .lit }, fun f => { f with sb := .lit }] = true ∧
    refusesS .bcastShort { zs with dst := .v 8, sa := .v 8, sb := .v 8 } [fun f => { f with dst := .lit }, fun f => { f with sa := .lit }, fun f => { f with sb := .lit }] = true ∧
    refusesS .ballotShort { zs with dst := .s 8, sa := .v 8 } [fun f => { f with dst := .lit }, fun f => { f with sa := .oneF }, fun f => { f with sb := .oneF }] = true ∧
    refusesS .vanyShort { zs with dst := .s 8, sa := .v 8 } [fun f => { f with dst := .lit }, fun f => { f with sa := .oneF }, fun f => { f with sb := .oneF }] = true ∧
    refusesS .vallShort { zs with dst := .s 8, sa := .v 8 } [fun f => { f with dst := .lit }, fun f => { f with sa := .oneF }, fun f => { f with sb := .oneF }] = true := by decide

/-- Long forms of the group sequencer. -/
theorem test_wf_sequencer_0 :
    refuses .nop zf [fun f => { f with dst := .lit }, fun f => { f with sa := .oneF }, fun f => { f with sb := .oneF }, fun f => { f with sc := .oneF }, fun f => { f with ext := 30 }, fun f => { f with guard := { inv := false, idx := 5 } }, fun f => { f with ty := .ds8 }, fun f => { f with rnd := .sr }, fun f => { f with mod := 31 }, fun f => { f with lit := some 9 }] = true ∧
    refuses .setmode { zf with sa := .s 8, sb := .s 8 } [fun f => { f with dst := .lit }, fun f => { f with sa := .oneF }, fun f => { f with sb := .oneF }, fun f => { f with sc := .oneF }, fun f => { f with ext := 30 }, fun f => { f with guard := { inv := false, idx := 5 } }, fun f => { f with ty := .ds8 }, fun f => { f with rnd := .sr }, fun f => { f with mod := 31 }, fun f => { f with lit := some 9 }] = true ∧
    refuses .getmode { zf with dst := .s 8 } [fun f => { f with dst := .lit }, fun f => { f with sa := .oneF }, fun f => { f with sb := .oneF }, fun f => { f with sc := .oneF }, fun f => { f with ext := 30 }, fun f => { f with guard := { inv := false, idx := 5 } }, fun f => { f with ty := .ds8 }, fun f => { f with rnd := .sr }, fun f => { f with mod := 31 }, fun f => { f with lit := some 9 }] = true ∧
    refuses .bra { zf with lit := some 8 } [fun f => { f with dst := .lit }, fun f => { f with sa := .oneF }, fun f => { f with sb := .oneF }, fun f => { f with sc := .oneF }, fun f => { f with ext := 30 }, fun f => { f with guard := { inv := false, idx := 5 } }, fun f => { f with ty := .ds8 }, fun f => { f with rnd := .sr }, fun f => { f with mod := 31 }, fun f => { f with lit := some 9 }] = true ∧
    refuses .bral { zf with dst := .s 8, lit := some 8 } [fun f => { f with dst := .lit }, fun f => { f with sa := .oneF }, fun f => { f with sb := .oneF }, fun f => { f with sc := .oneF }, fun f => { f with ext := 30 }, fun f => { f with guard := { inv := false, idx := 5 } }, fun f => { f with ty := .ds8 }, fun f => { f with rnd := .sr }, fun f => { f with mod := 31 }, fun f => { f with lit := some 9 }] = true ∧
    refuses .jmp { zf with sa := .s 8 } [fun f => { f with dst := .lit }, fun f => { f with sa := .oneF }, fun f => { f with sb := .oneF }, fun f => { f with sc := .oneF }, fun f => { f with ext := 30 }, fun f => { f with guard := { inv := false, idx := 5 } }, fun f => { f with ty := .ds8 }, fun f => { f with rnd := .sr }, fun f => { f with mod := 31 }, fun f => { f with lit := some 9 }] = true ∧
    refuses .jmpl { zf with dst := .s 8, sa := .s 8 } [fun f => { f with dst := .lit }, fun f => { f with sa := .oneF }, fun f => { f with sb := .oneF }, fun f => { f with sc := .oneF }, fun f => { f with ext := 30 }, fun f => { f with guard := { inv := false, idx := 5 } }, fun f => { f with ty := .ds8 }, fun f => { f with rnd := .sr }, fun f => { f with mod := 31 }, fun f => { f with lit := some 9 }] = true ∧
    refuses .ret { zf with sa := .s 8 } [fun f => { f with dst := .lit }, fun f => { f with sa := .oneF }, fun f => { f with sb := .oneF }, fun f => { f with sc := .oneF }, fun f => { f with ext := 30 }, fun f => { f with guard := { inv := false, idx := 5 } }, fun f => { f with ty := .ds8 }, fun f => { f with rnd := .sr }, fun f => { f with mod := 31 }, fun f => { f with lit := some 9 }] = true ∧
    refuses .brzm { zf with sa := .s 8, lit := some 8 } [fun f => { f with dst := .lit }, fun f => { f with sa := .oneF }, fun f => { f with sb := .oneF }, fun f => { f with sc := .oneF }, fun f => { f with ext := 30 }, fun f => { f with guard := { inv := false, idx := 5 } }, fun f => { f with ty := .ds8 }, fun f => { f with rnd := .sr }, fun f => { f with mod := 31 }, fun f => { f with lit := some 9 }] = true ∧
    refuses .brnzm { zf with sa := .s 8, lit := some 8 } [fun f => { f with dst := .lit }, fun f => { f with sa := .oneF }, fun f => { f with sb := .oneF }, fun f => { f with sc := .oneF }, fun f => { f with ext := 30 }, fun f => { f with guard := { inv := false, idx := 5 } }, fun f => { f with ty := .ds8 }, fun f => { f with rnd := .sr }, fun f => { f with mod := 31 }, fun f => { f with lit := some 9 }] = true ∧
    refuses .brallm { zf with sa := .s 8, lit := some 8 } [fun f => { f with dst := .lit }, fun f => { f with sa := .oneF }, fun f => { f with sb := .oneF }, fun f => { f with sc := .oneF }, fun f => { f with ext := 30 }, fun f => { f with guard := { inv := false, idx := 5 } }, fun f => { f with ty := .ds8 }, fun f => { f with rnd := .sr }, fun f => { f with mod := 31 }, fun f => { f with lit := some 9 }] = true ∧
    refuses .loop { zf with dst := .s 8, lit := some 8 } [fun f => { f with dst := .lit }, fun f => { f with sa := .oneF }, fun f => { f with sb := .oneF }, fun f => { f with sc := .oneF }, fun f => { f with ext := 30 }, fun f => { f with guard := { inv := false, idx := 5 } }, fun f => { f with ty := .ds8 }, fun f => { f with rnd := .sr }, fun f => { f with mod := 31 }, fun f => { f with lit := some 9 }] = true ∧
    refuses .exit zf [fun f => { f with dst := .lit }, fun f => { f with sa := .oneF }, fun f => { f with sb := .oneF }, fun f => { f with sc := .oneF }, fun f => { f with ext := 30 }, fun f => { f with guard := { inv := false, idx := 5 } }, fun f => { f with ty := .ds8 }, fun f => { f with rnd := .sr }, fun f => { f with mod := 31 }, fun f => { f with lit := some 9 }] = true := by decide

/-- Long forms of the group sequencer. -/
theorem test_wf_sequencer_1 :
    refuses .split { zf with dst := .s 8 } [fun f => { f with dst := .lit }, fun f => { f with sa := .oneF }, fun f => { f with sb := .oneF }, fun f => { f with sc := .oneF }, fun f => { f with ext := 30 }, fun f => { f with guard := { inv := false, idx := 5 } }, fun f => { f with ty := .ds8 }, fun f => { f with rnd := .sr }, fun f => { f with mod := 31 }, fun f => { f with lit := some 9 }] = true ∧
    refuses .splitm { zf with dst := .s 8, sa := .s 8 } [fun f => { f with dst := .lit }, fun f => { f with sa := .oneF }, fun f => { f with sb := .oneF }, fun f => { f with sc := .oneF }, fun f => { f with ext := 30 }, fun f => { f with guard := { inv := false, idx := 5 } }, fun f => { f with ty := .ds8 }, fun f => { f with rnd := .sr }, fun f => { f with mod := 31 }, fun f => { f with lit := some 9 }] = true ∧
    refuses .fuse { zf with dst := .s 8, sa := .s 8 } [fun f => { f with dst := .lit }, fun f => { f with sa := .oneF }, fun f => { f with sb := .oneF }, fun f => { f with sc := .oneF }, fun f => { f with ext := 30 }, fun f => { f with guard := { inv := false, idx := 5 } }, fun f => { f with ty := .ds8 }, fun f => { f with rnd := .sr }, fun f => { f with mod := 31 }, fun f => { f with lit := some 9 }] = true ∧
    refuses .setpri { zf with sa := .s 8 } [fun f => { f with dst := .lit }, fun f => { f with sa := .oneF }, fun f => { f with sb := .oneF }, fun f => { f with sc := .oneF }, fun f => { f with ext := 30 }, fun f => { f with guard := { inv := false, idx := 5 } }, fun f => { f with ty := .ds8 }, fun f => { f with rnd := .sr }, fun f => { f with mod := 31 }, fun f => { f with lit := some 9 }] = true ∧
    refuses .yield zf [fun f => { f with dst := .lit }, fun f => { f with sa := .oneF }, fun f => { f with sb := .oneF }, fun f => { f with sc := .oneF }, fun f => { f with ext := 30 }, fun f => { f with guard := { inv := false, idx := 5 } }, fun f => { f with ty := .ds8 }, fun f => { f with rnd := .sr }, fun f => { f with mod := 31 }, fun f => { f with lit := some 9 }] = true ∧
    refuses .sleep { zf with sa := .s 8 } [fun f => { f with dst := .lit }, fun f => { f with sa := .oneF }, fun f => { f with sb := .oneF }, fun f => { f with sc := .oneF }, fun f => { f with ext := 30 }, fun f => { f with guard := { inv := false, idx := 5 } }, fun f => { f with ty := .ds8 }, fun f => { f with rnd := .sr }, fun f => { f with mod := 31 }, fun f => { f with lit := some 9 }] = true ∧
    refuses .getid { zf with dst := .s 8 } [fun f => { f with dst := .lit }, fun f => { f with sa := .oneF }, fun f => { f with sb := .oneF }, fun f => { f with sc := .oneF }, fun f => { f with ext := 30 }, fun f => { f with guard := { inv := false, idx := 5 } }, fun f => { f with ty := .ds8 }, fun f => { f with rnd := .sr }, fun f => { f with mod := 31 }, fun f => { f with lit := some 9 }] = true := by decide

/-- Long forms of the group scalar. -/
theorem test_wf_scalar_0 :
    refuses .sadd { zf with dst := .s 8, sa := .s 8, sb := .s 8 } [fun f => { f with dst := .lit }, fun f => { f with sa := .oneF }, fun f => { f with sb := .oneF }, fun f => { f with sc := .oneF }, fun f => { f with ext := 30 }, fun f => { f with guard := { inv := false, idx := 5 } }, fun f => { f with ty := .ds8 }, fun f => { f with rnd := .sr }, fun f => { f with mod := 31 }, fun f => { f with lit := some 9 }] = true ∧
    refuses .ssub { zf with dst := .s 8, sa := .s 8, sb := .s 8 } [fun f => { f with dst := .lit }, fun f => { f with sa := .oneF }, fun f => { f with sb := .oneF }, fun f => { f with sc := .oneF }, fun f => { f with ext := 30 }, fun f => { f with guard := { inv := false, idx := 5 } }, fun f => { f with ty := .ds8 }, fun f => { f with rnd := .sr }, fun f => { f with mod := 31 }, fun f => { f with lit := some 9 }] = true ∧
    refuses .smul { zf with dst := .s 8, sa := .s 8, sb := .s 8 } [fun f => { f with dst := .lit }, fun f => { f with sa := .oneF }, fun f => { f with sb := .oneF }, fun f => { f with sc := .oneF }, fun f => { f with ext := 30 }, fun f => { f with guard := { inv := false, idx := 5 } }, fun f => { f with ty := .ds8 }, fun f => { f with rnd := .sr }, fun f => { f with mod := 31 }, fun f => { f with lit := some 9 }] = true ∧
    refuses .smulh { zf with dst := .s 8, sa := .s 8, sb := .s 8 } [fun f => { f with dst := .lit }, fun f => { f with sa := .oneF }, fun f => { f with sb := .oneF }, fun f => { f with sc := .oneF }, fun f => { f with ext := 30 }, fun f => { f with guard := { inv := false, idx := 5 } }, fun f => { f with ty := .ds8 }, fun f => { f with rnd := .sr }, fun f => { f with mod := 31 }, fun f => { f with lit := some 9 }] = true ∧
    refuses .sdiv { zf with dst := .s 8, sa := .s 8, sb := .s 8 } [fun f => { f with dst := .lit }, fun f => { f with sa := .oneF }, fun f => { f with sb := .oneF }, fun f => { f with sc := .oneF }, fun f => { f with ext := 30 }, fun f => { f with guard := { inv := false, idx := 5 } }, fun f => { f with ty := .ds8 }, fun f => { f with rnd := .sr }, fun f => { f with mod := 31 }, fun f => { f with lit := some 9 }] = true ∧
    refuses .srem { zf with dst := .s 8, sa := .s 8, sb := .s 8 } [fun f => { f with dst := .lit }, fun f => { f with sa := .oneF }, fun f => { f with sb := .oneF }, fun f => { f with sc := .oneF }, fun f => { f with ext := 30 }, fun f => { f with guard := { inv := false, idx := 5 } }, fun f => { f with ty := .ds8 }, fun f => { f with rnd := .sr }, fun f => { f with mod := 31 }, fun f => { f with lit := some 9 }] = true ∧
    refuses .smin { zf with dst := .s 8, sa := .s 8, sb := .s 8 } [fun f => { f with dst := .lit }, fun f => { f with sa := .oneF }, fun f => { f with sb := .oneF }, fun f => { f with sc := .oneF }, fun f => { f with ext := 30 }, fun f => { f with guard := { inv := false, idx := 5 } }, fun f => { f with ty := .ds8 }, fun f => { f with rnd := .sr }, fun f => { f with mod := 31 }, fun f => { f with lit := some 9 }] = true ∧
    refuses .smax { zf with dst := .s 8, sa := .s 8, sb := .s 8 } [fun f => { f with dst := .lit }, fun f => { f with sa := .oneF }, fun f => { f with sb := .oneF }, fun f => { f with sc := .oneF }, fun f => { f with ext := 30 }, fun f => { f with guard := { inv := false, idx := 5 } }, fun f => { f with ty := .ds8 }, fun f => { f with rnd := .sr }, fun f => { f with mod := 31 }, fun f => { f with lit := some 9 }] = true ∧
    refuses .sand { zf with dst := .s 8, sa := .s 8, sb := .s 8 } [fun f => { f with dst := .lit }, fun f => { f with sa := .oneF }, fun f => { f with sb := .oneF }, fun f => { f with sc := .oneF }, fun f => { f with ext := 30 }, fun f => { f with guard := { inv := false, idx := 5 } }, fun f => { f with ty := .ds8 }, fun f => { f with rnd := .sr }, fun f => { f with mod := 31 }, fun f => { f with lit := some 9 }] = true ∧
    refuses .sor { zf with dst := .s 8, sa := .s 8, sb := .s 8 } [fun f => { f with dst := .lit }, fun f => { f with sa := .oneF }, fun f => { f with sb := .oneF }, fun f => { f with sc := .oneF }, fun f => { f with ext := 30 }, fun f => { f with guard := { inv := false, idx := 5 } }, fun f => { f with ty := .ds8 }, fun f => { f with rnd := .sr }, fun f => { f with mod := 31 }, fun f => { f with lit := some 9 }] = true ∧
    refuses .sxor { zf with dst := .s 8, sa := .s 8, sb := .s 8 } [fun f => { f with dst := .lit }, fun f => { f with sa := .oneF }, fun f => { f with sb := .oneF }, fun f => { f with sc := .oneF }, fun f => { f with ext := 30 }, fun f => { f with guard := { inv := false, idx := 5 } }, fun f => { f with ty := .ds8 }, fun f => { f with rnd := .sr }, fun f => { f with mod := 31 }, fun f => { f with lit := some 9 }] = true ∧
    refuses .sandn { zf with dst := .s 8, sa := .s 8, sb := .s 8 } [fun f => { f with dst := .lit }, fun f => { f with sa := .oneF }, fun f => { f with sb := .oneF }, fun f => { f with sc := .oneF }, fun f => { f with ext := 30 }, fun f => { f with guard := { inv := false, idx := 5 } }, fun f => { f with ty := .ds8 }, fun f => { f with rnd := .sr }, fun f => { f with mod := 31 }, fun f => { f with lit := some 9 }] = true ∧
    refuses .sshl { zf with dst := .s 8, sa := .s 8, sb := .s 8 } [fun f => { f with dst := .lit }, fun f => { f with sa := .oneF }, fun f => { f with sb := .oneF }, fun f => { f with sc := .oneF }, fun f => { f with ext := 30 }, fun f => { f with guard := { inv := false, idx := 5 } }, fun f => { f with ty := .ds8 }, fun f => { f with rnd := .sr }, fun f => { f with mod := 31 }, fun f => { f with lit := some 9 }] = true := by decide

/-- Long forms of the group scalar. -/
theorem test_wf_scalar_1 :
    refuses .sshr { zf with dst := .s 8, sa := .s 8, sb := .s 8 } [fun f => { f with dst := .lit }, fun f => { f with sa := .oneF }, fun f => { f with sb := .oneF }, fun f => { f with sc := .oneF }, fun f => { f with ext := 30 }, fun f => { f with guard := { inv := false, idx := 5 } }, fun f => { f with ty := .ds8 }, fun f => { f with rnd := .sr }, fun f => { f with mod := 31 }, fun f => { f with lit := some 9 }] = true ∧
    refuses .ssar { zf with dst := .s 8, sa := .s 8, sb := .s 8 } [fun f => { f with dst := .lit }, fun f => { f with sa := .oneF }, fun f => { f with sb := .oneF }, fun f => { f with sc := .oneF }, fun f => { f with ext := 30 }, fun f => { f with guard := { inv := false, idx := 5 } }, fun f => { f with ty := .ds8 }, fun f => { f with rnd := .sr }, fun f => { f with mod := 31 }, fun f => { f with lit := some 9 }] = true ∧
    refuses .smov { zf with dst := .s 8, sa := .s 8 } [fun f => { f with dst := .lit }, fun f => { f with sa := .oneF }, fun f => { f with sb := .oneF }, fun f => { f with sc := .oneF }, fun f => { f with ext := 30 }, fun f => { f with guard := { inv := false, idx := 5 } }, fun f => { f with ty := .ds8 }, fun f => { f with rnd := .sr }, fun f => { f with mod := 31 }, fun f => { f with lit := some 9 }] = true ∧
    refuses .sli { zf with dst := .s 8, sa := .s 8 } [fun f => { f with dst := .lit }, fun f => { f with sa := .oneF }, fun f => { f with sb := .oneF }, fun f => { f with sc := .oneF }, fun f => { f with ext := 30 }, fun f => { f with guard := { inv := false, idx := 5 } }, fun f => { f with ty := .ds8 }, fun f => { f with rnd := .sr }, fun f => { f with mod := 31 }, fun f => { f with lit := some 9 }] = true ∧
    refuses .scmp { zf with dst := .s 8, sa := .s 8, sb := .s 8 } [fun f => { f with dst := .lit }, fun f => { f with sa := .oneF }, fun f => { f with sb := .oneF }, fun f => { f with sc := .oneF }, fun f => { f with ext := 30 }, fun f => { f with guard := { inv := false, idx := 5 } }, fun f => { f with ty := .ds8 }, fun f => { f with rnd := .sr }, fun f => { f with mod := 31 }, fun f => { f with lit := some 9 }] = true ∧
    refuses .ssel { zf with dst := .s 8, sa := .s 8, sb := .s 8, sc := .s 8 } [fun f => { f with dst := .lit }, fun f => { f with sa := .oneF }, fun f => { f with sb := .oneF }, fun f => { f with sc := .oneF }, fun f => { f with ext := 30 }, fun f => { f with guard := { inv := false, idx := 5 } }, fun f => { f with ty := .ds8 }, fun f => { f with rnd := .sr }, fun f => { f with mod := 31 }, fun f => { f with lit := some 9 }] = true ∧
    refuses .spopc { zf with dst := .s 8, sa := .s 8 } [fun f => { f with dst := .lit }, fun f => { f with sa := .oneF }, fun f => { f with sb := .oneF }, fun f => { f with sc := .oneF }, fun f => { f with ext := 30 }, fun f => { f with guard := { inv := false, idx := 5 } }, fun f => { f with ty := .ds8 }, fun f => { f with rnd := .sr }, fun f => { f with mod := 31 }, fun f => { f with lit := some 9 }] = true ∧
    refuses .sclz { zf with dst := .s 8, sa := .s 8 } [fun f => { f with dst := .lit }, fun f => { f with sa := .oneF }, fun f => { f with sb := .oneF }, fun f => { f with sc := .oneF }, fun f => { f with ext := 30 }, fun f => { f with guard := { inv := false, idx := 5 } }, fun f => { f with ty := .ds8 }, fun f => { f with rnd := .sr }, fun f => { f with mod := 31 }, fun f => { f with lit := some 9 }] = true ∧
    refuses .sctz { zf with dst := .s 8, sa := .s 8 } [fun f => { f with dst := .lit }, fun f => { f with sa := .oneF }, fun f => { f with sb := .oneF }, fun f => { f with sc := .oneF }, fun f => { f with ext := 30 }, fun f => { f with guard := { inv := false, idx := 5 } }, fun f => { f with ty := .ds8 }, fun f => { f with rnd := .sr }, fun f => { f with mod := 31 }, fun f => { f with lit := some 9 }] = true ∧
    refuses .sffs { zf with dst := .s 8, sa := .s 8, sb := .s 8 } [fun f => { f with dst := .lit }, fun f => { f with sa := .oneF }, fun f => { f with sb := .oneF }, fun f => { f with sc := .oneF }, fun f => { f with ext := 30 }, fun f => { f with guard := { inv := false, idx := 5 } }, fun f => { f with ty := .ds8 }, fun f => { f with rnd := .sr }, fun f => { f with mod := 31 }, fun f => { f with lit := some 9 }] = true ∧
    refuses .sbfx { zf with dst := .s 8, sa := .s 8, sb := .s 8, sc := .s 8 } [fun f => { f with dst := .lit }, fun f => { f with sa := .oneF }, fun f => { f with sb := .oneF }, fun f => { f with sc := .oneF }, fun f => { f with ext := 30 }, fun f => { f with guard := { inv := false, idx := 5 } }, fun f => { f with ty := .ds8 }, fun f => { f with rnd := .sr }, fun f => { f with mod := 31 }, fun f => { f with lit := some 9 }] = true ∧
    refuses .sbfi { zf with dst := .s 8, sa := .s 8, sb := .s 8, sc := .s 8 } [fun f => { f with dst := .lit }, fun f => { f with sa := .oneF }, fun f => { f with sb := .oneF }, fun f => { f with sc := .oneF }, fun f => { f with ext := 30 }, fun f => { f with guard := { inv := false, idx := 5 } }, fun f => { f with ty := .ds8 }, fun f => { f with rnd := .sr }, fun f => { f with mod := 31 }, fun f => { f with lit := some 9 }] = true := by decide

/-- Long forms of the group vector integer. -/
theorem test_wf_vector_integer_0 :
    refuses .vadd { zf with dst := .v 8, sa := .v 8, sb := .v 8, ty := .n32 } [fun f => { f with dst := .lit }, fun f => { f with sa := .oneF }, fun f => { f with sb := .oneF }, fun f => { f with sc := .oneF }, fun f => { f with ext := 30 }, fun f => { f with guard := { inv := true, idx := 0 } }, fun f => { f with ty := .ds8 }, fun f => { f with rnd := .sr }, fun f => { f with mod := 31 }, fun f => { f with lit := some 9 }] = true ∧
    refuses .vsub { zf with dst := .v 8, sa := .v 8, sb := .v 8, ty := .n32 } [fun f => { f with dst := .lit }, fun f => { f with sa := .oneF }, fun f => { f with sb := .oneF }, fun f => { f with sc := .oneF }, fun f => { f with ext := 30 }, fun f => { f with guard := { inv := true, idx := 0 } }, fun f => { f with ty := .ds8 }, fun f => { f with rnd := .sr }, fun f => { f with mod := 31 }, fun f => { f with lit := some 9 }] = true ∧
    refuses .vmul { zf with dst := .v 8, sa := .v 8, sb := .v 8, ty := .n32 } [fun f => { f with dst := .lit }, fun f => { f with sa := .oneF }, fun f => { f with sb := .oneF }, fun f => { f with sc := .oneF }, fun f => { f with ext := 30 }, fun f => { f with guard := { inv := true, idx := 0 } }, fun f => { f with ty := .ds8 }, fun f => { f with rnd := .sr }, fun f => { f with mod := 31 }, fun f => { f with lit := some 9 }] = true ∧
    refuses .vmulh { zf with dst := .v 8, sa := .v 8, sb := .v 8, ty := .n32 } [fun f => { f with dst := .lit }, fun f => { f with sa := .oneF }, fun f => { f with sb := .oneF }, fun f => { f with sc := .oneF }, fun f => { f with ext := 30 }, fun f => { f with guard := { inv := true, idx := 0 } }, fun f => { f with ty := .ds8 }, fun f => { f with rnd := .sr }, fun f => { f with mod := 31 }, fun f => { f with lit := some 9 }] = true ∧
    refuses .vmad { zf with dst := .v 8, sa := .v 8, sb := .v 8, sc := .v 8, ty := .n32 } [fun f => { f with dst := .lit }, fun f => { f with sa := .oneF }, fun f => { f with sb := .oneF }, fun f => { f with sc := .oneF }, fun f => { f with ext := 30 }, fun f => { f with guard := { inv := true, idx := 0 } }, fun f => { f with ty := .ds8 }, fun f => { f with rnd := .sr }, fun f => { f with mod := 31 }, fun f => { f with lit := some 9 }] = true ∧
    refuses .vmin { zf with dst := .v 8, sa := .v 8, sb := .v 8, ty := .n32 } [fun f => { f with dst := .lit }, fun f => { f with sa := .oneF }, fun f => { f with sb := .oneF }, fun f => { f with sc := .oneF }, fun f => { f with ext := 30 }, fun f => { f with guard := { inv := true, idx := 0 } }, fun f => { f with ty := .ds8 }, fun f => { f with rnd := .sr }, fun f => { f with mod := 31 }, fun f => { f with lit := some 9 }] = true ∧
    refuses .vmax { zf with dst := .v 8, sa := .v 8, sb := .v 8, ty := .n32 } [fun f => { f with dst := .lit }, fun f => { f with sa := .oneF }, fun f => { f with sb := .oneF }, fun f => { f with sc := .oneF }, fun f => { f with ext := 30 }, fun f => { f with guard := { inv := true, idx := 0 } }, fun f => { f with ty := .ds8 }, fun f => { f with rnd := .sr }, fun f => { f with mod := 31 }, fun f => { f with lit := some 9 }] = true ∧
    refuses .vabs { zf with dst := .v 8, sa := .v 8 } [fun f => { f with dst := .lit }, fun f => { f with sa := .oneF }, fun f => { f with sb := .oneF }, fun f => { f with sc := .oneF }, fun f => { f with ext := 30 }, fun f => { f with guard := { inv := true, idx := 0 } }, fun f => { f with ty := .ds8 }, fun f => { f with rnd := .sr }, fun f => { f with mod := 31 }, fun f => { f with lit := some 9 }] = true ∧
    refuses .vand { zf with dst := .v 8, sa := .v 8, sb := .v 8, ty := .i64 } [fun f => { f with dst := .lit }, fun f => { f with sa := .oneF }, fun f => { f with sb := .oneF }, fun f => { f with sc := .oneF }, fun f => { f with ext := 30 }, fun f => { f with guard := { inv := true, idx := 0 } }, fun f => { f with ty := .ds8 }, fun f => { f with rnd := .sr }, fun f => { f with mod := 31 }, fun f => { f with lit := some 9 }] = true ∧
    refuses .vor { zf with dst := .v 8, sa := .v 8, sb := .v 8, ty := .i64 } [fun f => { f with dst := .lit }, fun f => { f with sa := .oneF }, fun f => { f with sb := .oneF }, fun f => { f with sc := .oneF }, fun f => { f with ext := 30 }, fun f => { f with guard := { inv := true, idx := 0 } }, fun f => { f with ty := .ds8 }, fun f => { f with rnd := .sr }, fun f => { f with mod := 31 }, fun f => { f with lit := some 9 }] = true ∧
    refuses .vxor { zf with dst := .v 8, sa := .v 8, sb := .v 8, ty := .i64 } [fun f => { f with dst := .lit }, fun f => { f with sa := .oneF }, fun f => { f with sb := .oneF }, fun f => { f with sc := .oneF }, fun f => { f with ext := 30 }, fun f => { f with guard := { inv := true, idx := 0 } }, fun f => { f with ty := .ds8 }, fun f => { f with rnd := .sr }, fun f => { f with mod := 31 }, fun f => { f with lit := some 9 }] = true ∧
    refuses .vandn { zf with dst := .v 8, sa := .v 8, sb := .v 8, ty := .i64 } [fun f => { f with dst := .lit }, fun f => { f with sa := .oneF }, fun f => { f with sb := .oneF }, fun f => { f with sc := .oneF }, fun f => { f with ext := 30 }, fun f => { f with guard := { inv := true, idx := 0 } }, fun f => { f with ty := .ds8 }, fun f => { f with rnd := .sr }, fun f => { f with mod := 31 }, fun f => { f with lit := some 9 }] = true ∧
    refuses .vshl { zf with dst := .v 8, sa := .v 8, sb := .v 8, ty := .n32 } [fun f => { f with dst := .lit }, fun f => { f with sa := .oneF }, fun f => { f with sb := .oneF }, fun f => { f with sc := .oneF }, fun f => { f with ext := 30 }, fun f => { f with guard := { inv := true, idx := 0 } }, fun f => { f with ty := .ds8 }, fun f => { f with rnd := .sr }, fun f => { f with mod := 31 }, fun f => { f with lit := some 9 }] = true := by decide

/-- Long forms of the group vector integer. -/
theorem test_wf_vector_integer_1 :
    refuses .vshr { zf with dst := .v 8, sa := .v 8, sb := .v 8, ty := .n32 } [fun f => { f with dst := .lit }, fun f => { f with sa := .oneF }, fun f => { f with sb := .oneF }, fun f => { f with sc := .oneF }, fun f => { f with ext := 30 }, fun f => { f with guard := { inv := true, idx := 0 } }, fun f => { f with ty := .ds8 }, fun f => { f with rnd := .sr }, fun f => { f with mod := 31 }, fun f => { f with lit := some 9 }] = true ∧
    refuses .vsar { zf with dst := .v 8, sa := .v 8, sb := .v 8, ty := .n32 } [fun f => { f with dst := .lit }, fun f => { f with sa := .oneF }, fun f => { f with sb := .oneF }, fun f => { f with sc := .oneF }, fun f => { f with ext := 30 }, fun f => { f with guard := { inv := true, idx := 0 } }, fun f => { f with ty := .ds8 }, fun f => { f with rnd := .sr }, fun f => { f with mod := 31 }, fun f => { f with lit := some 9 }] = true ∧
    refuses .vrol { zf with dst := .v 8, sa := .v 8, sb := .v 8, ty := .n32 } [fun f => { f with dst := .lit }, fun f => { f with sa := .oneF }, fun f => { f with sb := .oneF }, fun f => { f with sc := .oneF }, fun f => { f with ext := 30 }, fun f => { f with guard := { inv := true, idx := 0 } }, fun f => { f with ty := .ds8 }, fun f => { f with rnd := .sr }, fun f => { f with mod := 31 }, fun f => { f with lit := some 9 }] = true ∧
    refuses .vbfx { zf with dst := .v 8, sa := .v 8, sb := .v 8, sc := .v 8, ty := .n32 } [fun f => { f with dst := .lit }, fun f => { f with sa := .oneF }, fun f => { f with sb := .oneF }, fun f => { f with sc := .oneF }, fun f => { f with ext := 30 }, fun f => { f with guard := { inv := true, idx := 0 } }, fun f => { f with ty := .ds8 }, fun f => { f with rnd := .sr }, fun f => { f with mod := 31 }, fun f => { f with lit := some 9 }] = true ∧
    refuses .vbfi { zf with dst := .v 8, sa := .v 8, sb := .v 8, sc := .v 8, ty := .n32 } [fun f => { f with dst := .lit }, fun f => { f with sa := .oneF }, fun f => { f with sb := .oneF }, fun f => { f with sc := .oneF }, fun f => { f with ext := 30 }, fun f => { f with guard := { inv := true, idx := 0 } }, fun f => { f with ty := .ds8 }, fun f => { f with rnd := .sr }, fun f => { f with mod := 31 }, fun f => { f with lit := some 9 }] = true ∧
    refuses .vpopc { zf with dst := .v 8, sa := .v 8, ty := .n64 } [fun f => { f with dst := .lit }, fun f => { f with sa := .oneF }, fun f => { f with sb := .oneF }, fun f => { f with sc := .oneF }, fun f => { f with ext := 30 }, fun f => { f with guard := { inv := true, idx := 0 } }, fun f => { f with ty := .ds8 }, fun f => { f with rnd := .sr }, fun f => { f with mod := 31 }, fun f => { f with lit := some 9 }] = true ∧
    refuses .vclz { zf with dst := .v 8, sa := .v 8, ty := .n64 } [fun f => { f with dst := .lit }, fun f => { f with sa := .oneF }, fun f => { f with sb := .oneF }, fun f => { f with sc := .oneF }, fun f => { f with ext := 30 }, fun f => { f with guard := { inv := true, idx := 0 } }, fun f => { f with ty := .ds8 }, fun f => { f with rnd := .sr }, fun f => { f with mod := 31 }, fun f => { f with lit := some 9 }] = true ∧
    refuses .vbrev { zf with dst := .v 8, sa := .v 8, ty := .n64 } [fun f => { f with dst := .lit }, fun f => { f with sa := .oneF }, fun f => { f with sb := .oneF }, fun f => { f with sc := .oneF }, fun f => { f with ext := 30 }, fun f => { f with guard := { inv := true, idx := 0 } }, fun f => { f with ty := .ds8 }, fun f => { f with rnd := .sr }, fun f => { f with mod := 31 }, fun f => { f with lit := some 9 }] = true ∧
    refuses .vsel { zf with dst := .v 8, sa := .v 8, sb := .v 8, sc := .s 8, ty := .f32 } [fun f => { f with dst := .lit }, fun f => { f with sa := .lit }, fun f => { f with sb := .lit }, fun f => { f with sc := .oneF }, fun f => { f with ext := 30 }, fun f => { f with guard := { inv := true, idx := 0 } }, fun f => { f with rnd := .sr }, fun f => { f with mod := 31 }, fun f => { f with lit := some 9 }] = true ∧
    refuses .vmov { zf with dst := .v 8, sa := .v 8, ty := .f32 } [fun f => { f with dst := .lit }, fun f => { f with sa := .lit }, fun f => { f with sb := .oneF }, fun f => { f with sc := .oneF }, fun f => { f with ext := 30 }, fun f => { f with guard := { inv := true, idx := 0 } }, fun f => { f with rnd := .sr }, fun f => { f with mod := 31 }, fun f => { f with lit := some 9 }] = true ∧
    refuses .vli { zf with dst := .v 8, sa := .lit, ty := .n64, lit := some 8 } [fun f => { f with dst := .lit }, fun f => { f with sa := .oneF }, fun f => { f with sb := .oneF }, fun f => { f with sc := .oneF }, fun f => { f with ext := 30 }, fun f => { f with guard := { inv := true, idx := 0 } }, fun f => { f with ty := .ds8 }, fun f => { f with rnd := .sr }, fun f => { f with mod := 31 }, fun f => { f with lit := none }] = true ∧
    refuses .vcmp { zf with dst := .s 8, sa := .v 8, sb := .v 8, ty := .n32 } [fun f => { f with dst := .lit }, fun f => { f with sa := .oneF }, fun f => { f with sb := .oneF }, fun f => { f with sc := .oneF }, fun f => { f with ext := 30 }, fun f => { f with guard := { inv := true, idx := 0 } }, fun f => { f with ty := .ds8 }, fun f => { f with rnd := .sr }, fun f => { f with mod := 31 }, fun f => { f with lit := some 9 }] = true := by decide

/-- Long forms of the group vector float. -/
theorem test_wf_vector_float_0 :
    refuses .fadd { zf with dst := .v 8, sa := .v 8, sb := .v 8, ty := .f32 } [fun f => { f with dst := .lit }, fun f => { f with sa := .lit }, fun f => { f with sb := .lit }, fun f => { f with sc := .oneF }, fun f => { f with ext := 30 }, fun f => { f with guard := { inv := true, idx := 0 } }, fun f => { f with ty := .ds8 }, fun f => { f with mod := 31 }, fun f => { f with lit := some 9 }] = true ∧
    refuses .fsub { zf with dst := .v 8, sa := .v 8, sb := .v 8, ty := .f32 } [fun f => { f with dst := .lit }, fun f => { f with sa := .lit }, fun f => { f with sb := .lit }, fun f => { f with sc := .oneF }, fun f => { f with ext := 30 }, fun f => { f with guard := { inv := true, idx := 0 } }, fun f => { f with ty := .ds8 }, fun f => { f with mod := 31 }, fun f => { f with lit := some 9 }] = true ∧
    refuses .fmul { zf with dst := .v 8, sa := .v 8, sb := .v 8, ty := .f32 } [fun f => { f with dst := .lit }, fun f => { f with sa := .lit }, fun f => { f with sb := .lit }, fun f => { f with sc := .oneF }, fun f => { f with ext := 30 }, fun f => { f with guard := { inv := true, idx := 0 } }, fun f => { f with ty := .ds8 }, fun f => { f with mod := 31 }, fun f => { f with lit := some 9 }] = true ∧
    refuses .fma { zf with dst := .v 8, sa := .v 8, sb := .v 8, sc := .v 8, ty := .f32 } [fun f => { f with dst := .lit }, fun f => { f with sa := .lit }, fun f => { f with sb := .lit }, fun f => { f with sc := .lit }, fun f => { f with ext := 30 }, fun f => { f with guard := { inv := true, idx := 0 } }, fun f => { f with ty := .ds8 }, fun f => { f with mod := 31 }, fun f => { f with lit := some 9 }] = true ∧
    refuses .fmin { zf with dst := .v 8, sa := .v 8, sb := .v 8, ty := .f32 } [fun f => { f with dst := .lit }, fun f => { f with sa := .lit }, fun f => { f with sb := .lit }, fun f => { f with sc := .oneF }, fun f => { f with ext := 30 }, fun f => { f with guard := { inv := true, idx := 0 } }, fun f => { f with ty := .ds8 }, fun f => { f with rnd := .sr }, fun f => { f with mod := 31 }, fun f => { f with lit := some 9 }] = true ∧
    refuses .fmax { zf with dst := .v 8, sa := .v 8, sb := .v 8, ty := .f32 } [fun f => { f with dst := .lit }, fun f => { f with sa := .lit }, fun f => { f with sb := .lit }, fun f => { f with sc := .oneF }, fun f => { f with ext := 30 }, fun f => { f with guard := { inv := true, idx := 0 } }, fun f => { f with ty := .ds8 }, fun f => { f with rnd := .sr }, fun f => { f with mod := 31 }, fun f => { f with lit := some 9 }] = true ∧
    refuses .fcmp { zf with dst := .s 8, sa := .v 8, sb := .v 8, ty := .f32 } [fun f => { f with dst := .lit }, fun f => { f with sa := .lit }, fun f => { f with sb := .lit }, fun f => { f with sc := .oneF }, fun f => { f with ext := 30 }, fun f => { f with guard := { inv := true, idx := 0 } }, fun f => { f with ty := .ds8 }, fun f => { f with rnd := .sr }, fun f => { f with mod := 31 }, fun f => { f with lit := some 9 }] = true ∧
    refuses .frcp { zf with dst := .v 8, sa := .v 8, ty := .f32 } [fun f => { f with dst := .lit }, fun f => { f with sa := .lit }, fun f => { f with sb := .oneF }, fun f => { f with sc := .oneF }, fun f => { f with ext := 30 }, fun f => { f with guard := { inv := true, idx := 0 } }, fun f => { f with ty := .ds8 }, fun f => { f with rnd := .sr }, fun f => { f with mod := 31 }, fun f => { f with lit := some 9 }] = true ∧
    refuses .frsq { zf with dst := .v 8, sa := .v 8, ty := .f32 } [fun f => { f with dst := .lit }, fun f => { f with sa := .lit }, fun f => { f with sb := .oneF }, fun f => { f with sc := .oneF }, fun f => { f with ext := 30 }, fun f => { f with guard := { inv := true, idx := 0 } }, fun f => { f with ty := .ds8 }, fun f => { f with rnd := .sr }, fun f => { f with mod := 31 }, fun f => { f with lit := some 9 }] = true ∧
    refuses .fsqrt { zf with dst := .v 8, sa := .v 8, ty := .f32 } [fun f => { f with dst := .lit }, fun f => { f with sa := .lit }, fun f => { f with sb := .oneF }, fun f => { f with sc := .oneF }, fun f => { f with ext := 30 }, fun f => { f with guard := { inv := true, idx := 0 } }, fun f => { f with ty := .ds8 }, fun f => { f with mod := 31 }, fun f => { f with lit := some 9 }] = true ∧
    refuses .fdiv { zf with dst := .v 8, sa := .v 8, sb := .v 8, ty := .f32 } [fun f => { f with dst := .lit }, fun f => { f with sa := .lit }, fun f => { f with sb := .lit }, fun f => { f with sc := .oneF }, fun f => { f with ext := 30 }, fun f => { f with guard := { inv := true, idx := 0 } }, fun f => { f with ty := .ds8 }, fun f => { f with mod := 31 }, fun f => { f with lit := some 9 }] = true ∧
    refuses .fexp2 { zf with dst := .v 8, sa := .v 8, ty := .f32 } [fun f => { f with dst := .lit }, fun f => { f with sa := .lit }, fun f => { f with sb := .oneF }, fun f => { f with sc := .oneF }, fun f => { f with ext := 30 }, fun f => { f with guard := { inv := true, idx := 0 } }, fun f => { f with ty := .ds8 }, fun f => { f with rnd := .sr }, fun f => { f with mod := 31 }, fun f => { f with lit := some 9 }] = true ∧
    refuses .flog2 { zf with dst := .v 8, sa := .v 8, ty := .f32 } [fun f => { f with dst := .lit }, fun f => { f with sa := .lit }, fun f => { f with sb := .oneF }, fun f => { f with sc := .oneF }, fun f => { f with ext := 30 }, fun f => { f with guard := { inv := true, idx := 0 } }, fun f => { f with ty := .ds8 }, fun f => { f with rnd := .sr }, fun f => { f with mod := 31 }, fun f => { f with lit := some 9 }] = true := by decide

/-- Long forms of the group vector float. -/
theorem test_wf_vector_float_1 :
    refuses .fsin { zf with dst := .v 8, sa := .v 8, ty := .f32 } [fun f => { f with dst := .lit }, fun f => { f with sa := .lit }, fun f => { f with sb := .oneF }, fun f => { f with sc := .oneF }, fun f => { f with ext := 30 }, fun f => { f with guard := { inv := true, idx := 0 } }, fun f => { f with ty := .ds8 }, fun f => { f with rnd := .sr }, fun f => { f with mod := 31 }, fun f => { f with lit := some 9 }] = true ∧
    refuses .fcos { zf with dst := .v 8, sa := .v 8, ty := .f32 } [fun f => { f with dst := .lit }, fun f => { f with sa := .lit }, fun f => { f with sb := .oneF }, fun f => { f with sc := .oneF }, fun f => { f with ext := 30 }, fun f => { f with guard := { inv := true, idx := 0 } }, fun f => { f with ty := .ds8 }, fun f => { f with rnd := .sr }, fun f => { f with mod := 31 }, fun f => { f with lit := some 9 }] = true ∧
    refuses .ftanh { zf with dst := .v 8, sa := .v 8, ty := .f32 } [fun f => { f with dst := .lit }, fun f => { f with sa := .lit }, fun f => { f with sb := .oneF }, fun f => { f with sc := .oneF }, fun f => { f with ext := 30 }, fun f => { f with guard := { inv := true, idx := 0 } }, fun f => { f with ty := .ds8 }, fun f => { f with rnd := .sr }, fun f => { f with mod := 31 }, fun f => { f with lit := some 9 }] = true ∧
    refuses .fclass { zf with dst := .v 8, sa := .v 8, ty := .f32 } [fun f => { f with dst := .lit }, fun f => { f with sa := .lit }, fun f => { f with sb := .oneF }, fun f => { f with sc := .oneF }, fun f => { f with ext := 30 }, fun f => { f with guard := { inv := true, idx := 0 } }, fun f => { f with ty := .ds8 }, fun f => { f with rnd := .sr }, fun f => { f with mod := 31 }, fun f => { f with lit := some 9 }] = true ∧
    refuses .fscale { zf with dst := .v 8, sa := .v 8, sb := .v 8, ty := .f32 } [fun f => { f with dst := .lit }, fun f => { f with sa := .lit }, fun f => { f with sb := .oneF }, fun f => { f with sc := .oneF }, fun f => { f with ext := 30 }, fun f => { f with guard := { inv := true, idx := 0 } }, fun f => { f with ty := .ds8 }, fun f => { f with mod := 31 }, fun f => { f with lit := some 9 }] = true ∧
    refuses .frint { zf with dst := .v 8, sa := .v 8, ty := .f32 } [fun f => { f with dst := .lit }, fun f => { f with sa := .lit }, fun f => { f with sb := .oneF }, fun f => { f with sc := .oneF }, fun f => { f with ext := 30 }, fun f => { f with guard := { inv := true, idx := 0 } }, fun f => { f with ty := .ds8 }, fun f => { f with mod := 31 }, fun f => { f with lit := some 9 }] = true := by decide

/-- Long forms of the group conversion and cross-lane. -/
theorem test_wf_conversion_cross_lane_0 :
    refuses .cvt { zf with dst := .v 8, sa := .v 8, ty := .f32 } [fun f => { f with dst := .lit }, fun f => { f with sa := .oneF }, fun f => { f with sb := .oneF }, fun f => { f with sc := .oneF }, fun f => { f with ext := 30 }, fun f => { f with guard := { inv := true, idx := 0 } }, fun f => { f with ty := .i32 }, fun f => { f with mod := 31 }, fun f => { f with lit := some 9 }] = true ∧
    refuses .pack { zf with dst := .v 8, sa := .v 8, ty := .i16 } [fun f => { f with dst := .lit }, fun f => { f with sa := .oneF }, fun f => { f with sb := .oneF }, fun f => { f with sc := .oneF }, fun f => { f with ext := 30 }, fun f => { f with guard := { inv := true, idx := 0 } }, fun f => { f with ty := .i32 }, fun f => { f with rnd := .sr }, fun f => { f with mod := 31 }, fun f => { f with lit := some 9 }] = true ∧
    refuses .unpk { zf with dst := .v 8, sa := .v 8, ext := 4, ty := .f32 } [fun f => { f with dst := .lit }, fun f => { f with sa := .oneF }, fun f => { f with sb := .oneF }, fun f => { f with sc := .oneF }, fun f => { f with ext := 30 }, fun f => { f with guard := { inv := true, idx := 0 } }, fun f => { f with ty := .ds8 }, fun f => { f with mod := 31 }, fun f => { f with lit := some 9 }] = true ∧
    refuses .srseed { zf with sa := .s 8, sb := .s 8 } [fun f => { f with dst := .lit }, fun f => { f with sa := .oneF }, fun f => { f with sb := .oneF }, fun f => { f with sc := .oneF }, fun f => { f with ext := 30 }, fun f => { f with guard := { inv := false, idx := 5 } }, fun f => { f with ty := .ds8 }, fun f => { f with rnd := .sr }, fun f => { f with mod := 31 }, fun f => { f with lit := some 9 }] = true ∧
    refuses .srget { zf with dst := .s 8 } [fun f => { f with dst := .lit }, fun f => { f with sa := .oneF }, fun f => { f with sb := .oneF }, fun f => { f with sc := .oneF }, fun f => { f with ext := 30 }, fun f => { f with guard := { inv := false, idx := 5 } }, fun f => { f with ty := .ds8 }, fun f => { f with rnd := .sr }, fun f => { f with mod := 31 }, fun f => { f with lit := some 9 }] = true ∧
    refuses .shfl { zf with dst := .v 8, sa := .v 8, sb := .v 8, ty := .f32 } [fun f => { f with dst := .lit }, fun f => { f with sa := .lit }, fun f => { f with sb := .oneF }, fun f => { f with sc := .oneF }, fun f => { f with ext := 30 }, fun f => { f with guard := { inv := true, idx := 0 } }, fun f => { f with rnd := .sr }, fun f => { f with mod := 31 }, fun f => { f with lit := some 9 }] = true ∧
    refuses .shflx { zf with dst := .v 8, sa := .v 8, sb := .v 8, ty := .f32 } [fun f => { f with dst := .lit }, fun f => { f with sa := .lit }, fun f => { f with sb := .oneF }, fun f => { f with sc := .oneF }, fun f => { f with ext := 30 }, fun f => { f with guard := { inv := true, idx := 0 } }, fun f => { f with rnd := .sr }, fun f => { f with mod := 31 }, fun f => { f with lit := some 9 }] = true ∧
    refuses .shflup { zf with dst := .v 8, sa := .v 8, sb := .v 8, ty := .f32 } [fun f => { f with dst := .lit }, fun f => { f with sa := .lit }, fun f => { f with sb := .oneF }, fun f => { f with sc := .oneF }, fun f => { f with ext := 30 }, fun f => { f with guard := { inv := true, idx := 0 } }, fun f => { f with rnd := .sr }, fun f => { f with mod := 31 }, fun f => { f with lit := some 9 }] = true ∧
    refuses .shfldn { zf with dst := .v 8, sa := .v 8, sb := .v 8, ty := .f32 } [fun f => { f with dst := .lit }, fun f => { f with sa := .lit }, fun f => { f with sb := .oneF }, fun f => { f with sc := .oneF }, fun f => { f with ext := 30 }, fun f => { f with guard := { inv := true, idx := 0 } }, fun f => { f with rnd := .sr }, fun f => { f with mod := 31 }, fun f => { f with lit := some 9 }] = true ∧
    refuses .put { zf with dst := .v 8, sa := .v 8, sb := .v 8, ty := .f32 } [fun f => { f with dst := .lit }, fun f => { f with sa := .lit }, fun f => { f with sb := .oneF }, fun f => { f with sc := .oneF }, fun f => { f with ext := 30 }, fun f => { f with guard := { inv := true, idx := 0 } }, fun f => { f with rnd := .sr }, fun f => { f with mod := 31 }, fun f => { f with lit := some 9 }] = true ∧
    refuses .bcast { zf with dst := .v 8, sa := .v 8, sb := .s 8, ty := .f32 } [fun f => { f with dst := .lit }, fun f => { f with sa := .lit }, fun f => { f with sb := .oneF }, fun f => { f with sc := .oneF }, fun f => { f with ext := 30 }, fun f => { f with guard := { inv := true, idx := 0 } }, fun f => { f with rnd := .sr }, fun f => { f with mod := 31 }, fun f => { f with lit := some 9 }] = true ∧
    refuses .vany { zf with dst := .s 8, sa := .v 8, ty := .f32 } [fun f => { f with dst := .lit }, fun f => { f with sa := .oneF }, fun f => { f with sb := .oneF }, fun f => { f with sc := .oneF }, fun f => { f with ext := 30 }, fun f => { f with guard := { inv := true, idx := 0 } }, fun f => { f with rnd := .sr }, fun f => { f with mod := 31 }, fun f => { f with lit := some 9 }] = true ∧
    refuses .vall { zf with dst := .s 8, sa := .v 8, ty := .f32 } [fun f => { f with dst := .lit }, fun f => { f with sa := .oneF }, fun f => { f with sb := .oneF }, fun f => { f with sc := .oneF }, fun f => { f with ext := 30 }, fun f => { f with guard := { inv := true, idx := 0 } }, fun f => { f with rnd := .sr }, fun f => { f with mod := 31 }, fun f => { f with lit := some 9 }] = true := by decide

/-- Long forms of the group conversion and cross-lane. -/
theorem test_wf_conversion_cross_lane_1 :
    refuses .ballot { zf with dst := .s 8, sa := .v 8, ty := .f32 } [fun f => { f with dst := .lit }, fun f => { f with sa := .oneF }, fun f => { f with sb := .oneF }, fun f => { f with sc := .oneF }, fun f => { f with ext := 30 }, fun f => { f with guard := { inv := true, idx := 0 } }, fun f => { f with rnd := .sr }, fun f => { f with mod := 31 }, fun f => { f with lit := some 9 }] = true ∧
    refuses .matchLanes { zf with dst := .v 8, sa := .v 8, ty := .f32 } [fun f => { f with dst := .lit }, fun f => { f with sa := .oneF }, fun f => { f with sb := .oneF }, fun f => { f with sc := .oneF }, fun f => { f with ext := 30 }, fun f => { f with guard := { inv := true, idx := 0 } }, fun f => { f with rnd := .sr }, fun f => { f with mod := 31 }, fun f => { f with lit := some 9 }] = true ∧
    refuses .redux { zf with dst := .s 8, sa := .v 8, ty := .f32, mod := 6 } [fun f => { f with dst := .lit }, fun f => { f with sa := .oneF }, fun f => { f with sb := .oneF }, fun f => { f with sc := .oneF }, fun f => { f with ext := 30 }, fun f => { f with guard := { inv := true, idx := 0 } }, fun f => { f with ty := .ds8 }, fun f => { f with mod := 31 }, fun f => { f with lit := some 9 }] = true ∧
    refuses .scan { zf with dst := .v 8, sa := .v 8, ty := .f32, mod := 6 } [fun f => { f with dst := .lit }, fun f => { f with sa := .oneF }, fun f => { f with sb := .oneF }, fun f => { f with sc := .oneF }, fun f => { f with ext := 30 }, fun f => { f with guard := { inv := true, idx := 0 } }, fun f => { f with ty := .ds8 }, fun f => { f with mod := 31 }, fun f => { f with lit := some 9 }] = true := by decide

/-- Long forms of the group memory. -/
theorem test_wf_memory_0 :
    refuses .ld { zf with dst := .v 8, sa := .s 8, sb := .v 8, ty := .f32 } [fun f => { f with dst := .lit }, fun f => { f with sa := .oneF }, fun f => { f with sb := .oneF }, fun f => { f with sc := .oneF }, fun f => { f with ext := 30 }, fun f => { f with guard := { inv := true, idx := 0 } }, fun f => { f with rnd := .sr }, fun f => { f with mod := 31 }] = true ∧
    refuses .st { zf with sa := .s 8, sb := .v 8, sc := .v 8, ty := .f32 } [fun f => { f with dst := .lit }, fun f => { f with sa := .oneF }, fun f => { f with sb := .oneF }, fun f => { f with sc := .lit }, fun f => { f with ext := 30 }, fun f => { f with guard := { inv := true, idx := 0 } }, fun f => { f with rnd := .sr }, fun f => { f with mod := 31 }] = true ∧
    refuses .ldf { zf with dst := .v 8, sa := .s 8, sb := .s 8, ty := .f32 } [fun f => { f with dst := .lit }, fun f => { f with sa := .oneF }, fun f => { f with sb := .oneF }, fun f => { f with sc := .oneF }, fun f => { f with ext := 30 }, fun f => { f with guard := { inv := false, idx := 5 } }, fun f => { f with ty := .i32 }, fun f => { f with rnd := .sr }, fun f => { f with mod := 31 }, fun f => { f with lit := some 9 }] = true ∧
    refuses .lds { zf with dst := .v 8, sa := .s 8, sb := .v 8, ty := .f32 } [fun f => { f with dst := .lit }, fun f => { f with sa := .oneF }, fun f => { f with sb := .oneF }, fun f => { f with sc := .oneF }, fun f => { f with ext := 30 }, fun f => { f with guard := { inv := true, idx := 0 } }, fun f => { f with rnd := .sr }, fun f => { f with mod := 31 }] = true ∧
    refuses .sts { zf with sa := .s 8, sb := .v 8, sc := .v 8, ty := .f32 } [fun f => { f with dst := .lit }, fun f => { f with sa := .oneF }, fun f => { f with sb := .oneF }, fun f => { f with sc := .lit }, fun f => { f with ext := 30 }, fun f => { f with guard := { inv := true, idx := 0 } }, fun f => { f with rnd := .sr }, fun f => { f with mod := 31 }] = true ∧
    refuses .ldc { zf with dst := .v 8, sa := .s 8, sb := .v 8, ty := .f32 } [fun f => { f with dst := .lit }, fun f => { f with sa := .oneF }, fun f => { f with sb := .oneF }, fun f => { f with sc := .oneF }, fun f => { f with ext := 30 }, fun f => { f with guard := { inv := true, idx := 0 } }, fun f => { f with rnd := .sr }, fun f => { f with mod := 31 }] = true ∧
    refuses .stc { zf with sa := .s 8, sb := .v 8, sc := .v 8, ty := .f32 } [fun f => { f with dst := .lit }, fun f => { f with sa := .oneF }, fun f => { f with sb := .oneF }, fun f => { f with sc := .lit }, fun f => { f with ext := 30 }, fun f => { f with guard := { inv := true, idx := 0 } }, fun f => { f with rnd := .sr }, fun f => { f with mod := 31 }] = true ∧
    refuses .ldk { zf with dst := .v 8, sa := .s 8, sb := .v 8, ty := .f32 } [fun f => { f with dst := .lit }, fun f => { f with sa := .oneF }, fun f => { f with sb := .oneF }, fun f => { f with sc := .oneF }, fun f => { f with ext := 30 }, fun f => { f with guard := { inv := true, idx := 0 } }, fun f => { f with rnd := .sr }, fun f => { f with mod := 31 }] = true ∧
    refuses .stk { zf with sa := .s 8, sb := .v 8, sc := .v 8, ty := .f32 } [fun f => { f with dst := .lit }, fun f => { f with sa := .oneF }, fun f => { f with sb := .oneF }, fun f => { f with sc := .lit }, fun f => { f with ext := 30 }, fun f => { f with guard := { inv := true, idx := 0 } }, fun f => { f with rnd := .sr }, fun f => { f with mod := 31 }] = true ∧
    refuses .ldp { zf with dst := .v 8, sa := .s 8, sb := .v 8, ty := .f32 } [fun f => { f with dst := .lit }, fun f => { f with sa := .oneF }, fun f => { f with sb := .oneF }, fun f => { f with sc := .oneF }, fun f => { f with ext := 30 }, fun f => { f with guard := { inv := true, idx := 0 } }, fun f => { f with rnd := .sr }, fun f => { f with mod := 31 }] = true ∧
    refuses .stp { zf with sa := .s 8, sb := .v 8, sc := .v 8, ty := .f32 } [fun f => { f with dst := .lit }, fun f => { f with sa := .oneF }, fun f => { f with sb := .oneF }, fun f => { f with sc := .lit }, fun f => { f with ext := 30 }, fun f => { f with guard := { inv := true, idx := 0 } }, fun f => { f with rnd := .sr }, fun f => { f with mod := 31 }] = true ∧
    refuses .atom { zf with dst := .v 8, sa := .s 8, sb := .v 8, sc := .v 8, ty := .f32, mod := 8 } [fun f => { f with dst := .lit }, fun f => { f with sa := .oneF }, fun f => { f with sb := .oneF }, fun f => { f with sc := .lit }, fun f => { f with ext := 30 }, fun f => { f with guard := { inv := true, idx := 0 } }, fun f => { f with ty := .ds8 }, fun f => { f with rnd := .sr }, fun f => { f with mod := 31 }] = true ∧
    refuses .atoms { zf with dst := .v 8, sa := .s 8, sb := .v 8, sc := .v 8, ty := .f32, mod := 8 } [fun f => { f with dst := .lit }, fun f => { f with sa := .oneF }, fun f => { f with sb := .oneF }, fun f => { f with sc := .lit }, fun f => { f with ext := 30 }, fun f => { f with guard := { inv := true, idx := 0 } }, fun f => { f with ty := .ds8 }, fun f => { f with rnd := .sr }, fun f => { f with mod := 31 }] = true := by decide

/-- Long forms of the group memory. -/
theorem test_wf_memory_1 :
    refuses .atomc { zf with dst := .v 8, sa := .s 8, sb := .v 8, sc := .v 8, ty := .f32, mod := 8 } [fun f => { f with dst := .lit }, fun f => { f with sa := .oneF }, fun f => { f with sb := .oneF }, fun f => { f with sc := .lit }, fun f => { f with ext := 30 }, fun f => { f with guard := { inv := true, idx := 0 } }, fun f => { f with ty := .ds8 }, fun f => { f with rnd := .sr }, fun f => { f with mod := 31 }] = true ∧
    refuses .pref { zf with sa := .s 8, sb := .v 8 } [fun f => { f with dst := .lit }, fun f => { f with sa := .oneF }, fun f => { f with sb := .oneF }, fun f => { f with sc := .oneF }, fun f => { f with ext := 30 }, fun f => { f with guard := { inv := true, idx := 0 } }, fun f => { f with ty := .ds8 }, fun f => { f with rnd := .sr }, fun f => { f with mod := 31 }] = true ∧
    refuses .discard { zf with sa := .s 8, sb := .v 8 } [fun f => { f with dst := .lit }, fun f => { f with sa := .oneF }, fun f => { f with sb := .oneF }, fun f => { f with sc := .oneF }, fun f => { f with ext := 30 }, fun f => { f with guard := { inv := true, idx := 0 } }, fun f => { f with ty := .ds8 }, fun f => { f with rnd := .sr }, fun f => { f with mod := 31 }] = true ∧
    refuses .fence zf [fun f => { f with dst := .lit }, fun f => { f with sa := .oneF }, fun f => { f with sb := .oneF }, fun f => { f with sc := .oneF }, fun f => { f with ext := 30 }, fun f => { f with guard := { inv := false, idx := 5 } }, fun f => { f with ty := .ds8 }, fun f => { f with rnd := .sr }, fun f => { f with mod := 31 }, fun f => { f with lit := some 9 }] = true ∧
    refuses .waitc { zf with sa := .s 8 } [fun f => { f with dst := .lit }, fun f => { f with sa := .oneF }, fun f => { f with sb := .oneF }, fun f => { f with sc := .oneF }, fun f => { f with ext := 30 }, fun f => { f with guard := { inv := false, idx := 5 } }, fun f => { f with ty := .ds8 }, fun f => { f with rnd := .sr }, fun f => { f with mod := 31 }, fun f => { f with lit := some 9 }] = true ∧
    refuses .cntrd { zf with dst := .s 8 } [fun f => { f with dst := .lit }, fun f => { f with sa := .oneF }, fun f => { f with sb := .oneF }, fun f => { f with sc := .oneF }, fun f => { f with ext := 30 }, fun f => { f with guard := { inv := false, idx := 5 } }, fun f => { f with ty := .ds8 }, fun f => { f with rnd := .sr }, fun f => { f with mod := 31 }, fun f => { f with lit := some 9 }] = true := by decide

/-- Long forms of the group matrix. -/
theorem test_wf_matrix_0 :
    refuses .mma { zf with dst := .zero, sa := .v 8, sb := .v 8, sc := .zero, ty := .f32, mod := 8 } [fun f => { f with dst := .lit }, fun f => { f with sa := .oneF }, fun f => { f with sb := .oneF }, fun f => { f with sc := .oneF }, fun f => { f with guard := { inv := true, idx := 0 } }, fun f => { f with ty := .ds8 }, fun f => { f with rnd := .sr }, fun f => { f with mod := 31 }, fun f => { f with lit := some 9 }] = true ∧
    refuses .mconv { zf with dst := .zero, sa := .s 8, sb := .v 8, sc := .s 8, ty := .f32, mod := 8 } [fun f => { f with dst := .lit }, fun f => { f with sa := .oneF }, fun f => { f with sb := .oneF }, fun f => { f with sc := .oneF }, fun f => { f with guard := { inv := true, idx := 0 } }, fun f => { f with ty := .ds8 }, fun f => { f with rnd := .sr }, fun f => { f with mod := 31 }, fun f => { f with lit := some 9 }] = true ∧
    refuses .mzero zf [fun f => { f with dst := .lit }, fun f => { f with sa := .oneF }, fun f => { f with sb := .oneF }, fun f => { f with sc := .oneF }, fun f => { f with guard := { inv := false, idx := 5 } }, fun f => { f with ty := .ds8 }, fun f => { f with rnd := .sr }, fun f => { f with mod := 31 }, fun f => { f with lit := some 9 }] = true ∧
    refuses .mload { zf with sa := .v 8, ty := .f32 } [fun f => { f with dst := .lit }, fun f => { f with sa := .oneF }, fun f => { f with sb := .oneF }, fun f => { f with sc := .oneF }, fun f => { f with guard := { inv := true, idx := 0 } }, fun f => { f with ty := .ds8 }, fun f => { f with rnd := .sr }, fun f => { f with mod := 31 }, fun f => { f with lit := some 9 }] = true ∧
    refuses .mdrain { zf with dst := .v 8, sa := .v 8, sb := .v 8, ty := .f32 } [fun f => { f with dst := .lit }, fun f => { f with sa := .lit }, fun f => { f with sb := .oneF }, fun f => { f with sc := .oneF }, fun f => { f with guard := { inv := true, idx := 0 } }, fun f => { f with ty := .ds8 }, fun f => { f with mod := 31 }, fun f => { f with lit := some 9 }] = true ∧
    refuses .mdrains { zf with sa := .v 8, sb := .s 8, sc := .v 8, ty := .f32 } [fun f => { f with dst := .lit }, fun f => { f with sa := .lit }, fun f => { f with sb := .oneF }, fun f => { f with sc := .oneF }, fun f => { f with guard := { inv := true, idx := 0 } }, fun f => { f with ty := .ds8 }, fun f => { f with mod := 31 }, fun f => { f with lit := some 9 }] = true ∧
    refuses .mrows { zf with dst := .v 8, ty := .f32 } [fun f => { f with dst := .lit }, fun f => { f with sa := .oneF }, fun f => { f with sb := .oneF }, fun f => { f with sc := .oneF }, fun f => { f with guard := { inv := true, idx := 0 } }, fun f => { f with ty := .ds8 }, fun f => { f with rnd := .sr }, fun f => { f with mod := 31 }, fun f => { f with lit := some 9 }] = true ∧
    refuses .mshape { zf with sa := .s 8 } [fun f => { f with dst := .lit }, fun f => { f with sa := .oneF }, fun f => { f with sb := .oneF }, fun f => { f with sc := .oneF }, fun f => { f with ext := 30 }, fun f => { f with guard := { inv := false, idx := 5 } }, fun f => { f with ty := .ds8 }, fun f => { f with rnd := .sr }, fun f => { f with mod := 31 }, fun f => { f with lit := some 9 }] = true := by decide

/-- Long forms of the group synchronisation and copy. -/
theorem test_wf_synchronisation_copy_0 :
    refuses .cpy { zf with dst := .s 8, sa := .s 8, sb := .s 8 } [fun f => { f with dst := .lit }, fun f => { f with sa := .oneF }, fun f => { f with sb := .oneF }, fun f => { f with sc := .oneF }, fun f => { f with ext := 30 }, fun f => { f with guard := { inv := true, idx := 0 } }, fun f => { f with ty := .ds8 }, fun f => { f with rnd := .sr }, fun f => { f with mod := 31 }, fun f => { f with lit := some 9 }] = true ∧
    refuses .cpyg { zf with dst := .s 8, sa := .s 8, sb := .s 8, sc := .v 8 } [fun f => { f with dst := .lit }, fun f => { f with sa := .oneF }, fun f => { f with sb := .oneF }, fun f => { f with sc := .oneF }, fun f => { f with ext := 30 }, fun f => { f with guard := { inv := true, idx := 0 } }, fun f => { f with ty := .ds8 }, fun f => { f with rnd := .sr }, fun f => { f with mod := 31 }, fun f => { f with lit := some 9 }] = true ∧
    refuses .cpys { zf with dst := .s 8, sa := .s 8, sb := .s 8, sc := .v 8 } [fun f => { f with dst := .lit }, fun f => { f with sa := .oneF }, fun f => { f with sb := .oneF }, fun f => { f with sc := .oneF }, fun f => { f with ext := 30 }, fun f => { f with guard := { inv := true, idx := 0 } }, fun f => { f with ty := .ds8 }, fun f => { f with rnd := .sr }, fun f => { f with mod := 31 }, fun f => { f with lit := some 9 }] = true ∧
    refuses .barinit { zf with sa := .v 8, sb := .s 8 } [fun f => { f with dst := .lit }, fun f => { f with sa := .oneF }, fun f => { f with sb := .oneF }, fun f => { f with sc := .oneF }, fun f => { f with ext := 30 }, fun f => { f with guard := { inv := false, idx := 5 } }, fun f => { f with ty := .ds8 }, fun f => { f with rnd := .sr }, fun f => { f with mod := 31 }, fun f => { f with lit := some 9 }] = true ∧
    refuses .barexp { zf with sa := .v 8, sb := .s 8 } [fun f => { f with dst := .lit }, fun f => { f with sa := .oneF }, fun f => { f with sb := .oneF }, fun f => { f with sc := .oneF }, fun f => { f with ext := 30 }, fun f => { f with guard := { inv := false, idx := 5 } }, fun f => { f with ty := .ds8 }, fun f => { f with rnd := .sr }, fun f => { f with mod := 31 }, fun f => { f with lit := some 9 }] = true ∧
    refuses .bararr { zf with dst := .s 8, sa := .v 8, sb := .s 8 } [fun f => { f with dst := .lit }, fun f => { f with sa := .oneF }, fun f => { f with sb := .oneF }, fun f => { f with sc := .oneF }, fun f => { f with ext := 30 }, fun f => { f with guard := { inv := false, idx := 5 } }, fun f => { f with ty := .ds8 }, fun f => { f with rnd := .sr }, fun f => { f with mod := 31 }, fun f => { f with lit := some 9 }] = true ∧
    refuses .barwait { zf with dst := .s 8, sa := .v 8, sb := .s 8 } [fun f => { f with dst := .lit }, fun f => { f with sa := .oneF }, fun f => { f with sb := .oneF }, fun f => { f with sc := .oneF }, fun f => { f with ext := 30 }, fun f => { f with guard := { inv := false, idx := 5 } }, fun f => { f with ty := .ds8 }, fun f => { f with rnd := .sr }, fun f => { f with mod := 31 }, fun f => { f with lit := some 9 }] = true ∧
    refuses .bartest { zf with dst := .s 8, sa := .v 8, sb := .s 8 } [fun f => { f with dst := .lit }, fun f => { f with sa := .oneF }, fun f => { f with sb := .oneF }, fun f => { f with sc := .oneF }, fun f => { f with ext := 30 }, fun f => { f with guard := { inv := false, idx := 5 } }, fun f => { f with ty := .ds8 }, fun f => { f with rnd := .sr }, fun f => { f with mod := 31 }, fun f => { f with lit := some 9 }] = true ∧
    refuses .barpay { zf with dst := .s 8, sa := .v 8, sb := .s 8 } [fun f => { f with dst := .lit }, fun f => { f with sa := .oneF }, fun f => { f with sb := .oneF }, fun f => { f with sc := .oneF }, fun f => { f with ext := 30 }, fun f => { f with guard := { inv := false, idx := 5 } }, fun f => { f with ty := .ds8 }, fun f => { f with rnd := .sr }, fun f => { f with mod := 31 }, fun f => { f with lit := some 9 }] = true ∧
    refuses .fwait { zf with dst := .s 8, sb := .s 8 } [fun f => { f with dst := .lit }, fun f => { f with sa := .oneF }, fun f => { f with sb := .oneF }, fun f => { f with sc := .oneF }, fun f => { f with ext := 30 }, fun f => { f with guard := { inv := false, idx := 5 } }, fun f => { f with ty := .ds8 }, fun f => { f with rnd := .sr }, fun f => { f with mod := 31 }] = true ∧
    refuses .ffill { zf with dst := .s 8, sb := .s 8, sc := .s 8 } [fun f => { f with dst := .lit }, fun f => { f with sa := .oneF }, fun f => { f with sb := .oneF }, fun f => { f with sc := .oneF }, fun f => { f with ext := 30 }, fun f => { f with guard := { inv := false, idx := 5 } }, fun f => { f with ty := .ds8 }, fun f => { f with rnd := .sr }, fun f => { f with mod := 31 }] = true ∧
    refuses .fclr { zf with dst := .s 8, sb := .s 8 } [fun f => { f with dst := .lit }, fun f => { f with sa := .oneF }, fun f => { f with sb := .oneF }, fun f => { f with sc := .oneF }, fun f => { f with ext := 30 }, fun f => { f with guard := { inv := false, idx := 5 } }, fun f => { f with ty := .ds8 }, fun f => { f with rnd := .sr }, fun f => { f with mod := 31 }] = true ∧
    refuses .semsig { zf with dst := .s 8, sa := .s 8, sb := .s 8, sc := .s 8 } [fun f => { f with dst := .lit }, fun f => { f with sa := .oneF }, fun f => { f with sb := .oneF }, fun f => { f with sc := .oneF }, fun f => { f with ext := 30 }, fun f => { f with guard := { inv := false, idx := 5 } }, fun f => { f with ty := .ds8 }, fun f => { f with rnd := .sr }, fun f => { f with mod := 31 }] = true := by decide

/-- Long forms of the group synchronisation and copy. -/
theorem test_wf_synchronisation_copy_1 :
    refuses .semwait { zf with dst := .s 8, sa := .s 8, sb := .s 8, sc := .s 8 } [fun f => { f with dst := .lit }, fun f => { f with sa := .oneF }, fun f => { f with sb := .oneF }, fun f => { f with sc := .oneF }, fun f => { f with ext := 30 }, fun f => { f with guard := { inv := false, idx := 5 } }, fun f => { f with ty := .ds8 }, fun f => { f with rnd := .sr }, fun f => { f with mod := 31 }] = true ∧
    refuses .rngres { zf with dst := .s 8, sa := .s 8, sb := .s 8, sc := .s 8 } [fun f => { f with dst := .lit }, fun f => { f with sa := .oneF }, fun f => { f with sb := .oneF }, fun f => { f with sc := .oneF }, fun f => { f with ext := 30 }, fun f => { f with guard := { inv := false, idx := 5 } }, fun f => { f with ty := .ds8 }, fun f => { f with rnd := .sr }, fun f => { f with mod := 31 }] = true ∧
    refuses .rngpub { zf with sa := .s 8, sb := .s 8, sc := .s 8 } [fun f => { f with dst := .lit }, fun f => { f with sa := .oneF }, fun f => { f with sb := .oneF }, fun f => { f with sc := .oneF }, fun f => { f with ext := 30 }, fun f => { f with guard := { inv := false, idx := 5 } }, fun f => { f with ty := .ds8 }, fun f => { f with rnd := .sr }, fun f => { f with mod := 31 }] = true ∧
    refuses .phase { zf with sa := .v 8, sb := .s 8, lit := some 8 } [fun f => { f with dst := .lit }, fun f => { f with sa := .oneF }, fun f => { f with sb := .oneF }, fun f => { f with sc := .oneF }, fun f => { f with ext := 30 }, fun f => { f with guard := { inv := false, idx := 5 } }, fun f => { f with ty := .ds8 }, fun f => { f with rnd := .sr }, fun f => { f with mod := 31 }, fun f => { f with lit := none }] = true ∧
    refuses .teambar zf [fun f => { f with dst := .lit }, fun f => { f with sa := .oneF }, fun f => { f with sb := .oneF }, fun f => { f with sc := .oneF }, fun f => { f with ext := 30 }, fun f => { f with guard := { inv := false, idx := 5 } }, fun f => { f with ty := .ds8 }, fun f => { f with rnd := .sr }, fun f => { f with mod := 31 }, fun f => { f with lit := some 9 }] = true := by decide

/-- Long forms of the group system. -/
theorem test_wf_system_0 :
    refuses .trapc { zf with dst := .v 8, sa := .v 8 } [fun f => { f with dst := .lit }, fun f => { f with sa := .oneF }, fun f => { f with sb := .oneF }, fun f => { f with sc := .oneF }, fun f => { f with ext := 30 }, fun f => { f with guard := { inv := true, idx := 0 } }, fun f => { f with ty := .ds8 }, fun f => { f with rnd := .sr }, fun f => { f with mod := 31 }, fun f => { f with lit := some 9 }] = true ∧
    refuses .resume { zf with sa := .s 8, sb := .s 8, sc := .s 8 } [fun f => { f with dst := .lit }, fun f => { f with sa := .oneF }, fun f => { f with sb := .oneF }, fun f => { f with sc := .oneF }, fun f => { f with ext := 30 }, fun f => { f with guard := { inv := false, idx := 5 } }, fun f => { f with ty := .ds8 }, fun f => { f with rnd := .sr }, fun f => { f with mod := 31 }, fun f => { f with lit := some 9 }] = true ∧
    refuses .retx zf [fun f => { f with dst := .lit }, fun f => { f with sa := .oneF }, fun f => { f with sb := .oneF }, fun f => { f with sc := .oneF }, fun f => { f with ext := 30 }, fun f => { f with guard := { inv := false, idx := 5 } }, fun f => { f with ty := .ds8 }, fun f => { f with rnd := .sr }, fun f => { f with mod := 31 }, fun f => { f with lit := some 9 }] = true ∧
    refuses .brk zf [fun f => { f with dst := .lit }, fun f => { f with sa := .oneF }, fun f => { f with sb := .oneF }, fun f => { f with sc := .oneF }, fun f => { f with guard := { inv := false, idx := 5 } }, fun f => { f with ty := .ds8 }, fun f => { f with rnd := .sr }, fun f => { f with mod := 31 }, fun f => { f with lit := some 9 }] = true ∧
    refuses .sysrd { zf with dst := .s 8, sb := .s 8, sc := .s 8 } [fun f => { f with dst := .lit }, fun f => { f with sa := .oneF }, fun f => { f with sb := .oneF }, fun f => { f with sc := .oneF }, fun f => { f with ext := 30 }, fun f => { f with guard := { inv := false, idx := 5 } }, fun f => { f with ty := .ds8 }, fun f => { f with rnd := .sr }, fun f => { f with mod := 31 }, fun f => { f with lit := some 9 }] = true ∧
    refuses .syswr { zf with sa := .s 8, sb := .s 8, sc := .s 8 } [fun f => { f with dst := .lit }, fun f => { f with sa := .oneF }, fun f => { f with sb := .oneF }, fun f => { f with sc := .oneF }, fun f => { f with ext := 30 }, fun f => { f with guard := { inv := false, idx := 5 } }, fun f => { f with ty := .ds8 }, fun f => { f with rnd := .sr }, fun f => { f with mod := 31 }, fun f => { f with lit := some 9 }] = true ∧
    refuses .msend { zf with dst := .s 8, sa := .s 8, sb := .s 8 } [fun f => { f with dst := .lit }, fun f => { f with sa := .oneF }, fun f => { f with sb := .oneF }, fun f => { f with sc := .oneF }, fun f => { f with ext := 30 }, fun f => { f with guard := { inv := false, idx := 5 } }, fun f => { f with ty := .ds8 }, fun f => { f with rnd := .sr }, fun f => { f with mod := 31 }, fun f => { f with lit := some 9 }] = true ∧
    refuses .mrecv { zf with dst := .s 8 } [fun f => { f with dst := .lit }, fun f => { f with sa := .oneF }, fun f => { f with sb := .oneF }, fun f => { f with sc := .oneF }, fun f => { f with ext := 30 }, fun f => { f with guard := { inv := false, idx := 5 } }, fun f => { f with ty := .ds8 }, fun f => { f with rnd := .sr }, fun f => { f with mod := 31 }, fun f => { f with lit := some 9 }] = true ∧
    refuses .saveg { zf with dst := .s 8, sa := .s 8, sb := .s 8 } [fun f => { f with dst := .lit }, fun f => { f with sa := .oneF }, fun f => { f with sb := .oneF }, fun f => { f with sc := .oneF }, fun f => { f with ext := 30 }, fun f => { f with guard := { inv := false, idx := 5 } }, fun f => { f with ty := .ds8 }, fun f => { f with rnd := .sr }, fun f => { f with mod := 31 }, fun f => { f with lit := some 9 }] = true ∧
    refuses .loadg { zf with dst := .s 8, sa := .s 8, sb := .s 8 } [fun f => { f with dst := .lit }, fun f => { f with sa := .oneF }, fun f => { f with sb := .oneF }, fun f => { f with sc := .oneF }, fun f => { f with ext := 30 }, fun f => { f with guard := { inv := false, idx := 5 } }, fun f => { f with ty := .ds8 }, fun f => { f with rnd := .sr }, fun f => { f with mod := 31 }, fun f => { f with lit := some 9 }] = true ∧
    refuses .tlbinv { zf with sa := .s 8, sb := .s 8 } [fun f => { f with dst := .lit }, fun f => { f with sa := .oneF }, fun f => { f with sb := .oneF }, fun f => { f with sc := .oneF }, fun f => { f with ext := 30 }, fun f => { f with guard := { inv := false, idx := 5 } }, fun f => { f with ty := .ds8 }, fun f => { f with rnd := .sr }, fun f => { f with mod := 31 }, fun f => { f with lit := some 9 }] = true ∧
    refuses .keysel { zf with dst := .s 8, sa := .s 8 } [fun f => { f with dst := .lit }, fun f => { f with sa := .oneF }, fun f => { f with sb := .oneF }, fun f => { f with sc := .oneF }, fun f => { f with ext := 30 }, fun f => { f with guard := { inv := false, idx := 5 } }, fun f => { f with ty := .ds8 }, fun f => { f with rnd := .sr }, fun f => { f with mod := 31 }, fun f => { f with lit := some 9 }] = true ∧
    refuses .idle zf [fun f => { f with dst := .lit }, fun f => { f with sa := .oneF }, fun f => { f with sb := .oneF }, fun f => { f with sc := .oneF }, fun f => { f with ext := 30 }, fun f => { f with guard := { inv := false, idx := 5 } }, fun f => { f with ty := .ds8 }, fun f => { f with rnd := .sr }, fun f => { f with mod := 31 }, fun f => { f with lit := some 9 }] = true := by decide

/-- Long forms of the group network. -/
theorem test_wf_network_0 :
    refuses .nput { zf with dst := .s 8, sa := .s 8, sb := .s 8, sc := .s 8 } [fun f => { f with dst := .lit }, fun f => { f with sa := .oneF }, fun f => { f with sb := .oneF }, fun f => { f with sc := .oneF }, fun f => { f with ext := 30 }, fun f => { f with guard := { inv := true, idx := 0 } }, fun f => { f with ty := .ds8 }, fun f => { f with rnd := .sr }, fun f => { f with mod := 31 }, fun f => { f with lit := some 9 }] = true ∧
    refuses .nget { zf with dst := .s 8, sa := .s 8, sb := .s 8, sc := .s 8 } [fun f => { f with dst := .lit }, fun f => { f with sa := .oneF }, fun f => { f with sb := .oneF }, fun f => { f with sc := .oneF }, fun f => { f with ext := 30 }, fun f => { f with guard := { inv := true, idx := 0 } }, fun f => { f with ty := .ds8 }, fun f => { f with rnd := .sr }, fun f => { f with mod := 31 }, fun f => { f with lit := some 9 }] = true ∧
    refuses .nputi { zf with dst := .s 8, sa := .s 8, sb := .s 8, sc := .s 8 } [fun f => { f with dst := .lit }, fun f => { f with sa := .oneF }, fun f => { f with sb := .oneF }, fun f => { f with sc := .oneF }, fun f => { f with ext := 30 }, fun f => { f with guard := { inv := true, idx := 0 } }, fun f => { f with ty := .ds8 }, fun f => { f with rnd := .sr }, fun f => { f with mod := 31 }, fun f => { f with lit := some 9 }] = true ∧
    refuses .nputa { zf with dst := .s 8, sa := .s 8, sb := .s 8, sc := .s 8, ty := .f32 } [fun f => { f with dst := .lit }, fun f => { f with sa := .oneF }, fun f => { f with sb := .oneF }, fun f => { f with sc := .oneF }, fun f => { f with ext := 30 }, fun f => { f with guard := { inv := true, idx := 0 } }, fun f => { f with ty := .ds8 }, fun f => { f with rnd := .sr }, fun f => { f with mod := 31 }, fun f => { f with lit := some 9 }] = true ∧
    refuses .natom { zf with dst := .s 8, sb := .s 8, sc := .s 8, ty := .n32 } [fun f => { f with dst := .lit }, fun f => { f with sa := .oneF }, fun f => { f with sb := .oneF }, fun f => { f with sc := .oneF }, fun f => { f with ext := 30 }, fun f => { f with guard := { inv := true, idx := 0 } }, fun f => { f with ty := .ds8 }, fun f => { f with rnd := .sr }, fun f => { f with mod := 31 }, fun f => { f with lit := some 9 }] = true ∧
    refuses .nwaitn { zf with dst := .s 8, sa := .s 8 } [fun f => { f with dst := .lit }, fun f => { f with sa := .oneF }, fun f => { f with sb := .oneF }, fun f => { f with sc := .oneF }, fun f => { f with ext := 30 }, fun f => { f with guard := { inv := false, idx := 5 } }, fun f => { f with ty := .ds8 }, fun f => { f with rnd := .sr }, fun f => { f with mod := 31 }, fun f => { f with lit := some 9 }] = true ∧
    refuses .nwopen { zf with dst := .s 8, sa := .s 8, sb := .s 8 } [fun f => { f with dst := .lit }, fun f => { f with sa := .oneF }, fun f => { f with sb := .oneF }, fun f => { f with sc := .oneF }, fun f => { f with ext := 30 }, fun f => { f with guard := { inv := false, idx := 5 } }, fun f => { f with ty := .ds8 }, fun f => { f with rnd := .sr }, fun f => { f with mod := 31 }, fun f => { f with lit := some 9 }] = true ∧
    refuses .nwrev { zf with dst := .s 8, sa := .s 8 } [fun f => { f with dst := .lit }, fun f => { f with sa := .oneF }, fun f => { f with sb := .oneF }, fun f => { f with sc := .oneF }, fun f => { f with ext := 30 }, fun f => { f with guard := { inv := false, idx := 5 } }, fun f => { f with ty := .ds8 }, fun f => { f with rnd := .sr }, fun f => { f with mod := 31 }, fun f => { f with lit := some 9 }] = true := by decide

/-- Long forms of the group trace and audit. -/
theorem test_wf_trace_audit_0 :
    refuses .trace { zf with sa := .s 8 } [fun f => { f with dst := .lit }, fun f => { f with sa := .oneF }, fun f => { f with sb := .oneF }, fun f => { f with sc := .oneF }, fun f => { f with guard := { inv := false, idx := 5 } }, fun f => { f with ty := .ds8 }, fun f => { f with rnd := .sr }, fun f => { f with mod := 31 }, fun f => { f with lit := some 9 }] = true ∧
    refuses .trflush { zf with dst := .s 8 } [fun f => { f with dst := .lit }, fun f => { f with sa := .oneF }, fun f => { f with sb := .oneF }, fun f => { f with sc := .oneF }, fun f => { f with ext := 30 }, fun f => { f with guard := { inv := false, idx := 5 } }, fun f => { f with ty := .ds8 }, fun f => { f with rnd := .sr }, fun f => { f with mod := 31 }, fun f => { f with lit := some 9 }] = true ∧
    refuses .trtag { zf with sa := .s 8 } [fun f => { f with dst := .lit }, fun f => { f with sa := .oneF }, fun f => { f with sb := .oneF }, fun f => { f with sc := .oneF }, fun f => { f with ext := 30 }, fun f => { f with guard := { inv := false, idx := 5 } }, fun f => { f with ty := .ds8 }, fun f => { f with rnd := .sr }, fun f => { f with mod := 31 }, fun f => { f with lit := some 9 }] = true ∧
    refuses .audtag { zf with sa := .s 8 } [fun f => { f with dst := .lit }, fun f => { f with sa := .oneF }, fun f => { f with sb := .oneF }, fun f => { f with sc := .oneF }, fun f => { f with ext := 30 }, fun f => { f with guard := { inv := false, idx := 5 } }, fun f => { f with ty := .ds8 }, fun f => { f with rnd := .sr }, fun f => { f with mod := 31 }, fun f => { f with lit := some 9 }] = true ∧
    refuses .audrd { zf with dst := .s 8, sa := .s 8, sb := .s 8, sc := .s 8 } [fun f => { f with dst := .lit }, fun f => { f with sa := .oneF }, fun f => { f with sb := .oneF }, fun f => { f with sc := .oneF }, fun f => { f with ext := 30 }, fun f => { f with guard := { inv := false, idx := 5 } }, fun f => { f with ty := .ds8 }, fun f => { f with rnd := .sr }, fun f => { f with mod := 31 }, fun f => { f with lit := some 9 }] = true ∧
    refuses .audclr { zf with sa := .s 8, sc := .s 8 } [fun f => { f with dst := .lit }, fun f => { f with sa := .oneF }, fun f => { f with sb := .oneF }, fun f => { f with sc := .oneF }, fun f => { f with ext := 30 }, fun f => { f with guard := { inv := false, idx := 5 } }, fun f => { f with ty := .ds8 }, fun f => { f with rnd := .sr }, fun f => { f with mod := 31 }, fun f => { f with lit := some 9 }] = true := by decide

/-! ### Small states -/

/-- Memory with a page table at 0x200000 whose one leaf, at 0x201000, maps the first GiB to itself with every right (R124, R125). -/
def pt : Memory := [(0x200000, 1), (0x200001, 0x10), (0x200002, 0x20), (0x201000, 0xF3), (0x201006, 0x30), (0x201007, 1)]

def tm : Team :=
  { ctx := 0, tlin := 0, pos := 0, idx := 0, clu := 0, core := 0, base := 0, size := 4096, windows := Vector.replicate 8 0x40000000000
    barriers := Vector.replicate 64 {}, tcnt := 4, bcnt := 8 }

def cx : Context := { ctx := 0, croot := 0x200000, pbase := 0x400000, psize := 64 }

/-- A group of w lanes at 0x1008. -/
def gr (w : Nat) : Group := { Group.colReset with lanes := List.replicate w Lane.zero, pc := 0x1008 }

/-- The group g alone, executing an instruction of two words. -/
def st (g : Group) : State :=
  { State.reset with mem := pt, groups := [g], nextGroup := 1, teams := [tm], contexts := [cx], cur := { agent := .group 0, next := 0x1010 } }

/-- A line whose word 2 is a branch target and holds NOP; service lines have bit 0 of word 1. -/
def nopLine (service : Bool) : List W32 := [0x7, if service then 5 else 4] ++ List.replicate 30 0

/-- The boot col at service privilege with IE set, its handler at 0x10008, the monitor at 8, executing an instruction of two words there. -/
def svc : Col :=
  { Col.reset true with g := { Group.colReset with pc := 0x10008 }, cstat := 0x101, cvec := 0x10008, monvec := 8 }

def sc (c : Col) : State :=
  { State.reset.setCol 0 c with mem := writeLine (writeLine pt (colKey 0 0) (nopLine false)) (colKey 0 0x10000) (nopLine true)
                                teams := [tm], contexts := [cx], cur := { agent := .col 0, next := 0x10010 } }

theorem issues_st (w : Nat) : Issues (st (gr w)) (.group 0) (gr w) := ⟨rfl, rfl, rfl, ⟨rfl, rfl⟩, rfl⟩

theorem issues_svc : Issues (sc svc) (.col 0) svc.g := ⟨rfl, rfl, rfl, ⟨rfl, rfl⟩, rfl⟩

/-- The event ring of ridge 0 is empty. -/
theorem recRoom_st (g : Group) : RecRoom (st g) 0 := ⟨rfl, rfl, rfl⟩

/-- The fetched line of a branch target, as a check. -/
def goodLine (x : W64) : Line → Bool
  | .ok ws => lineOk ws && (lineWord ws 1).getLsbD (x.toNat / 4 % 32)
  | _ => false

theorem targetOk_of {s : State} {a : Agent} {x : W64}
    (h : (decide (x.toNat < 2 ^ 57) && decide (x.toNat % 4 = 0) && decide (2 ≤ x.toNat / 4 % 32) && goodLine x (s.fetchLine a x.toNat).1) = true) :
    TargetOk s a x (s.fetchLine a x.toNat).2 := by
  simp only [Bool.and_eq_true, decide_eq_true_eq] at h
  obtain ⟨⟨⟨h1, h2⟩, h3⟩, h4⟩ := h
  refine ⟨h1, h2, h3, ?_⟩
  generalize s.fetchLine a x.toNat = p at h4
  obtain ⟨l, t⟩ := p
  cases l with
  | ok ws => exact ⟨ws, rfl, by simpa [goodLine, Bool.and_eq_true] using h4⟩
  | fail c => simp [goodLine] at h4
  | priv => simp [goodLine] at h4
  | media k => simp [goodLine] at h4

/-! ### A witness for the hypotheses of each statement -/

/-- DecodeEncodeRoundTrip. -/
theorem wit_roundTrip : (Instr.sadd { zf with dst := .s 8, sa := .s 8, sb := .s 8 }).wf = true ∧
    (Instr.sadd { zf with dst := .s 8, sa := .s 8, sb := .s 8 }).isEvent = false := by decide

/-- DecoderRefusesReserved: a word that decodes, one of length 11, an unassigned OPC7, a reserved group. -/
theorem wit_reserved : decodeWords [0] = .ok (.nopShort zs) ∧ (0xC0000000 : W32).toNat / 2 ^ 30 = 3 ∧
    ((0x200000 : W32).toNat / 2 ^ 30 = 0 ∧ (0x200000 : W32).toNat / 2 ^ 21 % 128 ∉ 0 :: (List.range' 0x08 11 ++ List.range' 0x20 19 ++ List.range' 0x40 14 ++ List.range' 0x60 5)) ∧
    ((0x56000000 : W32).toNat / 2 ^ 30 = 1 ∧ 0xB ≤ (0x56000000 : W32).toNat / 2 ^ 25 % 16) := by decide

/-- R49, R63, R79, R80: what the decoder answers to reserved words. -/
theorem test_decode_reserved : decodeWords [0xC0000000] = .error .length ∧ decodeWords [0x00200000] = .error (.opc7 1) ∧
    decodeWords [0x56000000, 0] = .error (.function 11 0) ∧ decodeWords [0x40A00000, 0] = .error (.function 0 0x14) ∧
    decodeWords [0x40000000, 0x000000E0] = .error .rounding ∧ decodeWords [0x40000000] = .error .truncated ∧
    decodeWords [0x40000001, 0] = .error .fields := by decide

/-- A group whose line holds NOP at word 2. -/
def sRun' : State := { st (gr 4) with mem := writeLine pt 0x1000 (nopLine false), issuing := [.group 0] }

def lineWords : Line → List W32
  | .ok ws => ws
  | _ => []

/-- StepRunsDecodedInstruction: a group of user privilege whose line holds NOP. -/
theorem wit_stepRuns : sRun'.inputs = [] ∧ sRun'.issuing = [Agent.group 0] ∧
    (let s0 : State := { sRun' with issuing := [] }
     s0.ag? (.group 0) = some (gr 4) ∧ s0.canIssue (.group 0) (gr 4) = true ∧ s0.entersFirst (.group 0) = false ∧ s0.breakAt (gr 4) = none ∧
     (let l := ({ s0 with cur := { agent := .group 0, next := (gr 4).pc + 4 } } : State).fetchLine (.group 0) (gr 4).pc.toNat
      let ws := lineWords l.1
      l = (.ok ws, l.2) ∧ lineOk ws = true ∧ (gr 4).entry = false ∧ 2 ≤ (gr 4).pc.toNat / 4 % 32 ∧ (lineWord ws 0).getLsbD 2 = true ∧
        (lineWord ws 1).getLsbD 0 = false ∧ decodeWords (ws.drop 2) = .ok (.nopShort zs))) :=
  ⟨rfl, rfl, rfl, by decide, rfl, by decide, rfl, by decide, rfl, by decide, by decide, by decide, rfl⟩

/-- StepFaultsOnUndecodable: the same with a word whose OPC7 is not assigned. -/
theorem wit_stepFaults :
    let s : State := { sRun' with mem := writeLine pt 0x1000 ([0x7, 0x4, 0x00200000] ++ List.replicate 29 0) }
    let s0 : State := { s with issuing := [] }
    let l := ({ s0 with cur := { agent := .group 0, next := (gr 4).pc + 4 } } : State).fetchLine (.group 0) (gr 4).pc.toNat
    let ws := lineWords l.1
    s.inputs = [] ∧ s.issuing = [Agent.group 0] ∧ s0.ag? (.group 0) = some (gr 4) ∧ s0.canIssue (.group 0) (gr 4) = true ∧
      s0.entersFirst (.group 0) = false ∧ s0.breakAt (gr 4) = none ∧
      l = (.ok ws, l.2) ∧ lineOk ws = true ∧ (gr 4).entry = false ∧ 2 ≤ (gr 4).pc.toNat / 4 % 32 ∧ (lineWord ws 0).getLsbD 2 = true ∧ (lineWord ws 1).getLsbD 0 = false ∧
      decodeWords (ws.drop 2) = .error (.opc7 1) :=
  ⟨rfl, rfl, rfl, by decide, rfl, by decide, rfl, by decide, rfl, by decide, by decide, by decide, by decide⟩

set_option maxRecDepth 100000 in
/-- ModuleTimeNeverDecreases, StepKeepsMemoryCanonical, StepKeepsGroupNumbersDistinct: a step that goes on from a state with a group. -/
theorem wit_steps : Sound sRun' ∧ Distinct sRun' ∧ (∀ e ∈ sRun'.inputs.head?, restarts e.step = false) ∧
    (match step sRun' with
     | .next t => (t.group? 0).any fun g => g.pc == 0x1088
     | _ => false) = true := by
  exact ⟨(by decide : Memory.wf sRun'.mem = true), ⟨by decide, by decide⟩, by decide, by decide⟩

/-- OperandValues, ResultArrivalWritesRegisters: registers with nothing outstanding; a result of each kind. -/
theorem wit_operands : (gr 4).results = [] ∧ (gr 4).width ≤ 64 ∧
    (let r : Res := { writes := [.v 1 2 7] }
     let q : Res := { writes := [.s 3 9] }
     ({ gr 4 with results := [r] } : Group).results = [r] ∧ r.writes = [] ++ [.v 1 2 7] ∧ 1 < (gr 4).lanes.length ∧ q.writes = [] ++ [.s 3 9]) := by
  refine ⟨rfl, by decide, rfl, rfl, by decide, rfl⟩

def fS : LF := { zf with dst := .s 8, sa := .s 4, sb := .s 5 }
def fV : LF := { zf with dst := .v 8, sa := .v 4, sb := .v 5 }
def fF : LF := { fV with ty := .f32 }

/-- ScalarInstructionResults, for a long form and for a short form. -/
theorem wit_scalar : Issues (st (gr 4)) (.group 0) (gr 4) ∧ (Instr.sdiv fS).wf = true ∧ (Instr.sdiv fS).asLong (gr 4) = .sdiv fS ∧
    (Instr.sdiv fS).long? = some (1, 4, fS) ∧ Readable fS (gr 4) (gr 4).allLanes (scalarSrcs fS (readsOld (.sdiv fS))) ∧
    (let f : SF := { zs with dst := .s 8, sa := .s 4, sb := .s 5 }
     (Instr.saddShort f).wf = true ∧ ((Instr.saddShort f).asLong (gr 4)).wf = true) :=
  ⟨issues_st 4, by decide, rfl, rfl, rfl, by decide, by decide⟩

/-- IntegerVectorResults, VectorFieldAndMoveResults, CompareAndVoteResults. -/
theorem wit_vector : Issues (st (gr 4)) (.group 0) (gr 4) ∧ (Instr.vmad { fV with sc := .v 6 }).wf = true ∧
    Readable fV (gr 4) (activeOf fV ((st (gr 4)).rd (gr 4))) (srcSlots fV.ty (srcsOf fV 2)) ∧
    (Instr.vbfx { fV with ty := .n32, sc := .v 6 }).wf = true ∧ (Instr.vsel { fV with ty := .n32, sc := .s 6 }).wf = true ∧
    (Instr.vli { zf with dst := .v 8, sa := .lit, ty := .x32, lit := some 5 }).wf = true ∧
    (Instr.vcmp { fV with dst := .s 8, ty := .n32, ext := 5 }).wf = true ∧
    (Instr.ballot { zf with dst := .s 8, sa := .v 4, ty := .n32 }).wf = true :=
  ⟨issues_st 4, by decide, rfl, by decide, by decide, by decide, by decide, by decide⟩

/-- FloatVectorResults, FloatCompareClassScale, ConversionResults, SrSeedAndSrGet. -/
theorem wit_float : Issues (st (gr 4)) (.group 0) (gr 4) ∧ (Instr.fadd fF).wf = true ∧
    Readable fF (gr 4) (activeOf fF ((st (gr 4)).rd (gr 4))) (srcSlots fF.ty (srcsOf fF 2)) ∧ gmFexc (gr 4).gmode = false ∧
    (Instr.fclass { zf with dst := .v 8, sa := .v 4, ty := .f32 }).wf = true ∧ (Instr.fscale fF).wf = true ∧
    (Instr.fcmp { fF with dst := .s 8 }).wf = true ∧ (Instr.cvt { zf with dst := .v 5, sa := .v 4, ext := 8, ty := .b16 }).wf = true ∧
    (Instr.srseed { zf with sa := .s 4, sb := .s 5 }).wf = true ∧ (Instr.srget { zf with dst := .s 7, ext := 1 }).wf = true :=
  ⟨issues_st 4, by decide, rfl, by decide, by decide, by decide, by decide, by decide, by decide, by decide⟩

/-- FloatVectorResults and FloatExceptionFault under FEXC: infinities of unlike sign raise NV in lane 0. -/
def gInf : Group := { gr 4 with gmode := 0x10000, lanes := (List.replicate 4 Lane.zero).set 0 ((Lane.zero.setV 4 0x7F800000).setV 5 0xFF800000) }

theorem wit_floatFault : Issues (st gInf) (.group 0) gInf ∧ (Instr.fadd fF).wf = true ∧ packOf fF.mod.toNat = 1 ∧ gmFexc gInf.gmode = true ∧
    Readable fF gInf (activeOf fF ((st gInf).rd gInf)) (srcSlots fF.ty [fF.sa, fF.sb]) ∧ gInf.results = [] ∧
    0 ∈ activeLanes fF (st gInf) gInf ∧
    (fAdd (fF.mod.getLsbD 1) (fF.mod.getLsbD 2) (envOf fF gInf fF.ty true 0 0) (elemArgs fF (st gInf) gInf 2 0 0)).2 % 8 ≠ 0 ∧
    RecRoom (st gInf) gInf.ridge :=
  ⟨⟨rfl, rfl, rfl, ⟨rfl, rfl⟩, rfl⟩, by decide, by decide, by decide, rfl, rfl, by decide, by decide, recRoom_st gInf⟩

/-- ConversionBounds: an infinity, a number beyond i8, an integer that a wider type holds. -/
theorem wit_conversionBounds : (FV.nan false).isNan = true ∧ Ty.i8.isInt = true ∧
    intMin .i32 ≤ intOf .i8 200 ∧ intOf .i8 200 ≤ intMax .i32 ∧ intMax .i8 < (roundInt .rne 0 false 300 0 false).1 := by decide

/-- RoundingIsToANeighbour: a tie. -/
theorem wit_rounding : (1 : Nat) ≤ 1 ∧ 3 % 2 ^ 1 ≠ 0 ∧ 2 * (3 % 2 ^ 1) = 2 ^ 1 := by decide

/-- FloatSumsAndProductsAreExact: finite terms. -/
theorem wit_floatSums : ∀ x ∈ [FV.fin false 1 0 false, FV.fin true 3 (-2) false], ∃ n m e, x = FV.fin n m e false := by
  intro x hx
  simp only [List.mem_cons, List.not_mem_nil, or_false] at hx
  rcases hx with rfl | rfl <;> exact ⟨_, _, _, rfl⟩

/-- ShuffleResults, CrossLaneResults, IntegerReductionValues. -/
theorem wit_cross : Issues (st (gr 4)) (.group 0) (gr 4) ∧ (Instr.shfl { fV with ty := .x32 }).wf = true ∧
    (Instr.bcast { fV with ty := .x32, sb := .s 5 }).wf = true ∧ (Instr.put { fV with ty := .x32 }).wf = true ∧ (gr 4).width ≤ 64 ∧
    Readable fV (gr 4) (gr 4).live (srcSlots fV.ty [fV.sa] ++ srcSlots .n32 [fV.sb]) ∧ gmFexc (gr 4).gmode = false ∧
    (Instr.matchLanes { zf with dst := .v 8, sa := .v 4, ty := .x32 }).wf = true ∧ (Instr.redux { zf with dst := .s 15, sa := .v 2, ty := .n32 }).wf = true ∧
    (Instr.scan { zf with dst := .v 8, sa := .v 2, ty := .n32, mod := 17 }).wf = true ∧ Ty.n32.isInt = true :=
  ⟨issues_st 4, by decide, by decide, by decide, by decide, rfl, by decide, by decide, by decide, by decide, by decide⟩

/-- SequencerRegisterResults: RND 5 of GMODE is the greatest legal value, and EXT at both ends. -/
theorem wit_sequencer : Issues (st (gr 4)) (.group 0) (gr 4) ∧ (Instr.nop zf).wf = true ∧ (Instr.nopShort zs).wf = true ∧
    Readable zf (gr 4) (gr 4).allLanes [] ∧ (Instr.getmode { zf with dst := .s 8 }).wf = true ∧ (Instr.getmode { zf with dst := .s 8, ext := 4 }).wf = true ∧
    (Instr.setmode { zf with sa := .s 4, sb := .neg1 }).wf = true ∧ (0x50 : W32).toNat / 16 % 8 < 6 ∧ (Instr.setpri { zf with sa := .s 4 }).wf = true ∧
    isCol (.group 0) = false ∧ (Instr.yield zf).wf = true ∧ (Instr.getid { zf with dst := .s 8, ext := 12 }).wf = true ∧
    (6 ≤ (0x60 : W32).toNat / 16 % 8 ∧ (gr 4).results = [] ∧ RecRoom (st (gr 4)) (gr 4).ridge) :=
  ⟨issues_st 4, by decide, by decide, rfl, by decide, by decide, by decide, by decide, by decide, rfl, by decide, by decide,
    ⟨by decide, rfl, recRoom_st _⟩⟩

/-- SETMODE: the word that its hypothesis describes exists (with a mask of all ones it is the value). -/
theorem wit_setmode : ∀ k, (0x15 : W32).getLsbD k =
    if decide (k < 17) && (BitVec.allOnes 64 : W64).getLsbD k then decide (k < 32) && (0x15 : W64).getLsbD k else (0 : W32).getLsbD k := by
  intro k
  by_cases h : k < 17
  · have : ∀ j : Fin 17, (0x15 : W32).getLsbD j.val =
        if decide (j.val < 17) && (BitVec.allOnes 64 : W64).getLsbD j.val then decide (j.val < 32) && (0x15 : W64).getLsbD j.val else (0 : W32).getLsbD j.val := by
      decide
    exact this ⟨k, h⟩
  · have h1 : (0x15 : W32).getLsbD k = false := by
      by_cases h32 : k < 32
      · have : ∀ j : Fin 32, 17 ≤ j.val → (0x15 : W32).getLsbD j.val = false := by decide
        exact this ⟨k, h32⟩ (Nat.le_of_not_lt h)
      · exact BitVec.getLsbD_of_ge _ _ (Nat.le_of_not_lt h32)
    rw [h1]
    simp [h]

/-- A group, and a col, one of whose registers names a branch target. -/
def fB : LF := { zf with sa := .s 4 }
def colB : State := { sc svc with cur := { agent := .col 0, next := 0x10010 } }
def gB : Group := { svc.g with sregs := (Vector.replicate 32 0).set 4 0x10008 }
def stB : State := sc { svc with g := gB }

set_option maxRecDepth 100000 in
/-- BranchResults: a target that R163 accepts, relative and in a register; masks of every kind; LOOP at 0, 1 and 2. -/
theorem wit_branch : Issues stB (.col 0) gB ∧ (Instr.jmp fB).wf = true ∧ (Instr.jmpl { fB with dst := .s 5 }).wf = true ∧
    Readable fB gB gB.allLanes [(fB.sa, 1)] ∧ (stB.rd gB).uni 0 none fB.sa = 0x10008 ∧
    TargetOk stB (.col 0) 0x10008 (stB.fetchLine (.col 0) 0x10008).2 ∧
    (Instr.bra { zf with lit := some 0 }).wf = true ∧ (Instr.bral { zf with dst := .s 5, lit := some 0 }).wf = true ∧
    gB.pc.setWidth 64 + ((0 : W32).signExtend 64) = 0x10008 ∧ (Instr.brzm { fB with lit := some 0 }).wf = true ∧
    (Instr.loop { zf with dst := .s 5, lit := some 0 }).wf = true ∧
    ((stB.rd gB).uni 0 none fB.sa &&& gB.live = 0 ∧ (stB.rd gB).uni 0 none .one &&& gB.live = gB.live) :=
  ⟨⟨rfl, rfl, rfl, ⟨rfl, rfl⟩, rfl⟩, by decide, by decide, rfl, by decide, targetOk_of (by decide), by decide, by decide, by decide, by decide, by decide, by decide⟩

/-- The branch-target fault of a jump: bits 1:0 set; word 1 of a line. -/
theorem wit_branchFault : Issues (st (gr 4)) (.group 0) (gr 4) ∧ (gr 4).results = [] ∧ (Instr.ret fB).wf = true ∧
    (let x := (0x1001 : W64)
     x.toNat < 2 ^ 57 ∧ x.toNat % 4 ≠ 0) ∧ (let x := (0x1004 : W64)
     x.toNat < 2 ^ 57 ∧ x.toNat / 4 % 32 < 2) ∧ RecRoom (st (gr 4)) (gr 4).ridge :=
  ⟨issues_st 4, rfl, by decide, by decide, by decide, recRoom_st _⟩

/-- SplitResults: a width above and at the named one; slice masks that name all, none and some slices. -/
theorem wit_split : Issues (st (gr 64)) (.group 0) (gr 64) ∧ (gr 64).width % 4 = 0 ∧ (∀ x ∈ (st (gr 64)).groups, x.id < (st (gr 64)).nextGroup) ∧
    (Instr.split { zf with dst := .s 7 }).wf = true ∧ (Instr.splitm { zf with dst := .s 7, sa := .s 4 }).wf = true ∧
    4 * 2 ^ (0 : BitVec 5).toNat < (gr 64).width ∧ (gr 64).width % (4 * 2 ^ (0 : BitVec 5).toNat) = 0 ∧
    (gr 64).width ≤ 4 * 2 ^ (4 : BitVec 5).toNat ∧ (Instr.split { zf with dst := .s 7, ext := 4 }).wf = true ∧
    (∀ k, k < (gr 64).slices → (0xFFFF : W64).getLsbD k = true) ∧ (∀ k, k < (gr 64).slices → (0xFFFF0000 : W64).getLsbD k = false) ∧
    (4 < (gr 64).slices ∧ (0xF0 : W64).getLsbD 4 = true ∧ (0xF0 : W64).getLsbD 0 = false) := by
  refine ⟨issues_st 64, ?_⟩
  decide

/-- ExitSleepFuse: SLEEP of 0 and of the greatest value; FUSE at its width and above it in a block of its own team. -/
theorem wit_exit : Issues (st (gr 4)) (.group 0) (gr 4) ∧ (Instr.exit zf).wf = true ∧ (Instr.sleep fB).wf = true ∧ Readable fB (gr 4) (gr 4).allLanes [(fB.sa, 1)] ∧
    (Instr.fuse { fB with dst := .s 21 }).wf = true ∧ 4 * 2 ^ (0 : BitVec 5).toNat ≤ (gr 4).width ∧ (gr 4).width < 4 * 2 ^ (1 : BitVec 5).toNat ∧
    (let hs := [gr 4, { gr 4 with id := 1, slice0 := 1, home := 4 }]
     let s : State := { st (gr 4) with groups := hs, nextGroup := 2 }
     s.ag? (.group 0) = some (gr 4) ∧ blockBroken (s.teamOf (gr 4)) (s.holders 0 0 0 2) (gr 4) 0 2 = false ∧ exitedIn (s.teamOf (gr 4)) 0 0 2 = false) :=
  ⟨issues_st 4, by decide, by decide, rfl, by decide, by decide, by decide, rfl, by decide, by decide⟩
/-! ### Witnesses: memory -/

/-- A group of w lanes whose s8 to s11 hold a record of 4096 bytes at 0x300000 with a lane stride of 4 (R120). -/
def regs (xs : List (Nat × W64)) : Vector W64 32 := Vector.ofFn fun i => ((xs.find? fun p => p.1 == i.val).map Prod.snd).getD 0

def rec8 : List (Nat × W64) := [(8, 0x300000), (9, 0x1000), (10, 4)]

def gm (w : Nat) : Group := { gr w with sregs := regs rec8 }

def fLd : LF := { zf with dst := .v 8, sa := .s 8, sb := .v 8, ty := .f32 }
def fSt : LF := { zf with sa := .s 8, sb := .v 8, sc := .v 8, ty := .f32 }
def fAt : LF := { zf with dst := .v 8, sa := .s 8, sb := .v 8, sc := .v 8, ty := .n32 }

theorem issues_gm (w : Nat) : Issues (st (gm w)) (.group 0) (gm w) := ⟨rfl, rfl, rfl, ⟨rfl, rfl⟩, rfl⟩

/-- The access that the memory instruction f of the group makes, and the places of its lanes. -/
def reqG (f : LF) (path n : Nat) (acc : Acc) : Req := memReq f .glob ((st (gm 4)).rd (gm 4)) path n acc
def offsOf (f : LF) : List (Nat × Int) := (activeLanes f (st (gm 4)) (gm 4)).map fun l => (l, memOffset f .glob ((st (gm 4)).rd (gm 4)) l)
def placesOf (l : Nat) : List Piece := [{ key := 0x300000 + 4 * l, n := 4, coh := true, va := 0x300000 + 4 * l }]

/-- Whether an access passes the checks that MemReady names. -/
def ready (s : State) (g : Group) (q : Req) (offs : List (Nat × Int)) (pieces : Nat → List Piece) : Bool :=
  (offs.all fun o => s.inBounds (.group 0) g q o.2 && q.alignAt o.2.toNat % q.n == 0 &&
    (pieces o.1).all fun p => p.coh) &&
  (let tr := if q.sp.paged then (s.transLines (.group 0) q.acc (offs.flatMap fun o => (s.locate (.group 0) g q o.1 o.2.toNat).map fun x => x.1 / 128)).1 else []
   offs.all fun o => placeLane q.sp.paged tr (s.locate (.group 0) g q o.1 o.2.toNat) == some (pieces o.1, []))

theorem ready_of {s : State} {g : Group} {q : Req} {offs : List (Nat × Int)} {pieces : Nat → List Piece} (h : ready s g q offs pieces = true)
    (hf : g.parkOp = none ∧ g.reserved = 0 ∧ g.redo = none ∧ g.watched = none ∧ g.raced = none) (hr : ∀ p, q.path = some p → g.counter p < 63)
    (he : g.emul = false) (hw : s.late = [] ∧ s.cut = none) (hp : s.poison = []) (hd : s.debug? g.core = none) (hc : ∀ c, s.ctx? g.ctx = some c → c.cflags.getLsbD 1 = false) :
    MemReady s 0 g q offs pieces (if q.sp.paged then
      (s.transLines (.group 0) q.acc (offs.flatMap fun o => (s.locate (.group 0) g q o.1 o.2.toNat).map fun x => x.1 / 128)).2 else s) := by
  simp only [ready, Bool.and_eq_true, List.all_eq_true, beq_iff_eq] at h
  obtain ⟨h1, h2⟩ := h
  refine ⟨hf, hr, fun o ho => (h1 o ho).1.1, fun o ho => (h1 o ho).1.2, ⟨he, hw.1, hw.2⟩, hp, hd, hc, ?_, fun o ho p hp => (h1 o ho).2 p hp⟩
  refine ⟨_, ?_, h2⟩
  split <;> rfl

theorem fresh_gm : (gm 4).parkOp = none ∧ (gm 4).reserved = 0 ∧ (gm 4).redo = none ∧ (gm 4).watched = none ∧ (gm 4).raced = none := ⟨rfl, rfl, rfl, rfl, rfl⟩

theorem ctx_gm : ∀ c, (st (gm 4)).ctx? (gm 4).ctx = some c → c.cflags.getLsbD 1 = false := by
  intro c h
  cases h
  rfl

theorem readable_gm (f : LF) (lanes : W64) (srcs : List (Spec × Nat)) : Readable f (gm 4) lanes srcs := by
  simp [Readable, hazardOf, gmStrict, gm, gr, Group.colReset]

set_option maxRecDepth 100000 in
/-- LoadResults: a load of four lanes through the record of s8. -/
theorem wit_load : Issues (st (gm 4)) (.group 0) (gm 4) ∧ (Instr.ld fLd).wf = true ∧ memSpace fLd (.ld fLd) = some (.glob, 0) ∧ fLd.isUni = false ∧
    (reqG fLd 0 4 .read).rcd.valid 4 = true ∧ offsOf fLd ≠ [] ∧ ∃ s1, MemReady (st (gm 4)) 0 (gm 4) (reqG fLd 0 4 .read) (offsOf fLd) placesOf s1 :=
  ⟨issues_gm 4, by decide, rfl, by decide, by decide, by decide, _,
    ready_of (by decide) fresh_gm (by intro p hp; cases hp; decide) rfl ⟨rfl, rfl⟩ rfl rfl ctx_gm⟩

set_option maxRecDepth 100000 in
/-- LoadResults, uniform. -/
theorem wit_loadUniform :
    let f : LF := { zf with dst := .s 5, sa := .s 8, sb := .zero, ty := .f32, ext := 8 }
    (Instr.ld f).wf = true ∧ f.isUni = true ∧ (reqG f 0 f.ty.size .read).rcd.valid f.ty.size = true ∧
      ∃ s1, MemReady (st (gm 4)) 0 (gm 4) (reqG f 0 f.ty.size .read) [(0, dispOf f + ((st (gm 4)).rd (gm 4)).offX f 0)] placesOf s1 :=
  ⟨by decide, by decide, by decide, _, ready_of (by decide) fresh_gm (by intro p hp; cases hp; decide) rfl ⟨rfl, rfl⟩ rfl rfl ctx_gm⟩

set_option maxRecDepth 100000 in
/-- StoreResults. -/
theorem wit_store : (Instr.st fSt).wf = true ∧ memSpace fSt (.st fSt) = some (.glob, 1) ∧ (reqG fSt 1 4 .write).rcd.valid 4 = true ∧
    reportsStore .glob fSt.ty (reqG fSt 1 4 .write).rcd = false ∧ Memory.wf (st (gm 4)).mem = true ∧
    ∃ s1, MemReady (st (gm 4)) 0 (gm 4) (reqG fSt 1 4 .write) (offsOf fSt) placesOf s1 :=
  ⟨by decide, rfl, by decide, by decide, by decide, _, ready_of (by decide) fresh_gm (by intro p hp; cases hp; decide) rfl ⟨rfl, rfl⟩ rfl rfl ctx_gm⟩

set_option maxRecDepth 100000 in
/-- AtomicResults. -/
theorem wit_atomic : (Instr.atom fAt).wf = true ∧ memSpace fAt (.atom fAt) = some (.glob, 1) ∧ atomSize fAt = 4 ∧
    (∀ l ∈ activeLanes fAt (st (gm 4)) (gm 4), (placesOf l).length = 1 ∧ ∀ p ∈ placesOf l, p.n = 4) ∧ 7 < 2 ^ Ty.n32.bits ∧
    ∃ s1, MemReady (st (gm 4)) 0 (gm 4) (reqG fAt 1 4 .atomic) (offsOf fAt) placesOf s1 :=
  ⟨by decide, rfl, by decide, by decide, by decide, _, ready_of (by decide) fresh_gm (by intro p hp; cases hp; decide) rfl ⟨rfl, rfl⟩ rfl rfl ctx_gm⟩

/-- PrefetchAndDiscard: the line at 0x300000 in the lane that is active. -/
def gd : Group := { gm 4 with sregs := regs [(8, 0x300000), (9, 0x1000), (1, 1)] }
def fDi : LF := { zf with sa := .s 8, sb := .v 8, guard := { inv := false, idx := 1 } }

set_option maxRecDepth 100000 in
theorem wit_discard : Issues (st gd) (.group 0) gd ∧ (Instr.pref fDi).wf = true ∧ (Instr.discard fDi).wf = true ∧
    activeLanes fDi (st gd) gd = [0] ∧ Readable fDi gd (activeOf fDi ((st gd).rd gd)) (sRun fDi.sa 4 ++ [(fDi.sb, 1)]) ∧
    (((st gd).rd gd).rcd fDi.sa).valid 1 = true ∧ (((st gd).rd gd).rcd fDi.sa).swz ≤ 4 ∧
    ∃ s1, MemReady (st gd) 0 gd { sp := .glob, rcd := ((st gd).rd gd).rcd fDi.sa, n := 128, path := some 1, acc := .write, plain := true }
      [(0, memOffset fDi .glob ((st gd).rd gd) 0)] (fun _ => [{ key := 0x300000, n := 128, coh := true, va := 0x300000 }]) s1 :=
  ⟨⟨rfl, rfl, rfl, ⟨rfl, rfl⟩, rfl⟩, by decide, by decide, by decide, rfl, by decide, by decide, _,
    ready_of (by decide) ⟨rfl, rfl, rfl, rfl, rfl⟩ (by intro p hp; cases hp; decide) rfl ⟨rfl, rfl⟩ rfl rfl (by intro c h; cases h; rfl)⟩

/-- MemoryBounds: a lane at the last byte of a window of 1024 bytes, and one at a misaligned offset in it; a lane of a record just beyond its extent. -/
def fLds : LF := { zf with dst := .v 8, sa := .s 4, sb := .v 8, ty := .f32 }
def gAt (x : W32) : Group := { gm 4 with lanes := List.replicate 4 (Lane.zero.setV 8 x) }
def qLds (g : Group) : Req := memReq fLds (.spad 0) ((st g).rd g) 2 4 .read

theorem wit_bounds : (Instr.lds fLds).wf = true ∧ (gm 4).counter 2 < 63 ∧ (gm 4).emul = false ∧ RecRoom (st (gm 4)) (gm 4).ridge ∧
    (st (gAt 1021)).inBounds (.group 0) (gAt 1021) (qLds (gAt 1021)) (memOffset fLds (.spad 0) ((st (gAt 1021)).rd (gAt 1021)) 0) = false ∧
    (∀ l, l < 4 → (st (gAt 1018)).inBounds (.group 0) (gAt 1018) (qLds (gAt 1018)) (memOffset fLds (.spad 0) ((st (gAt 1018)).rd (gAt 1018)) l) = true) ∧
    (memOffset fLds (.spad 0) ((st (gAt 1018)).rd (gAt 1018)) 0).toNat % 4 ≠ 0 ∧
    (∀ l ∈ activeLanes fLd (st (gAt 4093)) (gAt 4093), (st (gAt 4093)).inBounds (.group 0) (gAt 4093) (memReq fLd .glob ((st (gAt 4093)).rd (gAt 4093)) 0 4 .read)
      (globOffset fLd ((st (gAt 4093)).rd (gAt 4093)) (((st (gAt 4093)).rd (gAt 4093)).rcd fLd.sa) l) = false) ∧
    (((st (gAt 4093)).rd (gAt 4093)).rcd fLd.sa).strict = false := by
  refine ⟨by decide, by decide, rfl, recRoom_st _, by decide, ?_⟩
  decide

/-- Translation: an address that the table maps, one that it does not, and a physical address with a target. -/
theorem wit_translation : (st (gr 4)).tlb = [] ∧ (st (gr 4)).walk 0 0x300000 = .leaf (2 ^ 30) 0x01300000000000F3 0x201000 ∧
    ((st (gr 4)).translate 0 true .read 0x300000).1 = .ok 0x300000 0x01300000000000F3 ∧ ((st (gr 4)).translate 0 true .read 0x40000000).1 = .fail 0 ∧
    tierOf 0x300000 = some 0 := by
  refine ⟨rfl, by decide, by decide, by decide, by decide⟩

/-- FencesAndPathCounters: a counter at 0 and one at 1, thresholds below and at it. -/
def gBusy : Group := { gr 4 with ops := [{ path := 0, op := 9, lanes := 15 }] }

theorem wit_fences : Issues (st gBusy) (.group 0) gBusy ∧ (Instr.waitc fB).wf = true ∧ (Instr.cntrd { zf with dst := .s 8 }).wf = true ∧ (Instr.fence zf).wf = true ∧
    gBusy.counter 0 = 1 ∧ (0 : W64).toNat < gBusy.counter 0 ∧ gBusy.counter 0 ≤ (1 : W64).toNat ∧ (gr 4).lsZero = true ∧
    (Instr.fence { zf with mod := 4 }).wf = true ∧ (1 : Nat) ≤ ({ zf with mod := 4 } : LF).mod.toNat / 4 :=
  ⟨⟨rfl, rfl, rfl, ⟨rfl, rfl⟩, rfl⟩, by decide, by decide, by decide, by decide, by decide, by decide, by decide, by decide, by decide⟩
/-! ### Witnesses: the matrix engine and copies -/

theorem mtxReady_of {s : State} {id : Nat} {g : Group} {f : LF} {tiled : Bool} (hi : Issues s (.group id) g)
    (hu : g.watched = none ∧ g.raced = none ∧ g.parkOp = none)
    (h : ((!tiled || converged f (s.rd g) && s.tileOk g f.tile && !s.drainWaits g f.tile && !(s.tileOf g f.tile).err) && decide (g.counter 6 < 63) &&
      decide ((s.quadQueue g.core g.quad).length < 16) && !(s.audRegs g.ctx).admits g.audTag.toNat) = true)
    (hp : s.poison = []) (hc : ∀ c, s.ctx? g.ctx = some c → c.cflags.getLsbD 1 = false) : MtxReady s id g f tiled := by
  simp only [Bool.and_eq_true, Bool.or_eq_true, Bool.not_eq_true', decide_eq_true_eq] at h
  obtain ⟨⟨⟨h1, h2⟩, h3⟩, h4⟩ := h
  refine { hi with unwatched := hu, converged := ?_, tile := ?_, sound := ?_, room := ⟨h2, h3⟩, unaudited := h4, unspoiled := hp, unchecked := hc } <;>
    (intro ht; simp_all)

/-- A group of 16 lanes; its s8 to s11 hold a record of 128 bytes whose rows are 8 elements of 4 bytes, s12 the pitch 64 of a drain, and s16 to s21 a
shape record of one image of 2 rows of 2 pixels of 4 elements. -/
def gx : Group :=
  { gr 16 with sregs := regs [(8, 0x300000), (9, 0x80), (10, 0x800000000), (12, 0x4000000000), (16, 0x0001000400020002), (17, 0x0000010101010101),
      (18, 0x0000000000020002), (19, 0x0000000800000004), (20, 0x10)] }

theorem issues_gx : Issues (st gx) (.group 0) gx := ⟨rfl, rfl, rfl, ⟨rfl, rfl⟩, rfl⟩

theorem ctx_gx : ∀ c, (st gx).ctx? gx.ctx = some c → c.cflags.getLsbD 1 = false := by
  intro c h
  cases h
  rfl

def fMma : LF := { zf with dst := .zero, sa := .v 16, sb := .v 32, sc := .zero, ty := .f32, mod := 8 }
def fDrain : LF := { zf with dst := .v 16, ty := .f32 }
def fRecord : LF := { zf with dst := .v 16, sa := .s 8, sb := .s 4, ty := .f32 }
def sF : State := { st gx with mem := [(0x200000, 1), (0x200001, 0x10), (0x200002, 0x20), (0x201000, 0xF3), (0x201006, 0x30), (0x201007, 0x81)] }

/-- Whether a region is found. -/
def Region.found : Region → Bool
  | .ok _ _ _ => true
  | .stop _ => false

set_option maxRecDepth 100000 in
/-- MatrixOperationsAreQueued: a group of 16 lanes and each of its operations; the pitch of a drain at its least value and its window full. -/
theorem wit_matrix : MtxReady (st gx) 0 gx fMma true ∧ gx.results = [] ∧ (Instr.mma fMma).wf = true ∧ runOk fMma.sa (nregOf (fragWords fMma.ty) gx.width) = true ∧
    runOk fMma.sb (nregOf (fragWords fMma.ty) gx.width) = true ∧ (Instr.mzero zf).wf = true ∧ (Instr.mload { zf with sa := .v 16, ty := .f32 }).wf = true ∧
    runOk (.v 16) (nregOf 256 gx.width) = true ∧ (Instr.mdrain fDrain).wf = true ∧ runOk fDrain.dst (nregOf (drainWords fDrain.ty) gx.width) = true ∧
    (Instr.mrows { zf with dst := .v 16, ty := .f32 }).wf = true ∧
    (let f : LF := { zf with dst := .v 1, sb := .s 12, ty := .f32 }
     (Instr.mdrains f).wf = true ∧ (let u := (((st gx).rd gx).uni 3 f.lit f.sb).toNat
      let o := u % 2 ^ 32
      let pitch := u / 2 ^ 32
      o + 15 * pitch + 16 * f.ty.size = winSize (tm.window 1) ∧ pitch = 16 * f.ty.size ∧ winFmt (tm.window 1) = 0)) := by
  refine ⟨mtxReady_of issues_gx ⟨rfl, rfl, rfl⟩ (by decide) rfl ctx_gx, rfl, ?_⟩
  decide

/-- MCONV: a group with a shape of 8 elements and a position in its only region. -/
def gc : Group :=
  let x := Vector.toList gx.sregs
  { gx with shape := BitVec.ofNat 384 ((((x.drop 16).take 6).set 0 0x0001001000020002).set 3 0x0000002000000010 |>.set 4 0x40 |>.foldr (fun w n => w.toNat + 2 ^ 64 * n) 0) }

set_option maxRecDepth 100000 in
theorem wit_conv : MtxReady (st gc) 0 gc { zf with dst := .zero, sa := .s 8, sb := .v 32, sc := .s 4, ty := .f32, mod := 8 } true ∧
    (let f : LF := { zf with dst := .zero, sa := .s 8, sb := .v 32, sc := .s 4, ty := .f32, mod := 8 }
     let sh := Shp.of gc.shape
     let rc := ((st gc).rd gc).rcd f.sa
     (Instr.mconv f).wf = true ∧ gc.shape ≠ 0 ∧ sh.c % kbOf f.ty = 0 ∧ 0 * kbOf f.ty < sh.fh * sh.fw * sh.c ∧ rc.valid f.ty.size = true ∧ rc.rowlen ≠ 0 ∧
       sh.valid = true) :=
  ⟨mtxReady_of ⟨rfl, rfl, rfl, ⟨rfl, rfl⟩, rfl⟩ ⟨rfl, rfl, rfl⟩ (by decide) rfl (by intro c h; cases h; rfl), by decide⟩

set_option maxRecDepth 100000 in
/-- ShapeAndFragmentLoads: a shape record, and a fragment through a record. -/
theorem wit_shape : Issues (st gx) (.group 0) gx ∧ (Instr.mshape { zf with sa := .s 16 }).wf = true ∧
    (Shp.of (BitVec.ofNat 384 (((List.range 6).map fun k => gx.getS (16 + k)).foldr (fun w n => w.toNat + 2 ^ 64 * n) 0))).valid = true ∧
    MtxReady sF 0 gx fRecord false ∧ (Instr.ldf fRecord).wf = true ∧ fRecord.scl = false ∧ fRecord.isWin = false ∧ 16 ≤ gx.width ∧
    runOk fRecord.dst (nregOf (fragWords fRecord.ty) gx.width) = true ∧
    (let r := sF.rd gx
     (r.rcd fRecord.sa).valid fRecord.ty.size = true ∧ (r.rcd fRecord.sa).rowlen ≠ 0 ∧
       Region.found (sF.regionRecord (.group 0) gx fRecord (r.rcd fRecord.sa) (regionElems fRecord.roleB (kbOf fRecord.ty) 0 0)) = true) := by
  exact ⟨issues_gx, by decide, by decide, mtxReady_of ⟨rfl, rfl, rfl, ⟨rfl, rfl⟩, rfl⟩ ⟨rfl, rfl, rfl⟩ (by decide) rfl ctx_gx, by decide, by decide, by decide, by decide, by decide,
    by decide, by decide, by decide⟩

/-- A MZERO, and a MMA, of tile 2 in a matrix queue. -/
def mtxOp (i : Instr) : MtxOp :=
  { op := 3, ctx := 0, tlin := 0, core := 0, quad := 0, tile := some 2, width := 16, home := 0, rcd := { code := 0 }, trTag := 0, i := i
    a := List.replicate 256 0x3F800000, b := List.replicate 256 0x40000000 }

/-- TileOperationsComplete. -/
theorem wit_tile : ∀ i ∈ [Instr.mzero zf, .mload zf, .mma fMma], let s : State := { st gx with mtx := [mtxOp i], ev := .nat 3 }
    s.mtx.find? (fun x => x.op == 3) = some (mtxOp i) ∧ s.mtxReady (mtxOp i) = true ∧ s.mtxHeld (mtxOp i) = false ∧ (mtxOp i).lost = none ∧
    (mtxOp i).sampled = false ∧ s.team? 0 0 = some tm ∧ (tm.tile 0 2).err = false ∧ (tm.tile 0 2).bad = false := by
  intro i hi
  fin_cases hi <;> exact ⟨rfl, rfl, rfl, rfl, rfl, rfl, rfl, rfl⟩

/-- A group whose s8 to s11 and s12 to s15 hold records, and s16 to s21 a box of 2 rows of 16 bytes. -/
def gy : Group :=
  { gr 4 with sregs := regs [(8, 0x300000), (9, 0x1000), (12, 0x310000), (13, 0x1000), (18, 0x0000010000000010), (21, 0x0001000200000010)] }
def fCpy : LF := { zf with dst := .s 8, sa := .s 12, sb := .s 16 }
def fList : LF := { zf with dst := .s 8, sa := .s 12, sb := .s 22, sc := .v 8 }
def gz : Group := { gy with sregs := gy.sregs.set 27 0x0001000100000010 }

set_option maxRecDepth 100000 in
/-- CopiesAreQueued: a box, and a list of one row per lane; an empty active set. -/
theorem wit_copy : Issues (st gy) (.group 0) gy ∧ (Instr.cpy fCpy).wf = true ∧ activeLanes fCpy (st gy) gy ≠ [] ∧ gy.counter 5 < 63 ∧
    (let b := ((st gy).rd gy).sregs 2 fCpy.sb 6
     boxOk b false false = true ∧ (Box.of b).x = 16 ∧ (Box.of b).y = 2 ∧ (Box.of b).z = 1) ∧
    (let d := (st gy).copyEnd gy ((st gy).rd gy) 8 0 fCpy.dst
     d.space = 0 ∧ d.rcd.valid 0 = true ∧ d.strict = false ∧ d.size = 4096) ∧
    Issues (st gz) (.group 0) gz ∧ (Instr.cpyg fList).wf = true ∧ (Instr.cpys fList).wf = true ∧ boxOk (((st gz).rd gz).sregs 2 fList.sb 6) false true = true ∧
    activeLanes { fCpy with guard := { inv := false, idx := 1 } } (st gy) gy = [] := by
  exact ⟨⟨rfl, rfl, rfl, ⟨rfl, rfl⟩, rfl⟩, by decide, by decide, by decide, by decide, by decide, ⟨rfl, rfl, rfl, ⟨rfl, rfl⟩, rfl⟩, by decide, by decide, by decide, by decide⟩
/-! ### Witnesses: barriers, futures, semaphores and rings -/

/-- Two groups of a team: the first executes, and the second waits at park p. -/
def sBar (b : Barrier) (x : W64) (p : Park) : State :=
  let g := { gr 4 with sregs := (Vector.replicate 32 0).set 8 x }
  { st g with groups := [g, { g with id := 1, slice0 := 1, park := p, pnext := 0x1010 }], nextGroup := 2, teams := [{ tm with barriers := tm.barriers.set 1 b }] }

/-- A barrier of count n with k arrivals pending and no bytes, in generation 5. -/
def bar (n k : Nat) : Barrier := { w0 := BitVec.ofNat 64 (n + k * 2 ^ 16 + 5 * 2 ^ 26) }

def gBar (x : W64) : Group := { gr 4 with sregs := (Vector.replicate 32 0).set 8 x }
def fBar : LF := { zf with sa := .v 1, sb := .s 8 }
def fBarD : LF := { fBar with dst := .s 9 }

theorem barState (b : Barrier) (x : W64) (p : Park) : Issues (sBar b x p) (.group 0) (gBar x) ∧ (gBar x).results = [] ∧ Distinct (sBar b x p) ∧
    (sBar b x p).teamOf (gBar x) = some { tm with barriers := tm.barriers.set 1 b } := by
  refine ⟨⟨rfl, rfl, rfl, ⟨rfl, rfl⟩, rfl⟩, rfl, ⟨?_, ?_⟩, rfl⟩
  · simp [sBar, gr, st, Group.colReset]
  · simp [sBar, gr, st, Group.colReset]

/-- BarrierOperations: counts of 1 and 1023; a barrier with two arrivals pending, one that releases a waiting group, one that has none; generations that are
equal and that are not. -/
theorem wit_barriers : (Instr.barinit fBar).wf = true ∧ (Instr.barexp fBar).wf = true ∧ (Instr.bararr fBarD).wf = true ∧ (Instr.barwait fBarD).wf = true ∧
    (Instr.bartest fBarD).wf = true ∧ (∀ x : W64, ((sBar (bar 2 2) x .ready).rd (gBar x)).barNum fBar.sa = 1 ∧ 1 < tm.bcnt) ∧
    ((sBar (bar 2 2) 1 .ready).rd (gBar 1)).uni 1 none fBar.sb = 1 ∧ ((sBar (bar 2 2) 1023 .ready).rd (gBar 1023)).uni 1 none fBar.sb = 1023 ∧
    (gBar 0).lsZero = true ∧ (Bar.of (bar 2 2)).pend = 2 ∧ (Bar.of (bar 2 2)).tx = 0 ∧ (Bar.of (bar 2 1)).pend = 1 ∧ (Bar.of (bar 2 0)).pend = 0 ∧
    (Bar.of (bar 2 2)).gen = 5 ∧ (Bar.of (bar 2 2)).cnt ≠ 0 ∧ (Bar.of { bar 2 0 with w1 := 1 }).tx ≠ 0 := by
  refine ⟨by decide, by decide, by decide, by decide, by decide, fun _ => ⟨rfl, by decide⟩, by decide, by decide, by decide, by decide, by decide, by decide,
    by decide, by decide, by decide, by decide⟩

/-- PayloadTeamBarrierAndPhase: pending arrivals of 2 and 1; a team of which the other group waits and does not wait; a label. -/
def sPhase (x : W64) : State :=
  { sBar (bar 2 2) x .ready with mem := writeLine pt 0x1000 (nopLine false), cur := { agent := .group 0, next := 0x1014 } }

set_option maxRecDepth 100000 in
theorem wit_payload : (Instr.barpay fBarD).wf = true ∧ fBarD.ext.toNat ≠ 1 ∧ (Bar.of (bar 2 2)).pval = false ∧ (Instr.teambar zf).wf = true ∧ tm.phases = [] ∧
    (∃ w ∈ (sBar (bar 2 2) 0 .ready).groups, w.id ≠ 0 ∧ w.ctx = 0 ∧ w.tlin = 0 ∧ w.park ≠ .teambar) ∧
    (∀ w ∈ (sBar (bar 2 2) 0 .teambar).groups, w.id ≠ 0 → w.ctx = 0 → w.tlin = 0 → w.park = .teambar ∧ w.rest = none) ∧
    (Instr.phase { fBar with lit := some 0 }).wf = true ∧
    TargetOk (sPhase 0) (.group 0) ((gBar 0).pc.setWidth 64 + (0 : W32).signExtend 64) ((sPhase 0).fetchLine (.group 0) 0x1008).2 ∧
    phaseSize 4 0 false ≤ (sPhase 0).reserveFree 0 ∧ tm.freeSlot < 64 := by
  refine ⟨by decide, by decide, by decide, by decide, rfl, ⟨_, List.mem_cons_of_mem _ (List.mem_singleton.mpr rfl), by decide, rfl, rfl, by decide⟩, ?_, by decide,
    targetOk_of (by decide), by decide, by decide⟩
  intro w hw h0
  simp only [sBar, List.mem_cons, List.not_mem_nil, or_false] at hw
  rcases hw with rfl | rfl
  · exact absurd rfl h0
  · exact fun _ _ => ⟨rfl, rfl⟩

/-- FutureOperations: an empty cell and a full one, in a window. -/
def fFut : LF := { zf with dst := .s 8, sa := .v 1, sb := .s 4 }
def sFut (full : Bool) : State := { st (gr 4) with mem := if full then pt ++ [(spadKey 0 8, 1)] else pt }

theorem wit_future : ∀ full, Issues (sFut full) (.group 0) (gr 4) ∧ Sound (sFut full) ∧ Distinct (sFut full) ∧ Unwatched (sFut full) (gr 4) ∧
    (gr 4).counter (futPath fFut) < 63 ∧ (∃ off, (sFut full).cell (.group 0) (gr 4) fFut ((sFut full).rd (gr 4)) = .at_ (spadKey 0 0) off) ∧
    (readLE (sFut full).mem (spadKey 0 8) 8 % 2 = if full then 1 else 0) ∧ (Instr.fwait fFut).wf = true ∧ (Instr.ffill { fFut with sc := .s 5 }).wf = true ∧
    (Instr.fclr fFut).wf = true := by
  intro full
  cases full <;> exact ⟨⟨rfl, rfl, rfl, ⟨rfl, rfl⟩, rfl⟩, (by decide : Memory.wf _ = true), ⟨by decide, by decide⟩, ⟨⟨rfl, rfl⟩, rfl, rfl, ⟨rfl, rfl⟩, by intro c h; cases h; rfl⟩, by decide,
    ⟨0, rfl⟩, by decide, by decide, by decide, by decide⟩

/-- SemaphoreResults, RingResults: a record of 4096 bytes at 0x300000, whose first bytes are a counter of 3, or a ring of 2 entries of 16 bytes with 1 in use. -/
def gs (x : W64) : Group := { gr 4 with sregs := regs [(8, 0x300000), (9, 0x1000), (12, x)] }
def sSem (x : W64) : State := { st (gs x) with mem := pt ++ [(0x300000, 3)] }
def sRing (x : W64) : State := { st (gs x) with mem := pt ++ [(0x300000, 3), (0x300004, 2), (0x300008, 1), (0x30000C, 4)] }
def fSem : LF := { zf with dst := .s 9, sa := .s 8, sb := .s 20, sc := .s 12 }

/-- The place of one access of n bytes at offset 0 of the record. -/
def isAt (x : Spot) (n : Nat) : Bool :=
  match x with
  | .at_ p t => p == { key := 0x300000, n := n, coh := true, va := 0x300000 } && Memory.wf t.mem
  | _ => false

set_option maxRecDepth 100000 in
theorem wit_semaphore : Issues (sSem 3) (.group 0) (gs 3) ∧ Unwatched (sSem 3) (gs 3) ∧ (gs 3).counter 1 < 63 ∧ (gs 3).lsZero = true ∧
    (Instr.semsig fSem).wf = true ∧ (Instr.semwait fSem).wf = true ∧
    isAt ((sSem 3).spot (.group 0) (gs 3) (((sSem 3).rd (gs 3)).rcd fSem.sa) .atomic (dispOf fSem + ((sSem 3).rd (gs 3)).offX fSem 0) 8 true) 8 = true ∧
    isAt ((sSem 4).spot (.group 0) (gs 4) (((sSem 4).rd (gs 4)).rcd fSem.sa) .atomic (dispOf fSem + ((sSem 4).rd (gs 4)).offX fSem 0) 8 false) 8 = true ∧
    readLE (sSem 3).mem 0x300000 8 = 3 ∧ ((sSem 3).rd (gs 3)).uni 2 none fSem.sc = 3 ∧ ((sSem 4).rd (gs 4)).uni 2 none fSem.sc = 4 ∧ (sSem 3).waiters = [] :=
  ⟨⟨rfl, rfl, rfl, ⟨rfl, rfl⟩, rfl⟩, ⟨⟨rfl, rfl⟩, rfl, rfl, ⟨rfl, rfl⟩, by intro c h; cases h; rfl⟩, by decide, by decide, by decide, by decide, by decide, by decide, by decide, by decide,
    by decide, rfl⟩

/-- A group that waits for n at the counter since time 0, for at most 10 ns. -/
def waiter (n : W64) : Waiter := { order := 0, gid := some 0, key := 0x300000, va := 0x300000, n := n, scope := 0, since := 0, limit := 10, ridge := 0, ctx := 0, slot := some 0 }
def sWait (n : W64) : State :=
  let g := { gs 3 with park := .semwait (.s 9), pnext := 0x1010 }
  { sSem 3 with groups := [g], waiters := [waiter n], ev := .nat 0, time := 160 }

set_option maxRecDepth 100000 in
theorem wit_waiter : (sWait 3).waiters.find? (fun x => x.order == (waiter 3).order) = some (waiter 3) ∧ (waiter 3).ring = false ∧
    ((sWait 3).group? 0).isSome = true ∧ Sound (sWait 3) ∧ (match (sWait 3).trans (.group 0) .atomic 0x300000 with
      | (.ok k _, t) => k == 0x300000 && Memory.wf t.mem
      | _ => false) = true ∧ (waiter 3).n.toNat = readLE (sWait 3).mem 0x300000 8 ∧ readLE (sWait 4).mem 0x300000 8 < (waiter 4).n.toNat ∧
    (waiter 3).told = false ∧ (waiter 3).limit ≠ 0 ∧ (waiter 3).since + 16 * (waiter 3).limit = (sWait 3).time ∧
    ((sWait 3).ctxD 0).stop ≠ .stopped ∧ (gs 3).lsZero = true ∧ (waiter 3).before (waiter 3) = false :=
  ⟨rfl, rfl, rfl, (by decide : Memory.wf _ = true), by decide, by decide, by decide, rfl, by decide, rfl, by decide, by decide, by decide⟩

set_option maxRecDepth 100000 in
theorem wit_ring : Issues (sRing 1) (.group 0) (gs 1) ∧ Sound (sRing 1) ∧ (Instr.rngres fSem).wf = true ∧ (Instr.rngres { fSem with mod := 1 }).wf = true ∧
    (Instr.rngpub { fSem with dst := .v 0 }).wf = true ∧
    isAt ((sRing 1).spot (.group 0) (gs 1) (((sRing 1).rd (gs 1)).rcd fSem.sa) .atomic (dispOf fSem + ((sRing 1).rd (gs 1)).offX fSem 0) 16 false) 16 = true ∧
    (let m := (sRing 1).mem
     readLE m 0x300000 4 = 3 ∧ readLE m 0x300004 4 = 2 ∧ readLE m 0x300008 4 = 1 ∧ readLE m 0x30000C 4 = 4) ∧
    ((sRing 1).rd (gs 1)).uni 2 none fSem.sc = 1 ∧ ((sRing 2).rd (gs 2)).uni 2 none fSem.sc = 2 :=
  ⟨⟨rfl, rfl, rfl, ⟨rfl, rfl⟩, rfl⟩, (by decide : Memory.wf _ = true), by decide, by decide, by decide, by decide, by decide, by decide, by decide⟩
/-! ### Witnesses: the service engine -/

def colG (xs : List (Nat × W64)) (c : Col := svc) : Col := { c with g := { c.g with sregs := regs xs } }
def fSys : LF := { zf with dst := .s 9, sa := .s 8, sb := .s 12, sc := .zero, ext := 1 }
def mon : Col := { svc with cstat := 0x201, msave := 0x101, mepc := 0x10008 }

theorem issues_col (c : Col) (h : c.g.rest = none) (hf : c.g.srHeld = none ∧ c.g.reserved = 0) (hb : c.g.bad = []) :
    Issues (sc c) (.col 0) c.g := ⟨rfl, rfl, h, hf, hb⟩

def handlerOk (s : State) : Bool :=
  decide ((s.col 0).priv = .service) && (s.col 0).ie && decide ((s.col 0).cvec.toNat < 2 ^ 57) && (s.target? 0 (s.col 0).cvec.toNat true).1 && !s.lateLs (.col 0)

theorem handler_of {s : State} (h : handlerOk s = true) : HandlerReady s 0 := by
  simp only [handlerOk, Bool.and_eq_true, decide_eq_true_eq, Bool.not_eq_true'] at h
  exact ⟨h.1.1.1.1, h.1.1.1.2, ⟨h.1.1.2, h.1.2⟩, h.2⟩

def monitorOk (s : State) : Bool :=
  decide ((s.col 0).monvec.toNat < Config.monitorRegion) && ((s.setCol 0 ((s.col 0).setPrv 2)).target? 0 (s.col 0).monvec.toNat false).1 && !s.lateLs (.col 0)

theorem monitor_of {s : State} (h : monitorOk s = true) : MonitorReady s 0 := by
  simp only [monitorOk, Bool.and_eq_true, decide_eq_true_eq, Bool.not_eq_true'] at h
  exact ⟨h.2, h.1.1, h.1.2⟩

set_option maxRecDepth 100000 in
/-- SystemRegisterAccess: bank 0 and bank 1 from a col; the bounds of RSLICE; a bank of the monitor; a group and a bank above its own. -/
theorem wit_sysreg : assigned 1 3 = true ∧ assigned 0 2 = true ∧ assigned 2 0x42 = true ∧ assigned 6 0x10 = true ∧ (Instr.sysrd { fSys with sa := .v 0 }).wf = true ∧
    (Instr.syswr { fSys with dst := .v 0 }).wf = true ∧
    (let c := colG [(12, 3), (8, 9999)]
     Issues (sc c) (.col 0) c.g ∧ c.g.results = [] ∧ ((sc c).rd c.g).uni 1 none fSys.sb = 3) ∧
    (let c := colG [(12, 0x42), (8, 9999)]
     HandlerReady (sc c) 0 ∧ (((sc c).rd c.g).uni 0 none fSys.sa).toNat % 2 ^ 48 < 10000) ∧
    (let c := colG [(12, 0x42), (8, 10000)]
     10000 ≤ (((sc c).rd c.g).uni 0 none fSys.sa).toNat % 2 ^ 48) ∧ ((sc mon).col 0).priv = .monitor ∧
    Issues (st (gr 4)) (.group 0) (gr 4) ∧ RecRoom (st (gr 4)) (gr 4).ridge :=
  ⟨by decide, by decide, by decide, by decide, by decide, by decide, ⟨issues_col _ rfl ⟨rfl, rfl⟩ rfl, rfl, by decide⟩, ⟨handler_of (by decide), by decide⟩, by decide,
    by decide, issues_st 4, recRoom_st _⟩

/-- ColServices: a key slot that is valid and one that is not; no merges; an event pending and none; a mailbox with a message, and one full. -/
def sKey (x : W64) : State :=
  { sc (colG [(8, x)]) with keys := (Vector.replicate 1024 ({} : KeySlot)).set 1 { valid := true, ctr := 7 } }

set_option maxRecDepth 100000 in
theorem wit_colServices : (Instr.keysel { fSys with sb := .v 0, sc := .v 0, ext := 0 }).wf = true ∧
    ((sKey 1).key 1).valid = true ∧ ((sKey 1).key 2).valid = false ∧ (((sKey 1).rd (colG [(8, 1)]).g).uni 0 none (.s 8)) = 1 ∧
    Issues (sKey 1) (.col 0) (colG [(8, 1)]).g ∧
    (Instr.tlbinv { zf with sa := .s 8, sb := .s 12 }).wf = true ∧
    ((sKey 1).merges = [] ∧ (sKey 1).mtx = [] ∧ (sKey 1).late = []) ∧ (Instr.idle zf).wf = true ∧ ((sc svc).col 0).pending = false ∧
    ((sc { svc with cstat := 0x121 }).col 0).pending = true ∧ (Instr.msend { zf with dst := .s 20, sa := .s 8, sb := .s 8 }).wf = true ∧ svc.g.lsZero = true ∧
    (Instr.mrecv { zf with dst := .s 8 }).wf = true ∧ (Instr.mrecv { zf with dst := .s 8, ext := 1 }).wf = true := by
  refine ⟨by decide, rfl, rfl, by decide, ⟨rfl, rfl, rfl, ⟨rfl, rfl⟩, rfl⟩, by decide, ⟨rfl, rfl, rfl⟩, ?_⟩
  decide

set_option maxRecDepth 100000 in
/-- ExceptionEntryAndReturn: a col at service privilege with its handler, one at monitor privilege, one with IE clear, one whose PPRV is service. -/
theorem wit_exception : Issues (sc svc) (.col 0) svc.g ∧ (Instr.brk zf).wf = true ∧ (Instr.exit zf).wf = true ∧ (Instr.retx zf).wf = true ∧ HandlerReady (sc svc) 0 ∧
    MonitorReady (sc mon) 0 ∧ ((sc mon).col 0).priv = .monitor ∧
    (let c := { svc with cstat := 0x100 }
     MonitorReady (sc c) 0 ∧ ((sc c).col 0).priv = .service ∧ ((sc c).col 0).ie = false) ∧
    (Instr.trapc { zf with dst := .v 8, sa := .v 8 }).wf = true ∧ MonitorReady (sc svc) 0 ∧ ((sc svc).col 0).priv = .service ∧
    activeLanes { zf with dst := .v 8, sa := .v 8 } (sc svc) svc.g ≠ [] ∧
    (let c := { svc with cstat := 0x104 }
     ((sc c).col 0).priv = .service ∧ ((sc c).col 0).cstat.extractLsb' 2 2 = 1) ∧
    (let c := { svc with cstat := 0x121 }
     HandlerReady (sc c) 0 ∧ ((sc c).col 0).run = .running ∧ ((sc c).col 0).g.park = .ready ∧ ((sc c).col 0).tm = true) :=
  ⟨issues_svc, by decide, by decide, by decide, handler_of (by decide), monitor_of (by decide), by decide, ⟨monitor_of (by decide), by decide, by decide⟩,
    by decide, monitor_of (by decide), by decide, by decide, ⟨by decide, by decide⟩, ⟨handler_of (by decide), by decide, by decide, by decide⟩⟩

/-- TrapAndResume: a call of lanes with the same word; a group that waits for a call, one that is held, one that is halted at a breakpoint. -/
def trapped (p : Park) (h : Option Halt) : Group := { gr 4 with park := p, mask := 3, pnext := 0x1010, halted := h }
def sResume (q : Group) : State := { sc (colG [(12, 3), (13, 0x500000006)]) with groups := [q], nextGroup := 1 }
def fResume : LF := { zf with sa := .s 8, sb := .s 12, sc := .s 13 }

theorem wit_trap : (Instr.trapc { zf with dst := .v 8, sa := .v 8 }).wf = true ∧ (gr 4).lsZero = true ∧
    activeLanes { zf with dst := .v 8, sa := .v 8 } (st (gr 4)) (gr 4) = [0, 1, 2, 3] ∧
    activeLanes { zf with dst := .v 8, sa := .v 8, guard := { inv := false, idx := 1 } } (st (gr 4)) (gr 4) = [] ∧ (Instr.brk zf).wf = true ∧
    (Instr.resume fResume).wf = true ∧ (Instr.resume { fResume with ext := 1 }).wf = true ∧ (Instr.resume { fResume with ext := 2 }).wf = true ∧
    (∀ p h, let q := trapped p h
      let c := colG [(12, 3), (13, 0x500000006)]
      Issues (sResume q) (.col 0) c.g ∧ ((sResume q).rd c.g).uni 0 none fResume.sa = 0 ∧ (sResume q).findGroup 0 (Hnd.of 0) = some (.res q) ∧
        (sResume q).group? q.id = some q ∧ ((sResume q).ctxD q.ctx).stop ≠ .stopped ∧ q.rest = none ∧ q.mask ≠ 0 ∧ q.reserved = 0 ∧
        ((sResume q).rd c.g).uni 1 none fResume.sb = 3 ∧ q.mask &&& ~~~(3 : W64) = 0 ∧ q.mask &&& ~~~(1 : W64) ≠ 0) := by
  refine ⟨by decide, by decide, by decide, by decide, by decide, by decide, by decide, by decide, ?_⟩
  intro p h
  exact ⟨⟨rfl, rfl, rfl, ⟨rfl, rfl⟩, rfl⟩, rfl, by simp [State.findGroup, Hnd.of, bitsOf, sResume, sc, trapped, gr, Group.colReset, Group.gnum], rfl, (by decide : Stop.none ≠ Stop.stopped), rfl, by simp [trapped], rfl, rfl, by simp [trapped], by simp [trapped]⟩

/-! ### Witnesses: images -/

def sImg : State := { sc (colG [(12, 0x20000)]) with contexts := [{ cx with stop := .stopped }] }
def fImg : LF := { zf with dst := .s 9, sa := .s 8, sb := .s 12 }

def Run.found : Run → Bool
  | .ok ks s => Memory.wf s.mem && decide (ks.Pairwise fun x y => x + 128 ≤ y ∨ y + 128 ≤ x)
  | .stop _ => false

set_option maxRecDepth 100000 in
/-- ContextImages: the header of a stopped context, its key slot, and its section's lines. -/
theorem wit_image : (let c := colG [(12, 0x20000)]
      Issues sImg (.col 0) c.g ∧ c.g.results = [] ∧ Distinct sImg ∧ (sImg.rd c.g).uni 1 none fImg.sb = 0x20000) ∧ (Instr.saveg fImg).wf = true ∧
    (Instr.loadg fImg).wf = true ∧ (sImg.saveObject 0 0 (Hnd.of 0)).isSome = true ∧ (sImg.ctxD 0).stop = .stopped ∧ sImg.slotBad 0 0 = false ∧ sImg.late = [] ∧
    Run.found (sImg.imageRun 0 (.col 0) (colG [(12, 0x20000)]).g .write false 0x20000 400) = true ∧ ({ sImg with teams := [] } : State).loadOk 0 0 (Hnd.of 0) = true :=
  ⟨⟨⟨rfl, rfl, rfl, ⟨rfl, rfl⟩, rfl⟩, rfl, ⟨by decide, by decide⟩, by decide⟩, by decide, by decide, by decide, by decide, by decide, rfl, by decide, by decide⟩

/-- GroupRecordRoundTrip. -/
theorem wit_shapeWord : (gr 4).shape.toNat < 2 ^ 304 := by
  have h : (gr 4).shape = 0 := rfl
  simp [h]

theorem wit_record : (gr 4).pc.toNat % 4 = 0 ∧ (gr 4).width ∈ [4, 8, 16, 32, 64] ∧ (gr 4).home < 2 ^ 32 ∧ (gr 4).root < 32 ∧ 63 < 256 ∧
    (gr 4).fstat &&& modeBits 1 = (gr 4).fstat ∧ (gr 4).mstat &&& modeBits 2 = (gr 4).mstat ∧ (gr 4).fctl &&& modeBits 3 = (gr 4).fctl := by decide
/-! ### Witnesses: network, trace and audit instructions -/

/-- A context of two ranks with window 3 open and a ring for its notices; a group whose s8 to s11 hold a record, s12 to s15 a message of 16 bytes, s16 a
reference to rank 1, and s20 to s23 the descriptor of window 4. -/
def mem1 : Member := { ident := 1, addr := 0, port := 0, ctx := 0, paths := 1 }
def win3 : Win := { idx := 3, base := 0x300000, len := 0x1000, perm := 7, key := 9, gen := 1, notif := 0x310000 }
def cn : Context := { cx with members := [mem1, { mem1 with ident := 2 }], wins := [win3] }
def gn : Group := { gr 4 with sregs := regs [(8, 0x300000), (9, 0x1000), (13, 16), (16, 1), (17, 3), (20, 0x320000), (21, 0x0704000000001000)] }
def sn (m : List (Nat × Byte)) : State := { st gn with contexts := [cn], mem := pt ++ m }
def fNet : LF := { zf with dst := .s 25, sa := .s 8, sb := .s 16, sc := .s 12 }
def fOpen : LF := { zf with dst := .s 25, sa := .s 24, sb := .s 20 }
def fWaitN : LF := { zf with dst := .s 26, sa := .s 17 }

theorem issues_sn (m : List (Nat × Byte)) : Issues (sn m) (.group 0) gn ∧ gn.results = [] ∧ Unwatched (sn m) gn :=
  ⟨⟨rfl, rfl, rfl, ⟨rfl, rfl⟩, rfl⟩, rfl, ⟨⟨rfl, rfl⟩, rfl, rfl, ⟨rfl, rfl⟩, by intro c h; cases h; rfl⟩⟩

def transIs (x : Trans × State) (key : Nat) : Bool :=
  match x with
  | (.ok k _, s) => k == key && Memory.wf s.mem
  | _ => false

set_option maxRecDepth 100000 in
/-- NetworkInstructions: a message within its record, to rank 1; an empty ring and one with an entry; a window that is open and one that was never. -/
theorem wit_network : (Instr.nput fNet).wf = true ∧ (Instr.nget fNet).wf = true ∧ (Instr.nputi fNet).wf = true ∧ (Instr.nputa { fNet with ty := .f32 }).wf = true ∧
    (Instr.natom { fNet with sa := .v 0, sc := .s 4, ty := .n32 }).wf = true ∧ refBad cn 1 (((sn []).rd gn).sregs 12 (.s 4) 4) 0 0 = false ∧ activeLanes fNet (sn []) gn ≠ [] ∧ gn.counter 7 < 63 ∧
    (let r := (sn []).rd gn
     let m := r.sregs 12 fNet.sc 4
     refBad cn (r.uni 1 fNet.lit fNet.sb).toNat m 1 4194304 = false ∧ (r.rcd fNet.sa).valid 0 = true ∧ (m.getD 1 0).toNat = 16 ∧ (r.rcd fNet.sa).extent = 4096) ∧
    (Instr.nwaitn fWaitN).wf = true ∧ (((sn []).ctx? 0).bind (·.win? 3)) = some win3 ∧ transIs ((sn []).trans (.group 0) .atomic win3.notif) 0x310000 = true ∧
    (let m := (sn [(0x310000, 1), (0x31000C, 4)]).mem
     readLE m 0x310000 4 = 1 ∧ readLE m 0x310004 4 = 0 ∧ readLE m 0x310008 4 = 0 ∧ readLE m 0x31000C 4 = 4) ∧
    (Instr.nwopen fOpen).wf = true ∧ (let d := ((sn []).rd gn).sregs 12 fOpen.sb 4
     descOk d = true ∧ bitsOf (d.getD 1 0).toNat 55 48 = 4 ∧ (d.getD 2 0).toNat % 16 = 0 ∧ (d.getD 3 0).toNat % 8 = 0) ∧ gn.lsZero = true ∧ cn.win? 4 = none ∧
    (Instr.nwrev { zf with dst := .s 25, sa := .s 17 }).wf = true ∧ cn.win? 3 = some win3 ∧ win3.gen % 2 = 1 := by
  refine ⟨by decide, by decide, by decide, by decide, by decide, by decide, by decide, by decide, by decide, by decide, rfl, ?_⟩
  decide

/-- TraceAndAuditInstructions: a tenant that admits the record; an audit area; a group that may be written. -/
def tn : Tenant := { num := 0, base := 0, logn := 6, mode := 1, classes := 0xFFF, kinds := 2 ^ 200 - 1, tagv := 0, tagm := 0 }
def sTr : State := { st (gr 4) with trc := { tenants := [tn] }, aud := { regs := [{ ctx := 0, actl := 1, aarea := 0x310000 }] } }
def fTr : LF := { zf with sa := .s 8 }

set_option maxRecDepth 100000 in
theorem wit_trace : Issues sTr (.group 0) (gr 4) ∧ (Instr.trace fTr).wf = true ∧ sTr.tenant? (sTr.tenantNum 0) = some tn ∧ tn.admits 0 0x16 0 = true ∧ tn.shut ((gr 4).src 0) = false ∧
    (Instr.trtag fTr).wf = true ∧ (Instr.trflush { zf with dst := .s 8 }).wf = true ∧ sTr.ownRecs (.group 0) (gr 4) (sTr.recsMade (.group 0)) = 0 ∧ (Instr.audtag fTr).wf = true ∧
    (Instr.audrd { fTr with dst := .s 9, sb := .s 12, sc := .zero }).wf = true ∧ cntOff 1 63 67 = some (1024 * 63 + 256 + 8 * 67) ∧ cntOff 1 64 0 = none ∧
    (sTr.audRegs 0).actl.getLsbD 0 = true ∧ (sTr.audRegs 0).aarea ≠ 0 ∧ transIs (sTr.translate 0 false .read 0x310000) 0x310000 = true ∧
    (Instr.audclr { fTr with sc := .zero, ext := 2 }).wf = true ∧ (Instr.audclr { fTr with sc := .zero, ext := 5, sb := .s 12 }).wf = true ∧
    ((sTr.audRegs 0).write 1 5).isSome = true ∧ sTr.audSynced (.group 0) = true ∧ sTr.writable { gr 4 with park := .sleep 1 1 } = true := by
  refine ⟨⟨rfl, rfl, rfl, ⟨rfl, rfl⟩, rfl⟩, by decide, rfl, ?_⟩
  decide
/-! ### Witnesses: events -/

/-- GroupEvents: one group alone in each of the situations of the clauses. -/
def ev (e : EvArg) (g : Group) : State := { st g with ev := e }
def gRes : Group := { gr 4 with results := [{ writes := [.s 3 9], flags := [(0, 4)] }] }
def gOps : Group := { gr 4 with ops := [{ path := 0, op := 9, lanes := 15 }] }
def gPark (p : Park) : Group := { gr 4 with park := p, pnext := 0x1010 }

theorem distinct_ev (e : EvArg) (g : Group) (h : g.id = 0) : Distinct (ev e g) := ⟨by simp [ev, st], by simp [ev, st, h]⟩

def sFuse (time : Nat) (both : Bool) : State :=
  let p : Park := .fuse 1 0 false (.s 9)
  { st (gr 4) with
    groups := [gPark p, { gPark (if both then p else .ready) with id := 1, slice0 := 1, home := 4 }], nextGroup := 2, time := time
    ev := .nat 0
    fuses := [{ num := 0, core := 0, quad := 0, first := 0, len := 2, code := 1, tag := 0, strict := false, since := 0, fwin := 16
                arrived := if both then [(0, Vector.replicate 32 0), (1, Vector.replicate 32 0)] else [(0, Vector.replicate 32 0)] }] }

def pRec : PhaseRec := { slot := 0, grp := gPark .ready, carry := 5, q := false, bar := 1, gen := 5, size := 384, ended := some 0 }
def sPh : State := { ev (.nat 0) (gr 4) with groups := [], teams := [{ tm with phases := [pRec] }] }
def sStall : State :=
  { ev (.nat 0) (gPark .teambar) with time := 160, teams := [{ tm with stall := some (0, 10) }] }

set_option maxRecDepth 100000 in
theorem wit_groupEvents : (∀ g ∈ (ev (.nat 0) (gr 4)).inQuad 0, g.pass2 = false) ∧ (ev (.nat 0) (gr 4)).canIssue (.group 0) (gr 4) = true ∧
    ({ gr 4 with waited := 16, bound := 16 } : Group).due = true ∧ ({ gr 4 with waited := 15, bound := 16 } : Group).due = false ∧ ({ gr 4 with lost := [(3, 15)] } : Group).losses 3 = 15 ∧
    gRes.results[0]? = some { writes := [.s 3 9], flags := [(0, 4)] } ∧ gOps.ops[0]? = some { path := 0, op := 9, lanes := 15 } ∧ gOps.parkOp = none ∧
    (ev (.nat 0) (gPark .exiting)).groupWaits (gPark .exiting) 0 = false ∧ (ev (.nat 0) (gPark (.transl []))).untold (gPark (.transl [])) = false ∧
    (gPark (.drain .ls)).drained .ls = true ∧ (gPark (.fence 2 false)).lsZero = true ∧ (gPark (.sleep 1 16)).rest = none ∧ (gPark (.transl [])).park = .transl [] ∧
    (ev (.nat 0) (gPark .exiting)).blocked 0 0 0x11 0 = false ∧ (ev (.nat 0) (gPark (.transl []))).runs 0 = true ∧
    ((ev (.agentIdx (.group 0) 0) gOps).opLate 9 = false ∧ (ev (.agentIdx (.group 0) 0) gOps).groupWaits gOps 1 = false ∧ (ev (.agentIdx (.group 0) 0) gOps).recHeld gOps 0 = false) ∧ (sFuse 100000 false).fuseExpired (((sFuse 100000 false).fuses.headD ((sFuse 0 true).fuses.headD
      { num := 0, core := 0, quad := 0, first := 0, len := 0, code := 0, tag := 0, strict := false, since := 0, fwin := 0, arrived := [] }))) = true ∧
    ((sFuse 0 true).fuses.all fun x => (sFuse 0 true).fuseReady x) = true ∧
    ((sPh.readyPhases 0).map fun p => p.2.slot) = [0] ∧ sPh.mayEnter 0 = true ∧ (0, 0) ∈ sPh.freeRuns 0 1 ∧ rootAligned 0 0 0 = true ∧
    (sStall.teams.all fun t => sStall.stallDue t) = true := by
  refine ⟨by decide, by decide, by decide, by decide, by decide, by decide, by decide, rfl, by decide, by decide, rfl, rfl, ?_⟩
  decide

/-- EngineEvents: a copy of one row with its unit open, and written; a record of a tenant; a sampled quadrant. -/
def cop (done : List Nat) : CopyOp :=
  { op := 3, ctx := 0, tlin := 0, core := 0, rcd := { code := 0 }, trTag := 0, dst := { space := 1, key := spadKey 0 0, size := 1024 }
    src := { space := 1, key := spadKey 0 512, size := 512 }, x := 16, y := 1, rows := 1, doff := 0, soff := 0, drp := 0, srp := 0, dpp := 0, spp := 0
    done := done, bar := none }
def sCop (done : List Nat) : State := { st (gr 4) with copies := [cop done], ev := .nat2 3 0, mem := pt ++ [(spadKey 0 513, 7)] }
def trRec : TraceRec := { src := 0, bytes := List.replicate 32 1, core := 0, gid := none, num := 0 }
def dbg : Debug := { pcbrk := Vector.replicate 4 0, waddr := Vector.replicate 2 0, wctl := Vector.replicate 2 0, sampint := 0x100 }
def pick : Pick := { quad := 0, gid := 0, ctx := 0, tag := 0, src := 0, core := 0, gnum := 0, root := 0, width := 4, pc := 0x1000, levels := [0] }
def sRingT (tn : Tenant) : State := { ev (.nat 0) (gr 4) with trc := { tenants := [tn], debug := [(0, dbg)], picked := [pick] } }
def tnR : Tenant := { tn with base := 0x320000, buf := [trRec] }

set_option maxRecDepth 100000 in
theorem wit_engine : (sCop []).copyReady (cop []) = true ∧ (cop []).open_ 0 = true ∧ (cop [0]).left = [] ∧ (sCop [0]).copyHeld (cop [0]) = false ∧
    ((cop []).lost = none ∧ (sCop []).late = [] ∧ (sCop []).lag = false ∧ ({ sCop [] with lag := true } : State).lag = true) ∧
    (match (sCop []).copyUnit (cop []) 0 with
      | (.ok l, _, s) => Memory.wf s.mem && s.poison.isEmpty && decide ((l.map (·.1)).Nodup) && l.length == 16
      | _ => false) = true ∧
    ((sRingT tnR).ringHead tnR).isSome = true ∧ (sRingT tnR).ringFull tnR = false ∧ trRec.bytes.length = 32 ∧
    (sRingT { tn with mode := 2, fullSince := some 0 }).fullDue { tn with mode := 2, fullSince := some 0 } = false ∧
    ({ sRingT { tn with mode := 2, fullSince := some 0 } with time := 160000000 } : State).fullDue { tn with mode := 2, fullSince := some 0 } = true ∧
    (sRingT tn).writtenBack pick = true ∧ tn.shut pick.src = false ∧ (tn.buf.filter fun r => r.src == pick.src).length + 2 ≤ Config.traceBuffer ∧ (∀ r ∈ tnR.buf, r.src ≠ 0xB000) ∧ (sRingT { tn with drop := some { count := 1, shown := 1, src := 0, seq := 0, time := 0 } }).ringFull tn = false := by
  refine ⟨by decide, by decide, by decide, by decide, ⟨rfl, rfl, rfl, rfl⟩, by decide, by decide, ?_⟩
  decide

/-- Sample audits: a sample whose slot's page is the table's. -/
def smp : Sample := { ridge := 0, ctx := 0, tag := 0, ord := 0, tile := 0, rcd := { code := 0 }, aty := .f32, bty := .f32, a := [], b := [], sa := [], sb := 0, told := [], tnew := [] }
def sSmp : State :=
  { ev (.nat 0) (gr 4) with aud := { regs := [{ ctx := 0, actl := 1, aarea := 0x310000 }], samples := [smp] } }

set_option maxRecDepth 100000 in
theorem wit_sample : sSmp.nextSample 0 = some smp ∧ smp.bad = false ∧ sSmp.sampleHeld smp = false ∧ smp.lost = none ∧ (sSmp.audRegs 0).actl.getLsbD 24 = false ∧ bitsOf (sSmp.audRegs 0).actl.toNat 20 16 = 0 ∧
    (sSmp.beganWith smp).hot (divBin (sSmp.beginAudit smp).1.worst.1) = false ∧
    (match (sSmp.beginAudit smp).2.areaPlace 0 0 ((sSmp.beganWith smp).slotVa 0) with
      | (.at_ _, s) => Memory.wf s.mem
      | _ => false) = true :=
  ⟨rfl, rfl, by decide, rfl, by decide, by decide, by decide, by decide⟩
/-- ServiceCalls: a group that waits for its call, and each call with arguments that its rule accepts. -/
def call (num : W32) (args : List W32) : SysReq := { gid := 0, ridge := 0, lanes := 1, num := num, args := args }
def gCall : Group := { gPark (.trapc (.v 8)) with mask := 1 }
def cCall : Context :=
  { cx with descs := [{ num := 3, socket := false, write := true }, { num := 4, socket := true, write := true, kind := 0, peer := some (1, 80), port := 7 }] }
def sCall (num : W32) (args : List W32) : State := { ev (.nat 0) gCall with contexts := [cCall], sys := [call num args], mem := pt ++ [(0x300008, 1), (0x30000C, 6)] }

theorem serving (num : W32) (args : List W32) : Serving (sCall num args) (call num args) gCall 8 :=
  ⟨⟨0, rfl, rfl⟩, rfl, rfl, rfl, rfl, rfl, (by decide : Stop.none ≠ Stop.stopped), rfl⟩

theorem wit_calls : (∀ num args, Distinct (sCall num args)) ∧ knownCall 0x99 = false ∧ (call 1 [0, 0, 3]).arg64 0 = 0 ∧ (call 1 [1, 0, 15]).arg 2 = 15 ∧
    (call 2 [1, 0, 1, 0]).arg64 0 % 4096 ≠ 0 ∧ (call 3 [0, 16, 4096, 0, 3]).arg64 0 % 4096 = 0 ∧
    ((sCall 0x11 [3]).ctxD 0).desc? 3 = some { num := 3, socket := false, write := true } ∧ ((sCall 0x24 [4]).ctxD 0).desc? 4 ≠ none ∧
    ((sCall 0x24 [5]).ctxD 0).desc? 5 = none ∧ (call 0x20 [1, 65535]).arg 0 ≤ 1 ∧ (call 0x20 [1, 65535]).arg 1 < 65536 ∧ (call 0x20 [2, 0]).arg 0 > 1 ∧
    (call 0x31 [0, 0]).since + 16 * (call 0x31 [0, 0]).arg64 0 ≤ (sCall 0x31 [0, 0]).time ∧ (sCall 0x31 [1, 0]).time < (call 0x31 [1, 0]).since + 16 * (call 0x31 [1, 0]).arg64 0 ∧
    ((sCall 0x12 [3, 0x300000, 0, 1]).userKeys 0 .write 0x300000 1).isSome = true ∧ (Hdr.of (leBytes [0, 0, 0, 0, 0, 0, 0, 0, 1, 0, 0, 0, 6, 0, 0, 0])).ok = true ∧
    (Hdr.of (leBytes [0, 0, 0, 0, 0, 0, 0, 0, 1, 0, 0, 0, 6, 0, 0, 0])).logs = 6 ∧
    tm.winOk (winOf 0 128 0 0) = true ∧ fmtOk (bitsOf 0 3 0) = true ∧ (sCall 0x42 [0, 0, 0]).heldGroup 0 0 0 = none := by
  refine ⟨fun _ _ => ⟨by simp [sCall, ev, st], by simp [sCall, ev, st, gCall, gPark, gr, Group.colReset]⟩, ?_⟩
  decide

/-- A completion of the storage device that a read waits for. -/
def done : NvmeDone := { cmd := 7, sct := 0, sc := 0, data := [1, 2] }
def sDev : State := { sCall 0x12 [3, 0x300000, 0, 16] with
  ev := .nvme done, sys := [{ call 0x12 [3, 0x300000, 0, 16] with dev := some 7 }], mod := { (State.reset).mod with nvme := [(7, 0)] } }

theorem wit_device : sDev.mod.nvme.find? (fun p => p.1 == done.cmd) = some (7, 0) ∧ sDev.sys.find? (fun y => y.dev == some 7) = some { call 0x12 [3, 0x300000, 0, 16] with dev := some 7 } ∧
    sDev.group? 0 = some gCall ∧ (sDev.ctxD 0).stop = .none ∧
    sDev.moves 0 = false ∧ sDev.late = [] := ⟨rfl, rfl, rfl, rfl, rfl, rfl⟩

/-- ContextAndQueueEvents: a context in each state of a stop; a merge entry; a queue with a packet. -/
def sStop (x : Stop) : State := { ev (.nat 0) (gr 4) with contexts := [{ cx with stop := x }] }
def pkt (kind : Byte) : List Byte := [kind, 1, 0, 0] ++ List.replicate 60 0
def que (ph : QPhase) (b : List Byte) : Queue := { num := 0, ctx := 0, desc := 0x340000, phys := true, ring := 0x350000, n := 4, level := 0, idx := 0, ph := ph, pkt := b }
def sQue (ph : QPhase) (b : List Byte) : State := { ev (.nat 0) (gr 4) with queues := [que ph b] }
def merge0 : Merge := { num := 2, ctx := 0, page := 0, cause := 0, ridges := [], groups := [] }

theorem wit_contextEvents : ((sStop .none).ctxD 0).stop = .none ∧ ((sStop .hard).ctxD 0).stop = .hard ∧ (sStop .hard).quiet 0 = true ∧
    ((sStop (.soft 0 0)).ctxD 0).stop = .soft 0 0 ∧ ((sStop .stopped).ctxD 0).kstop = false ∧ (∀ v ∈ (sStop .stopped).saved, v.ctx ≠ 0) ∧
    ({ sStop .none with time := 32000000 } : State).sliceDue cx = true ∧ ({ sStop .none with time := 31999999 } : State).sliceDue cx = false ∧
    (sStop .none).rivals 0 0 = false ∧
    (({ sStop .none with merges := [merge0] } : State).merges.find? fun x => x.num == (2 : W64).toNat % 4096) = some merge0 ∧
    (let n := (0x10003 : W64).toNat % 64
     bitsOf (0x10003 : W64).toNat 25 16 = 1 ∧ n < tm.bcnt) ∧ (sQue .idle []).queue? 0 = some (que .idle []) ∧ packetOk (pkt 4) = true ∧ packetOk (pkt 5) = true ∧
    packetOk (pkt 6) = false ∧ (que (.taken 0) (pkt 4)).kind = 4 ∧ (field (pkt 4) 0 4).testBit 8 = true := by
  refine ⟨by decide, by decide, by decide, by decide, by decide, by decide, by decide, by decide, by decide, rfl, by decide, rfl, by decide, by decide, by decide, by decide,
    by decide⟩

/-- The monitor of the boot col with a call of each number. -/
def sMon (num : W32) (args : List W32) : State :=
  { sc { mon with call := some { dst := .v 8, num := num, args := args } } with ev := .nat 0 }

theorem wit_monitor : ∀ num args, Monitors (sMon num args) 0 num.toNat { dst := .v 8, num := num, args := args } 8 :=
  fun _ _ => ⟨rfl, by decide, (by decide : mon.priv = .monitor), rfl, rfl, rfl, rfl⟩

/-- NetworkEvents: a packet of one byte for window 3, whose connection is known. -/
def rxc : RxConn := { num := 5, ctx := 0, senderId := 6, rank := 1 }
def put0 : NetPkt :=
  { port := 0, kind := .put, retrans := false, sig := false, done := false, ce := false, path := 0, optTy := 0, optOp := 0, dconn := 5, msn := 0, pidx := 0, pcnt := 1
    win := 3, status := 0, gen := 1, key := 9, plen := 1, roff := 0xFFF, ext0 := 0, ext1 := 0, payload := [1] }
def sNet : State := { sn [] with net := { rx := [rxc] }, ev := .pkt put0 }

set_option maxRecDepth 100000 in
theorem wit_packet : Arrives sNet put0 .put sNet ∧ pktOk { put0 with path := 16 } .put = false ∧ Admitted sNet put0 rxc win3 ∧ pktReach put0 = win3.len ∧
    win3.len < pktReach { put0 with roff := 0x1000 } ∧ (match sNet.netKeys 0 .write ((List.range put0.plen).map fun j => win3.base + put0.roff + j) (fun _ => false) with
      | (.ok ks, s) => Memory.wf s.mem && decide ((ks.map Prod.fst).Nodup) && ks.length == 1
      | _ => false) = true ∧ pktOf 0 0 0 false [1, 2] = none ∧ (sNet.late = [] ∧ sNet.poison = [] ∧ sNet.lag = false) := by
  refine ⟨⟨⟨rfl, by decide⟩, .inr (.inl ⟨rfl, by decide, by decide, by decide, rfl⟩)⟩, by decide, ⟨⟨rfl, rfl, rfl, by decide⟩, rfl, by decide, by decide, by decide, by decide, by decide,
    by decide⟩, by decide, by decide, by decide, rfl, ⟨rfl, rfl, rfl⟩⟩

/-- The sender: an operation that has sent its packet, and waits. -/
def cn1 : Conn := { num := 4, ctx := 0, rank := 1, peer := some 5, tx := {} }
def nop1 (pkts : List TxPkt) : NetOp :=
  { op := 9, who := .group 0, ctx := 0, core := 0, rcd := { code := 0 }, trTag := 0, fn := 0, kind := .put, conn := 4, rank := 1, win := 3, gen := 1, key := 9, ty := .f32
    aop := 0, sig := false, lend := { space := 0, rc := [0x300000, 0x1000], size := 0x1000 }, loff := 0, len := 1, roff := 0, imm := 0, cmp := 0, dst := .zero, total := 1
    pkts := pkts, since := 0 }
def sSend (pkts : List TxPkt) (time : Nat) : State := { sn [] with net := { conns := [cn1], ops := [nop1 pkts] }, ev := .nat 4, time := time }

theorem wit_sender : (sSend [] 0).transmits 4 = some (nop1 []) ∧ (sSend [] 0).conn? 4 = some cn1 ∧ (sSend [{}] 0).opOf 4 0 = some (nop1 [{}]) ∧
    (nop1 [{}]).waitsAck 0 = some {} ∧ (sSend [{}] 1024000).ackDue {} = true ∧ (sSend [{}] 1023999).ackDue {} = false ∧
    (sSend [{}] 1600000000).deadlineDue (nop1 [{}]) = true ∧ (sSend [{}] 256000).busyOver { busyUntil := some 256000 } = true ∧ (sSend [{}] 0).opening (nop1 [{}]) = none ∧
    (match (sSend [] 0).packetData (nop1 []) 0 with
      | (.ok bs, _) => bs.length == 1
      | _ => false) = true ∧ (sSend [{}] 0).netHeld (nop1 [{}]) = false ∧ (sSend [{}] 0).awaits 9 false = false := by
  refine ⟨by decide, rfl, by decide, by decide, by decide, ?_⟩
  decide

set_option maxRecDepth 100000 in
/-- ModuleEvents: no image in flash; powers about the cap; a measurement that is due; and one that ends with slack at the second step. -/
theorem wit_module : (State.reset).mod.boot = .reset ∧ bootCheck (State.reset).mod.flash (State.reset).mod.fuses = (none, some 4) ∧ (State.reset).mod.log.length + 640 < logLimit ∧ (800 ≤ 2600 ∧ 2600 ≤ 2600) ∧
    ((State.reset).mod.cap < 2601 ∧ 2470 ≤ (State.reset).mod.cap ∧ (State.reset).mod.cap * 95 ≤ 2470 * 100 ∧ 2469 * 100 < (State.reset).mod.cap * 95) ∧
    ({ State.reset with time := 345600000000000 } : State).ageDue 639 = true ∧ (State.reset).ageDue 639 = false ∧
    ({ State.reset with time := 16000000, mod := { (State.reset).mod with calm := some 0 } } : State).calmLong = true ∧
    (∀ d code c a i, (State.reset).ev ≠ .upset d code c a i) ∧ structOf (0x300000 / 128 * 128) = 6 ∧ tierOf (0x300000 / 128 * 128) ≠ none ∧ (State.reset).poison = [] ∧ ((st (gr 4)).group? 0).isSome = true := by
  refine ⟨rfl, rfl, by decide, by decide, by decide, by decide, by decide, by decide, ?_, by decide, by decide, rfl, rfl⟩
  intro d code c a i h
  cases h
/-! ### Single steps and values, from the worked examples of the spec -/

/-- R233: the three FCLASS examples. -/
theorem test_fclass : classWord .f32 0xBF400000 = 0x0FFF001A ∧ classWord .f32 0x41000000 = 0x00030072 ∧ classWord .f32 0x7F800001 = 5 := by decide

/-- The table of R94's example: 1 + 2^-11 as h16 in every mode. -/
theorem test_h16_modes : ([Rnd.rne, .rna, .rz, .rdn, .rup].map fun m => (roundTo m 0 .h16 false false (fvOf .f32 0x3F801000)).1) = [0x3C00, 0x3C01, 0x3C00, 0x3C00, 0x3C01] ∧
    ([Rnd.rne, .rna, .rz, .rdn, .rup].map fun m => (roundTo m 0 .h16 false false (fvOf .f32 0xBF801000)).1) = [0xBC00, 0xBC01, 0xBC00, 0xBC01, 0xBC00] := by decide

/-- R100's example: 1 + 2^-9 as b16 under sr, with random bits on either side of a quarter. -/
theorem test_b16_sr : (roundTo .sr 0x3FFFFF .b16 false false (fvOf .f32 0x3F804000)).1 = 0x3F81 ∧ (roundTo .sr 0x400000 .b16 false false (fvOf .f32 0x3F804000)).1 = 0x3F80 := by decide

/-- R90's example: 11/64 (f32 0x3E300000) and 0.7 as ds8. -/
theorem test_ds8 : (roundTo .rne 0 .ds8 false false (fvOf .f32 0x3E300000)).1 = 0x34 ∧ (roundTo .rz 0 .ds8 false false (fvOf .f32 0x3E300000)).1 = 0x35 ∧
    (roundTo .rna 0 .ds8 false false (fvOf .f32 0x3E300000)).1 = 0x34 ∧ (roundTo .rne 0 .ds8 false false (fvOf .f32 0x3F333333)).1 = 0x12 := by decide

/-- R199's example: SWZ 2, rs 7 and nb 3 send 0x190 to 0x1A0. -/
theorem test_swizzle : (Rcd.ofRegs [0x2000000000000000, 0, 0x00C7000000000000, 0]).swizzle 0x190 = 0x1A0 := by decide

/-- R256's example: f8e4 A element (5, 77) is in bits 15:8 of register 11 of lane 3 at width 16. -/
theorem test_fragment : fragElem .f8e4 ((List.replicate (11 * 16 + 3) 0) ++ [0x0000AB00]) 5 77 = 0xAB := by decide

/-- R165's example: BRZM with s5 = 0xFFFF_0000_0000_0000 branches at width 16 and falls through at width 64. -/
def gBr (w : Nat) : Group := { gr w with sregs := regs [(5, 0xFFFF000000000000)] }
def sBr (w : Nat) : State := { st (gBr w) with mem := writeLine pt 0x1080 (nopLine false), cur := { agent := .group 0, next := 0x1014 } }
def pcAfter (x : Out State) : Nat :=
  match x with
  | .next t => ((t.group? 0).map fun g => g.pc.toNat).getD 0
  | _ => 0

set_option maxRecDepth 100000 in
theorem test_brzm : decodeWords [0x80400AA0, 0, 0x80] = .ok (.brzm { zf with sa := .s 5, lit := some 0x80 }) ∧
    pcAfter (exec (.brzm { zf with sa := .s 5, lit := some 0x80 }) (sBr 16)) = 0x1088 ∧
    pcAfter (exec (.brzm { zf with sa := .s 5, lit := some 0x80 }) (sBr 64)) = 0x1014 := by decide

/-- R184's example: the order C, B, D, E, A of five ready groups, of which the first four fit. -/
def sIssue : State :=
  let g := fun (id w ctx : Nat) (pri : BitVec 3) (age : Nat) => { gr w with id := id, ctx := ctx, pri := pri, age := age, slice0 := id }
  { st (gr 4) with
    groups := [g 0 32 1 1 0, g 1 16 2 3 3, g 2 8 2 3 5, g 3 4 2 0 0, g 4 4 3 7 0]
    contexts := [{ cx with ctx := 1, clevel := 2 }, { cx with ctx := 2, clevel := 20 }, { cx with ctx := 3, clevel := 5 }] }

set_option maxRecDepth 100000 in
theorem test_issue_order : (sortBy sIssue.before sIssue.groups).map (·.id) = [2, 1, 3, 4, 0] ∧
    (sIssue.fill (sortBy sIssue.before sIssue.groups) 4 32).map (·.id) = [2, 1, 3, 4] := by decide

/-! ### Witnesses: accesses and results beside the plain ones -/

/-- Prompt: no tenant, and no wake that waits. -/
theorem wit_prompt : Prompt (st (gr 4)) 0 := ⟨fun _ h => (by cases h), rfl⟩

/-- FloatExceptionFault: a register of each file holds an uncorrectable error. -/
def gBad : Group := { gr 4 with bad := [.s 8 0, .v 3 8 0] }

theorem wit_uncorrectable : (st gBad).cur.agent = .group 0 ∧ (st gBad).group? 0 = some gBad ∧ gBad.results = [] ∧ RecRoom (st gBad) gBad.ridge ∧
    (Instr.sadd { zf with dst := .s 9, sa := .s 8, sb := .s 9 }).wf = true ∧ Write.s 8 0 ∈ gBad.bad ∧
    (Instr.vadd { zf with dst := .v 9, sa := .v 8, sb := .v 9 }).wf = true ∧ 3 ∈ activeLanes { zf with dst := .v 9, sa := .v 8, sb := .v 9 } (st gBad) gBad ∧
    Write.v 3 8 0 ∈ gBad.bad :=
  ⟨rfl, rfl, rfl, recRoom_st gBad, by decide, by decide, by decide, by decide, by decide⟩

/-- MemoryBounds: the record of s8 holds two elements, so lanes 2 and 3 are out of bounds. -/
def gMix : Group := { gr 4 with sregs := regs [(8, 0x300000), (9, 8), (10, 4)] }
def reqMix (f : LF) (path : Nat) (acc : Acc) : Req := memReq f .glob ((st gMix).rd gMix) path 4 acc
def offMix (f : LF) (path : Nat) (acc : Acc) (l : Nat) : Int := globOffset f ((st gMix).rd gMix) (reqMix f path acc).rcd l
def soMix (f : LF) (path : Nat) (acc : Acc) : State :=
  (st gMix).traceG (.group 0) gMix 1 0x22 ((reqMix f path acc).rcd.traceTag gMix) gMix.pc.toNat 0 ((maskOf [2, 3]).toNat % 2 ^ 32)

set_option maxRecDepth 100000 in
theorem wit_mixed : ∀ x ∈ [(fLd, 0, Acc.read), (fSt, 1, Acc.write), (fAt, 1, Acc.atomic)],
    ((activeLanes x.1 (st gMix) gMix).filter fun l => (st gMix).inBounds (.group 0) gMix (reqMix x.1 x.2.1 x.2.2) (offMix x.1 x.2.1 x.2.2 l)) = [0, 1] ∧
    (reqMix x.1 x.2.1 x.2.2).rcd.valid 4 = true ∧ (reqMix x.1 x.2.1 x.2.2).rcd.strict = false ∧
    ∃ s1, MemReady (soMix x.1 x.2.1 x.2.2) 0 gMix (reqMix x.1 x.2.1 x.2.2) ([0, 1].map fun l => (l, offMix x.1 x.2.1 x.2.2 l)) placesOf s1 := by
  intro x hx
  fin_cases hx <;> exact ⟨by decide, by decide, by decide, _, ready_of (by decide) ⟨rfl, rfl, rfl, rfl, rfl⟩ (by intro p hp; cases hp; decide) rfl ⟨rfl, rfl⟩ rfl rfl
    (by intro c h; cases h; rfl)⟩

/-- MatrixResultsComplete: a group of 16 lanes whose drain, rows or fragment is outstanding. -/
def gLate (ws : List Write) : Group := { gx with results := [{ writes := ws, op := some 3, late := true }] }
def mRes (i : Instr) (keys : List (Option Nat)) : MtxOp := { mtxOp i with keys := keys }
def keys : List (Option Nat) := List.replicate 256 (some 0x300000)
def sLate (m : MtxOp) (ws : List Write) : State := { st (gLate ws) with mtx := [m], ev := .nat 3 }

set_option maxRecDepth 100000 in
theorem wit_matrixResults : ∀ m ∈ [mRes (.mdrain fDrain) [], mRes (.mrows { zf with dst := .v 16, ty := .f32 }) [], mRes (.ldf fRecord) keys],
    let ws := runWrites gx (.v 16) 0 (drainWords .f32) fun _ => 0
    (sLate m ws).mtx.find? (fun x => x.op == 3) = some m ∧ (sLate m ws).mtxReady m = true ∧ (sLate m ws).mtxHeld m = false ∧ m.lost = none ∧
      (sLate m ws).team? 0 0 = some tm ∧ m.audOn = false ∧ (sLate m ws).cut = none ∧ m.got = {} ∧ (sLate m ws).group? 0 = some (gLate ws) ∧ gx.width = 16 ∧ gx.home = 0 ∧
      (tm.tile 0 2).err = false ∧ (tm.tile 0 2).bad = false := by
  intro m hm
  fin_cases hm <;> exact ⟨rfl, by decide, by decide, rfl, rfl, rfl, rfl, rfl, rfl, by decide, rfl, rfl, rfl⟩

set_option maxRecDepth 100000 in
theorem wit_fragment : fRecord.scl = false ∧ keys.length = fragWords fRecord.ty * (4 / fRecord.ty.size) := by decide

/-- A drain to a window of pitch 64, and a convolution whose shape is that of gc, at the positions after its image's four. -/
def fWin : LF := { zf with dst := .v 1, sb := .s 12, ty := .f32 }
def mWin : MtxOp := { mtxOp (.mdrains fWin) with keys := [some 0x300000], sv := [0x4000000000] }
def fConv : LF := { zf with dst := .zero, sa := .s 8, sb := .v 32, sc := .s 4, ty := .f32, mod := 8 }
def mConv : MtxOp := { mtxOp (.mconv fConv) with shape := gc.shape, sv := [0x300000, 0x80, 0x800000000, 0, 4] }

def convDone (x : Option Halted × Gather × State) : Bool :=
  match x.1 with
  | none => x.2.1.elems.length == 256
  | some _ => false

set_option maxRecDepth 100000 in
theorem wit_matrixMemory : ∀ m ∈ [mWin, mConv], let s : State := { sF with mtx := [m], ev := .nat 3 }
    s.mtx.find? (fun x => x.op == 3) = some m ∧ s.mtxReady m = true ∧ s.mtxHeld m = false ∧ m.lost = none ∧ s.team? 0 0 = some tm ∧ m.audOn = false ∧ m.sampled = false ∧
      s.cut = none ∧ s.lag = false ∧ s.late = [] ∧ s.poison = [] ∧ m.got = {} ∧ Memory.wf s.mem = true := by
  intro m hm
  fin_cases hm <;> exact ⟨rfl, by decide, by decide, rfl, rfl, rfl, rfl, rfl, rfl, rfl, rfl, rfl, by decide⟩

theorem wit_window : 16 * fWin.ty.size ≤ (0x4000000000 : W64).toNat / 2 ^ 32 := by decide

set_option exponentiation.threshold 400 in
set_option maxRecDepth 100000 in
theorem wit_convolution : convDone (sF.convRun 0 .f32 (Rcd.ofRegs mConv.sv) (((List.range 16).map fun i => convRow (Shp.of mConv.shape) 4 0 (kbOf .f32) i).flatMap fun r =>
    r.steps .f32 (Rcd.ofRegs mConv.sv) (Shp.of mConv.shape).padv) {}) = true := by decide

/-- An element of a page whose FMT is f32, and of one whose FMT is not. -/
theorem wit_convElement : (Rcd.ofRegs mConv.sv).strict = false ∧ (Rcd.ofRegs ((mConv.sv.set 0 0x8000000000300000))).strict = true ∧
    transIs (sF.translate 0 true .read 0x300000) 0x300000 = true ∧ (sF.poisoned 0x300000 4 = none) ∧ pteFmt 0x81300000000000F3 = Ty.f32.code := by decide

/-- SystemRegisterAccess, banks .team, .grp, .ctx and .dbg: handle 0 names the team, the context and, with a halted group, group 0. -/
def gHalt : Group := { gr 4 with halted := some .brk }
def sBank (i x : W64) : State := { sc (colG [(12, i), (8, x)]) with groups := [gHalt], nextGroup := 1 }
def fBank (bank : BitVec 5) : LF := { fSys with sc := .s 13, ext := bank }

set_option maxRecDepth 100000 in
theorem wit_banks : (∀ i x, Issues (sBank i x) (.col 0) (colG [(12, i), (8, x)]).g) ∧ (∀ b ∈ [3, 4, 5, 7], assigned b 0 = true) ∧
    (Instr.sysrd { fBank 3 with sa := .v 0 }).wf = true ∧ (Instr.syswr { fBank 4 with dst := .v 0 }).wf = true ∧
    (sBank 0 0).findTeam 0 (Hnd.of 0) = some tm ∧ (sBank 0 0).findGroup 0 (Hnd.of 0) = some (.res gHalt) ∧ HandlerReady (sBank 0 0) 0 ∧ (sBank 0 0).group? 0 = some gHalt ∧
    (sBank 0 0).writable gHalt = true ∧ (sBank 0 0).teamWritable tm = true ∧ (Hnd.of 0).isCtx = true ∧ (sBank 0 0).holdsCores 0 = true ∧
    ({ sBank 0 0 with teams := [] } : State).holdsCores 0 = false ∧ ({ sBank 0 0 with groups := [gr 4] } : State).writable (gr 4) = false ∧
    (sBank 0 0).findTeam 0 (Hnd.of 0x10000) = none :=
  ⟨fun _ _ => ⟨rfl, rfl, rfl, ⟨rfl, rfl⟩, rfl⟩, by decide, by decide, by decide, by decide, rfl, handler_of (by decide), rfl, by decide, by decide, by decide, by decide, by decide,
    by decide, by decide⟩

/-- MemoryCalls: a context whose one leaf maps the first GiB; a call of each kind that its rule accepts. -/
def cMap : Context := { cx with croot := 0x400000 }
def sMap (num : W32) (args : List W32) : State :=
  { sCall num args with contexts := [cMap], mem := [(0x400000, 1), (0x400002, 0x80), (0x800000, 0xF3), (0x800006, 0x30), (0x800007, 1)] }

set_option maxRecDepth 100000 in
theorem wit_memoryCalls : Sound (sMap 1 [1, 0, 15]) ∧ (sMap 1 [1, 0, 15]).ctx? 0 = some cMap ∧ (sMap 1 [1, 0, 15]).aud.reports = [] ∧
    TablesApart (sMap 1 [1, 0, 15]) cMap ∧ (sMap 2 []).walk 0 0x300000 = .leaf (2 ^ 30) 0x01300000000000F3 0x800000 ∧
    ((sMap 3 []).leaves 0 (2 ^ 30) 1 0).isSome = true ∧ (sMap 3 []).leaves 0 (2 ^ 30 + 4096) 1 (2 ^ 30) = none := by
  refine ⟨(by decide : Memory.wf _ = true), rfl, rfl, ?_, by decide, by decide, by decide⟩
  unfold TablesApart
  decide

theorem serving_map (num : W32) (args : List W32) : Serving (sMap num args) (call num args) gCall 8 :=
  ⟨⟨0, rfl, rfl⟩, rfl, rfl, rfl, rfl, rfl, (by decide : Stop.none ≠ Stop.stopped), rfl⟩

/-- ContextAndQueueEvents: a barrier whose results are asked for, a part that has booted, and a queue that no QUNREG waits for. -/
theorem wit_reinit : (sBar (bar 2 2) 1 (.barwait 1 5 (.s 9))).team? 0 0 = some { tm with barriers := tm.barriers.set 1 (bar 2 2) } ∧
    (({ tm with barriers := tm.barriers.set 1 (bar 2 2) } : Team).bar 1).gen = 5 ∧ Prompt (sBar (bar 2 2) 1 (.barwait 1 5 (.s 9))) 0 ∧
    ({ sQue .idle [] with mod := { (State.reset).mod with boot := .ready } } : State).mod.boot = .ready ∧ (que .idle []).unreg = none ∧ (que .idle []).err = false :=
  ⟨rfl, by decide, ⟨fun _ h => (by cases h), rfl⟩, rfl, rfl, rfl⟩

end Sys2Proof.Tests
end

section
/-! PROOF. What the scalar unit's functions on numbers and words compute (R169, R170, R172). -/

namespace Sys2Proof.Machine

/-! ### Bits of a number -/

theorem popc_eq_countP (w x : Nat) : popc w x = (List.range w).countP x.testBit := List.countP_eq_length_filter.symm

theorem onesOf_eq_popc (a : W64) : onesOf a = popc 64 a.toNat := (popc_eq_countP 64 a.toNat).symm

theorem popc_le (w x : Nat) : popc w x ≤ w := by
  simpa [popc_eq_countP] using List.countP_le_length (p := x.testBit) (l := List.range w)

/-- The bits that stand below position p are those of the remainder. -/
theorem popc_mod_two_pow {w p : Nat} (x : Nat) (hp : p ≤ w) : popc w (x % 2 ^ p) = popc p x := by
  obtain ⟨n, rfl⟩ := Nat.exists_eq_add_of_le hp
  have low : (List.range p).countP (x % 2 ^ p).testBit = (List.range p).countP x.testBit :=
    List.countP_congr fun k hk => by simp [Nat.testBit_mod_two_pow, List.mem_range.mp hk]
  have high : ((List.range n).map (p + ·)).countP (x % 2 ^ p).testBit = 0 :=
    List.countP_eq_zero.mpr fun k hk => by
      obtain ⟨m, -, rfl⟩ := List.mem_map.mp hk
      simp [Nat.testBit_mod_two_pow]
  rw [popc_eq_countP, popc_eq_countP, List.range_add, List.countP_append, low, high, Nat.add_zero]

/-- The leading 1 bit stands right below the leading zeros. -/
theorem clz_spec {w x : Nat} (h0 : x ≠ 0) (hx : x < 2 ^ w) : clz w x < w ∧ x / 2 ^ (w - 1 - clz w x) = 1 := by
  have hlog : x.log2 < w := (Nat.log2_lt h0).mpr hx
  obtain ⟨lo, hi⟩ := (Nat.log2_eq_iff h0).mp rfl
  have e : w - 1 - clz w x = x.log2 := by
    simp only [clz, h0, if_false]
    omega
  refine ⟨by simp only [clz, h0, if_false]; omega, ?_⟩
  rw [e]
  exact Nat.div_eq_of_lt_le (by simpa using lo) (by simpa [Nat.pow_succ, Nat.mul_comm] using hi)

/-- The lowest 1 bit stands right above the trailing zeros. -/
theorem ctz_spec {w x : Nat} (h0 : x ≠ 0) (hx : x < 2 ^ w) : ctz w x < w ∧ x.testBit (ctz w x) = true ∧ x % 2 ^ ctz w x = 0 := by
  cases hf : (List.range w).find? fun i => x.testBit i with
  | none =>
    obtain ⟨i, hi⟩ := Nat.exists_testBit_of_ne_zero h0
    have hiw : i < w := Nat.lt_of_not_le fun h =>
      absurd hi (by simp [Nat.testBit_lt_two_pow (Nat.lt_of_lt_of_le hx (Nat.pow_le_pow_right (by decide) h))])
    simpa [hi] using List.find?_range_eq_none.mp hf i hiw
  | some i =>
    obtain ⟨hbit, hmem, hlow⟩ := List.find?_range_eq_some.mp hf
    have e : ctz w x = i := by simp [ctz, hf]
    rw [e]
    refine ⟨List.mem_range.mp hmem, hbit, Nat.eq_of_testBit_eq fun k => ?_⟩
    rw [Nat.testBit_mod_two_pow, Nat.zero_testBit]
    by_cases hk : k < i
    · simpa [hk] using hlow k hk
    · simp [hk]

@[simp] theorem clz_zero (w : Nat) : clz w 0 = w := rfl

@[simp] theorem ctz_zero (w : Nat) : ctz w 0 = w := by
  simp [ctz, List.find?_eq_none.mpr]

/-- The n-th 1 bit below w, when there is one: it has n 1 bits below it. -/
theorem filter_testBit_spec (x : Nat) {w n p : Nat} (h : ((List.range w).filter fun i => x.testBit i)[n]? = some p) :
    p < w ∧ x.testBit p = true ∧ popc p x = n := by
  induction w with
  | zero => simp at h
  | succ w ih =>
    rw [List.range_succ, List.filter_append, List.getElem?_append] at h
    split at h
    · obtain ⟨hp, hrest⟩ := ih h
      exact ⟨Nat.lt_succ_of_lt hp, hrest⟩
    · rename_i hn
      by_cases hw : x.testBit w = true
      · rw [List.filter_cons_of_pos hw, List.getElem?_cons] at h
        split at h
        · cases h
          exact ⟨Nat.lt_succ_self _, hw, by unfold popc; omega⟩
        · simp at h
      · simp [hw] at h

/-- SFFS of R169: the position of the 1 bit with n 1 bits below it, or w. -/
theorem nthOne_spec {w x n : Nat} (h : n < popc w x) : nthOne w x n < w ∧ x.testBit (nthOne w x n) = true ∧ popc (nthOne w x n) x = n := by
  refine filter_testBit_spec x (w := w) ?_
  rw [nthOne, List.getD_eq_getElem _ _ h, List.getElem?_eq_getElem h]

theorem nthOne_none {w x n : Nat} (h : popc w x ≤ n) : nthOne w x n = w := List.getD_eq_default _ _ h

/-! ### Bit fields -/

/-- The bits of a bit field that has been replaced (R169). -/
theorem testBit_bfi {w pos : Nat} (d a c k : Nat) (hpos : pos ≤ w) :
    (bfi w d a pos c).testBit k =
      if pos ≤ k ∧ k < pos + min c (w - pos) then a.testBit (k - pos) else decide (k < w) && d.testBit k := by
  have hlen : pos + min c (w - pos) ≤ w := by omega
  dsimp only [bfi]
  generalize min c (w - pos) = len at hlen ⊢
  have hmask : (2 ^ len - 1) * 2 ^ pos < 2 ^ w := calc
    (2 ^ len - 1) * 2 ^ pos < 2 ^ len * 2 ^ pos := Nat.mul_lt_mul_of_pos_right (Nat.sub_one_lt (Nat.two_pow_pos len).ne') (Nat.two_pow_pos pos)
    _ = 2 ^ (pos + len) := by rw [Nat.pow_add, Nat.mul_comm]
    _ ≤ 2 ^ w := Nat.pow_le_pow_right (by decide) hlen
  rw [Nat.sub_sub, Nat.add_comm 1, Nat.testBit_or, Nat.testBit_and, Nat.testBit_two_pow_sub_succ hmask, Nat.testBit_mul_two_pow,
    Nat.testBit_mul_two_pow, Nat.testBit_two_pow_sub_one, Nat.testBit_mod_two_pow]
  by_cases h1 : pos ≤ k <;> by_cases h2 : k - pos < len
  · simp [h1, h2, show k < pos + len by omega]
  · simp [h1, h2, show ¬ k < pos + len by omega, Bool.and_comm]
  · simp [h1, Bool.and_comm]
  · simp [h1, Bool.and_comm]

/-- A bit field that is extracted with zeros above it (R169): it is not signed, or its sign bit is 0. -/
theorem bfx_of_nonneg {w a pos c len : Nat} {sgn : Bool} (hl : len = min c (w - pos))
    (h : sgn = false ∨ a / 2 ^ pos % 2 ^ len < 2 ^ (len - 1) ∨ len = 0) : bfx w sgn a pos c = a / 2 ^ pos % 2 ^ len := by
  subst hl
  refine if_neg fun hs => ?_
  simp only [Bool.and_eq_true, decide_eq_true_eq] at hs
  obtain ⟨⟨hsgn, hpos⟩, hbit⟩ := hs
  rcases h with h | h | h
  · simp [h] at hsgn
  · simp [Nat.testBit_lt_two_pow h] at hbit
  · omega

/-- A bit field that is extracted with ones above it (R169): it is signed, and its sign bit is 1. -/
theorem bfx_of_neg {w a pos c len : Nat} (hl : len = min c (w - pos)) (h0 : len ≠ 0)
    (h : 2 ^ (len - 1) ≤ a / 2 ^ pos % 2 ^ len) : bfx w true a pos c = a / 2 ^ pos % 2 ^ len + (2 ^ w - 2 ^ len) := by
  have hbit : (a / 2 ^ pos % 2 ^ len).testBit (len - 1) = true :=
    Nat.testBit_of_two_pow_le_and_two_pow_add_one_gt h (by
      rw [Nat.sub_add_cancel (Nat.pos_of_ne_zero h0)]
      exact Nat.mod_lt _ (Nat.two_pow_pos len))
  subst hl
  exact if_pos (by simp [hbit, Nat.pos_of_ne_zero h0])

/-! ### The scalar unit's functions on words -/

@[simp] theorem toNat_mulhU (a b : W64) : (mulhU a b).toNat = a.toNat * b.toNat / 2 ^ 64 := by
  have h : a.toNat * b.toNat < 2 ^ 64 * 2 ^ 64 := Nat.mul_lt_mul'' a.isLt b.isLt
  rw [mulhU, BitVec.toNat_ofNat, Nat.mod_eq_of_lt (Nat.div_lt_of_lt_mul h)]

@[simp] theorem toInt_mulhS (a b : W64) : (mulhS a b).toInt = a.toInt * b.toInt / 2 ^ 64 := by
  have hlo : -2 ^ 126 ≤ a.toInt * b.toInt := BitVec.le_toInt_mul_toInt
  have hhi : a.toInt * b.toInt ≤ 2 ^ 126 := BitVec.toInt_mul_toInt_le
  rw [mulhS, BitVec.toInt_ofInt, Int.bmod_eq_of_le] <;> omega

/-! ### Words put together from numbers -/

theorem toNat_ofNat_position {n : Nat} (hn : n < 64) : (BitVec.ofNat 64 n).toNat = n := Nat.mod_eq_of_lt (hn.trans (by decide))

theorem toNat_oneBit {n : Nat} (hn : n < 64) : (1 <<< n : W64).toNat = 2 ^ n := by
  rw [BitVec.natCast_eq_ofNat, BitVec.toNat_ofNat, Nat.shiftLeft_eq, Nat.one_mul, Nat.mod_eq_of_lt (Nat.pow_lt_pow_right (by decide) hn)]

/-- Two halves of a word (R169 SLI). -/
theorem toNat_joinHalves (d : W64) (l : W32) :
    ((d &&& (0xFFFFFFFF : W64)) ||| (l.zeroExtend 64 <<< 32)).toNat = d.toNat % 2 ^ 32 + l.toNat * 2 ^ 32 := by
  have hl := l.isLt
  have hd : (d &&& (0xFFFFFFFF : W64)).toNat = d.toNat % 2 ^ 32 := Nat.and_two_pow_sub_one_eq_mod d.toNat 32
  have hs : (l.zeroExtend 64 <<< 32).toNat = l.toNat <<< 32 := by
    rw [BitVec.toNat_shiftLeft, BitVec.toNat_setWidth, Nat.shiftLeft_eq, Nat.shiftLeft_eq]
    omega
  rw [BitVec.toNat_or, hd, hs, Nat.or_comm, ← Nat.shiftLeft_add_eq_or_of_lt (Nat.mod_lt _ (by decide)), Nat.shiftLeft_eq, Nat.add_comm]

/-- A field of n bits whose sign bit is 1, with ones above it, is negative. -/
theorem toInt_onesAbove {n y : Nat} (h0 : n ≠ 0) (hn : n ≤ 64) (hge : 2 ^ (n - 1) ≤ y) (hlt : y < 2 ^ n) :
    (BitVec.ofNat 64 (y + (2 ^ 64 - 2 ^ n))).toInt = (y : Int) - 2 ^ n := by
  have e : 2 ^ n = 2 * 2 ^ (n - 1) := by rw [← Nat.pow_succ', Nat.succ_eq_add_one, Nat.sub_add_cancel (Nat.pos_of_ne_zero h0)]
  have h64 : 2 ^ n ≤ 2 ^ 64 := Nat.pow_le_pow_right (by decide) hn
  have hcast : ((2 : Int) ^ n) = ((2 ^ n : Nat) : Int) := by push_cast; rfl
  rw [BitVec.toInt_eq_toNat_cond, BitVec.toNat_ofNat, Nat.mod_eq_of_lt (by omega), hcast]
  split <;> omega

/-! ### Conditions and division -/

theorem lessOf_iff (u : Bool) (a b : W64) : lessOf u a b = true ↔ if u then a.toNat < b.toNat else a.toInt < b.toInt := by
  cases u
  · exact BitVec.slt_iff_toInt_lt
  · exact BitVec.ult_iff_toNat_lt

theorem lessOf_eq_false_iff (u : Bool) (a b : W64) : lessOf u a b = false ↔ if u then b.toNat ≤ a.toNat else b.toInt ≤ a.toInt := by
  rw [← Bool.not_eq_true, lessOf_iff]
  cases u <;> simp

/-- The condition codes of SCMP are those of R172. -/
theorem condOf_iff (cc : Nat) (u : Bool) (a b : W64) : condOf cc u a b = true ↔ scmpHolds cc u a b := by
  match cc with
  | 0 | 1 => simp [condOf, scmpHolds]
  | 2 | 4 => simp [condOf, scmpHolds, lessOf_iff]
  | 3 | _ + 5 => simp [condOf, scmpHolds, lessOf_eq_false_iff]

@[simp] theorem sdivOf_zero (u : Bool) (a : W64) : sdivOf u a 0 = BitVec.allOnes 64 := rfl

theorem sdivOf_unsigned (a : W64) {b : W64} (hb : b ≠ 0) : sdivOf true a b = a / b := if_neg hb

theorem sdivOf_signed (a : W64) {b : W64} (hb : b ≠ 0) : sdivOf false a b = a.sdiv b := if_neg hb

theorem sub_mul_udiv (a b : W64) : a - b * (a / b) = a % b := by
  have e : a = a % b + b * (a / b) := BitVec.eq_of_toNat_eq (by
    rw [BitVec.toNat_add, BitVec.toNat_mul, BitVec.toNat_umod, BitVec.toNat_udiv, Nat.add_mod_mod, Nat.mod_add_div, Nat.mod_eq_of_lt a.isLt])
  exact sub_eq_of_eq_add e

/-- The remainder of a signed division is what its quotient leaves over, also where the quotient wraps. -/
theorem sub_mul_sdiv (a b : W64) : a - b * a.sdiv b = a.srem b := by
  refine BitVec.eq_of_toInt_eq ?_
  rw [BitVec.toInt_sub, BitVec.toInt_mul, BitVec.toInt_sdiv, Int.mul_bmod_bmod, Int.sub_bmod_bmod, ← Int.tmod_def,
    ← BitVec.toInt_srem, BitVec.toInt_bmod_cancel]

/-- The one signed division whose exact quotient is no signed word (R170). -/
theorem sdiv_overflow {a b : W64} (hb : b.toInt = -1) (ha : a.toInt = -2 ^ 63) : a.sdiv b = a := by
  obtain rfl : b = -1#64 := BitVec.eq_of_toInt_eq (hb.trans (by decide))
  obtain rfl : a = BitVec.intMin 64 := BitVec.eq_of_toInt_eq (ha.trans (by decide))
  exact BitVec.intMin_sdiv_neg_one

theorem toInt_sdiv_exact {a b : W64} (h : ¬ (b.toInt = -1 ∧ a.toInt = -2 ^ 63)) : (a.sdiv b).toInt = a.toInt.tdiv b.toInt := by
  refine BitVec.toInt_sdiv_of_ne_or_ne a b (not_and_or.mp fun hab => h ?_)
  obtain ⟨rfl, rfl⟩ := hab
  decide

end Sys2Proof.Machine
end

section
/-! PROOF. The scalar instructions: each is scalarOp of one function, and that function gives the result of R169 and R170. -/

namespace Sys2Proof.Machine

/-! ### The option `.u` -/

/-- An encoding that is accepted has an accepted MOD field (R52). -/
theorem mod_of_shapeOk {h : Shape} {f : LF} (hf : h.ok f = true) : h.mod f.mod.toNat = true := by
  simp only [Shape.ok, Bool.and_eq_true] at hf
  tauto

/-- Where MOD may hold the option `.u` alone, it is 1 with the option and 0 without (R169). -/
theorem unsignedOf_eq {h : Shape} {f : LF} (hf : h.ok f = true) (hm : h.mod = fun m => m == 0 || m == 1) :
    unsignedOf f = decide (f.mod = 1) := by
  have hmod : f.mod.toNat = 0 ∨ f.mod.toNat = 1 := by simpa [hm] using mod_of_shapeOk hf
  have e : f.mod = 1 ↔ f.mod.toNat = 1 := BitVec.toNat_inj.symm
  simp only [unsignedOf, e]
  rcases hmod with h0 | h1
  · simp [h0]
  · simp [h1]

/-! ### The results of R169 and R170 -/

/-- What a scalar instruction computes from a, b, c and the old d (R169, R170). -/
def scalarFn : Instr → W64 → W64 → W64 → W64 → W64
  | .sadd _, a, b, _, _ => a + b
  | .ssub _, a, b, _, _ => a - b
  | .smul _, a, b, _, _ => a * b
  | .smulh f, a, b, _, _ => if unsignedOf f then mulhU a b else mulhS a b
  | .sdiv f, a, b, _, _ => sdivOf (unsignedOf f) a b
  | .srem f, a, b, _, _ => a - b * sdivOf (unsignedOf f) a b
  | .smin f, a, b, _, _ => if lessOf (unsignedOf f) a b then a else b
  | .smax f, a, b, _, _ => if lessOf (unsignedOf f) a b then b else a
  | .sand _, a, b, _, _ => a &&& b
  | .sor _, a, b, _, _ => a ||| b
  | .sxor _, a, b, _, _ => a ^^^ b
  | .sandn _, a, b, _, _ => a &&& ~~~b
  | .sshl _, a, b, _, _ => a <<< (b.toNat % 64)
  | .sshr _, a, b, _, _ => a >>> (b.toNat % 64)
  | .ssar _, a, b, _, _ => a.sshiftRight (b.toNat % 64)
  | .smov _, a, _, _, _ => a
  | .sli f, a, _, _, d => if f.ext.toNat = 1 then (d &&& 0xFFFFFFFF) ||| ((f.lit.getD 0).zeroExtend 64 <<< 32) else a
  | .scmp f, a, b, _, _ => if condOf f.ext.toNat (unsignedOf f) a b then 1 else 0
  | .ssel _, a, b, c, _ => if c ≠ 0 then a else b
  | .spopc _, a, _, _, _ => BitVec.ofNat 64 (popc 64 a.toNat)
  | .sclz _, a, _, _, _ => BitVec.ofNat 64 (clz 64 a.toNat)
  | .sctz _, a, _, _, _ => BitVec.ofNat 64 (ctz 64 a.toNat)
  | .sffs _, a, b, _, _ => BitVec.ofNat 64 (nthOne 64 a.toNat b.toNat)
  | .sbfx f, a, b, c, _ => BitVec.ofNat 64 (bfx 64 (!unsignedOf f) a.toNat (b.toNat % 64) c.toNat)
  | .sbfi _, a, b, c, d => BitVec.ofNat 64 (bfi 64 d.toNat a.toNat (b.toNat % 64) c.toNat)
  | _, _, _, _, _ => 0

/-- A short form runs as its long form (R53). -/
theorem shortScalar_run {s : State} {g : Group} (i : Instr) (f : SF) (fn : W64 → W64 → W64 → W64 → W64) (hg : s.ag? s.cur.agent = some g) :
    shortScalar i f s fn = scalarOp i.wf (longOf f g false false) s fn := withAg_run hg

theorem readsOld_sli (f : LF) : readsOld (.sli f) = (f.ext.toNat == 1) := by
  have e : f.ext = 1 ↔ f.ext.toNat = 1 := BitVec.toNat_inj.symm
  rw [readsOld, Bool.eq_iff_iff, beq_iff_eq, beq_iff_eq, e]

/-- A scalar instruction, in its short form or its long one, is scalarOp of its function (R53, R168). -/
theorem exec_scalar {s : State} {g : Group} {i : Instr} {fn : Nat} {f : LF} (hg : s.ag? s.cur.agent = some g)
    (hl : (i.asLong g).long? = some (1, fn, f)) :
    exec i s = scalarOp i.wf f s (scalarFn (i.asLong g)) (readsOld (i.asLong g)) := by
  cases i <;> cases hl
  case sli => exact congrArg (fun old => scalarOp (Wf.sli f) f s (scalarFn (.sli f)) old) (readsOld_sli f).symm
  case saddShort f | ssubShort f | sandShort f | sorShort f | sxorShort f | sandnShort f | sshlShort f | sshrShort f | ssarShort f
    | smovShort f | spopcShort f => exact shortScalar_run _ f _ hg
  all_goals rfl

section Results

variable (f : LF) (a b c d : W64)

theorem ssub_result : scalarRel (.ssub f) a b c d (scalarFn (.ssub f) a b c d) := by
  rw [scalarRel, scalarFn, ← BitVec.toNat_add, BitVec.sub_add_cancel]

theorem sandn_result : scalarRel (.sandn f) a b c d (scalarFn (.sandn f) a b c d) := by
  intro k
  rw [scalarFn, BitVec.getLsbD_and, BitVec.getLsbD_not]
  by_cases hk : k < 64
  · simp [hk]
  · simp [BitVec.getLsbD_of_ge a k (Nat.le_of_not_lt hk)]

theorem sshl_result : scalarRel (.sshl f) a b c d (scalarFn (.sshl f) a b c d) := by
  rw [scalarRel, scalarFn, BitVec.toNat_shiftLeft, Nat.shiftLeft_eq]

theorem sshr_result : scalarRel (.sshr f) a b c d (scalarFn (.sshr f) a b c d) := by
  rw [scalarRel, scalarFn, BitVec.toNat_ushiftRight, Nat.shiftRight_eq_div_pow]

theorem ssar_result : scalarRel (.ssar f) a b c d (scalarFn (.ssar f) a b c d) := by
  rw [scalarRel, scalarFn, BitVec.toInt_sshiftRight, Int.shiftRight_eq_div_pow]
  push_cast
  rfl

theorem sli_result : scalarRel (.sli f) a b c d (scalarFn (.sli f) a b c d) := by
  have e : f.ext = 1 ↔ f.ext.toNat = 1 := BitVec.toNat_inj.symm
  simp only [scalarRel, scalarFn, e]
  by_cases h : f.ext.toNat = 1
  · simp only [h, if_true]
    exact toNat_joinHalves d (f.lit.getD 0)
  · simp only [h, if_false]

theorem ssel_result : scalarRel (.ssel f) a b c d (scalarFn (.ssel f) a b c d) := by
  simp only [scalarRel, scalarFn, ne_eq, ite_not]
  split <;> rfl

theorem spopc_result : scalarRel (.spopc f) a b c d (scalarFn (.spopc f) a b c d) := by
  have h := popc_le 64 a.toNat
  simp only [scalarRel, scalarFn, onesOf_eq_popc, BitVec.toNat_ofNat]
  omega

theorem sclz_result : scalarRel (.sclz f) a b c d (scalarFn (.sclz f) a b c d) := by
  simp only [scalarRel, scalarFn]
  by_cases h : a = 0
  · simp [h]
  · obtain ⟨hlt, hone⟩ := clz_spec (mt (BitVec.eq_of_toNat_eq (y := 0)) h) a.isLt
    simp only [h, if_false, toNat_ofNat_position hlt]
    exact ⟨hlt, hone⟩

theorem sctz_result : scalarRel (.sctz f) a b c d (scalarFn (.sctz f) a b c d) := by
  simp only [scalarRel, scalarFn]
  by_cases h : a = 0
  · simp [h]
  · obtain ⟨hlt, hone, hlow⟩ := ctz_spec (mt (BitVec.eq_of_toNat_eq (y := 0)) h) a.isLt
    simp only [h, if_false, toNat_ofNat_position hlt]
    exact ⟨hlt, hone, hlow⟩

theorem sffs_result : scalarRel (.sffs f) a b c d (scalarFn (.sffs f) a b c d) := by
  simp only [scalarRel, scalarFn, onesOf_eq_popc]
  split
  · rename_i h
    obtain ⟨hlt, hone, hrank⟩ := nthOne_spec h
    rw [toNat_ofNat_position hlt, BitVec.toNat_umod, toNat_oneBit hlt, popc_mod_two_pow _ hlt.le]
    exact ⟨hlt, hone, hrank⟩
  · rename_i h
    simp [nthOne_none (Nat.le_of_not_lt h)]

theorem sbfi_result : scalarRel (.sbfi f) a b c d (scalarFn (.sbfi f) a b c d) := by
  intro k
  have hpos : b.toNat % 64 ≤ 64 := by omega
  rw [scalarFn, BitVec.getLsbD_ofNat, testBit_bfi _ _ _ _ hpos]
  split
  · rename_i h
    simp [BitVec.getLsbD, show k < 64 by omega]
  · by_cases hk : k < 64
    · simp [BitVec.getLsbD, hk]
    · simp [hk, BitVec.getLsbD_of_ge _ _ (Nat.le_of_not_lt hk)]

section Unsigned

variable (hu : unsignedOf f = decide (f.mod = 1))

include hu

theorem smulh_result : scalarRel (.smulh f) a b c d (scalarFn (.smulh f) a b c d) := by
  simp only [scalarRel, scalarFn, hu, decide_eq_true_eq]
  split
  · exact toNat_mulhU a b
  · exact toInt_mulhS a b

theorem sdiv_result : scalarRel (.sdiv f) a b c d (scalarFn (.sdiv f) a b c d) := by
  simp only [scalarRel, scalarFn, hu]
  split
  · rename_i hb
    rw [hb, sdivOf_zero]
  rename_i hb
  split
  · rename_i hm
    rw [decide_eq_true hm, sdivOf_unsigned a hb, BitVec.toNat_udiv]
  rename_i hm
  rw [decide_eq_false hm, sdivOf_signed a hb]
  split
  · rename_i ho
    exact sdiv_overflow ho.1 ho.2
  · rename_i ho
    exact toInt_sdiv_exact ho

theorem srem_result : scalarRel (.srem f) a b c d (scalarFn (.srem f) a b c d) := by
  simp only [scalarRel, scalarFn, hu]
  split
  · rename_i hb
    rw [hb, zero_mul, sub_zero]
  rename_i hb
  split
  · rename_i hm
    rw [decide_eq_true hm, sdivOf_unsigned a hb, sub_mul_udiv, BitVec.toNat_umod]
  · rename_i hm
    rw [decide_eq_false hm, sdivOf_signed a hb, sub_mul_sdiv, BitVec.toInt_srem]

theorem smin_result : scalarRel (.smin f) a b c d (scalarFn (.smin f) a b c d) := by
  simp only [scalarRel, scalarFn, hu, lessOf_iff, decide_eq_true_eq]
  by_cases hm : f.mod = 1
  · simp only [hm, if_true]
    split <;> omega
  · simp only [hm, if_false]
    split <;> omega

theorem smax_result : scalarRel (.smax f) a b c d (scalarFn (.smax f) a b c d) := by
  simp only [scalarRel, scalarFn, hu, lessOf_iff, decide_eq_true_eq]
  by_cases hm : f.mod = 1
  · simp only [hm, if_true]
    split <;> omega
  · simp only [hm, if_false]
    split <;> omega

theorem scmp_result : scalarRel (.scmp f) a b c d (scalarFn (.scmp f) a b c d) := by
  have h := condOf_iff f.ext.toNat (unsignedOf f) a b
  rw [hu] at h
  simp only [scalarRel, scalarFn, hu, ← h]
  exact ⟨fun h => if_pos h, fun h => if_neg h⟩

theorem sbfx_result : scalarRel (.sbfx f) a b c d (scalarFn (.sbfx f) a b c d) := by
  simp only [scalarRel, scalarFn, hu]
  generalize hl : min c.toNat (64 - b.toNat % 64) = len
  have hy : a.toNat / 2 ^ (b.toNat % 64) % 2 ^ len < 2 ^ len := Nat.mod_lt _ (Nat.two_pow_pos len)
  have h64 : 2 ^ len ≤ 2 ^ 64 := Nat.pow_le_pow_right (by decide) (by omega)
  split
  · rename_i h
    rw [bfx_of_nonneg hl.symm (by simpa using h)]
    exact Nat.mod_eq_of_lt (hy.trans_le h64)
  · rename_i h
    obtain ⟨hm, hge, h0⟩ : f.mod ≠ 1 ∧ 2 ^ (len - 1) ≤ a.toNat / 2 ^ (b.toNat % 64) % 2 ^ len ∧ len ≠ 0 := by
      simpa [not_or] using h
    simp only [hm, decide_false, Bool.not_false, bfx_of_neg hl.symm h0 hge]
    exact toInt_onesAbove h0 (by omega) hge hy

end Unsigned

end Results

/-- R169 and R170: the function of each scalar instruction gives its result in exact arithmetic. -/
theorem scalarFn_result {j : Instr} {fn : Nat} {f : LF} (a b c d : W64) (hw : j.wf = true) (hl : j.long? = some (1, fn, f)) :
    scalarRel j a b c d (scalarFn j a b c d) := by
  cases j <;> cases hl
  case sadd => exact BitVec.toNat_add a b
  case ssub => exact ssub_result f a b c d
  case smul => exact BitVec.toNat_mul a b
  case smulh => exact smulh_result f a b c d (unsignedOf_eq hw rfl)
  case sdiv => exact sdiv_result f a b c d (unsignedOf_eq hw rfl)
  case srem => exact srem_result f a b c d (unsignedOf_eq hw rfl)
  case smin => exact smin_result f a b c d (unsignedOf_eq hw rfl)
  case smax => exact smax_result f a b c d (unsignedOf_eq hw rfl)
  case sand => exact fun k => BitVec.getLsbD_and
  case sor => exact fun k => BitVec.getLsbD_or
  case sxor => exact fun k => BitVec.getLsbD_xor
  case sandn => exact sandn_result f a b c d
  case sshl => exact sshl_result f a b c d
  case sshr => exact sshr_result f a b c d
  case ssar => exact ssar_result f a b c d
  case smov => rfl
  case sli => exact sli_result f a b c d
  case scmp => exact scmp_result f a b c d (unsignedOf_eq hw rfl)
  case ssel => exact ssel_result f a b c d
  case spopc => exact spopc_result f a b c d
  case sclz => exact sclz_result f a b c d
  case sctz => exact sctz_result f a b c d
  case sffs => exact sffs_result f a b c d
  case sbfx => exact sbfx_result f a b c d (unsignedOf_eq hw rfl)
  case sbfi => exact sbfi_result f a b c d

end Sys2Proof.Machine
end

section
/-! PROOF. O11: the scalar instructions. What the end of an instruction and an interlocked result leave serves every instruction that
writes an s register. -/

namespace Sys2Proof.Machine

/-! ### The end of an instruction -/

theorem ag?_with_trc (s : State) (r : Trace) (b : Agent) : ({ s with trc := r } : State).ag? b = s.ag? b := by
  cases b <;> rfl

/-- The trace fabric is all that the end of an instruction changes beside its agent (R387). -/
theorem finishAt_eq {s : State} {a : Agent} {g : Group} (sw : Bool) (pc : Pc) (hr : g.rest = none) :
    s.finishAt a g sw pc = { s.setAg a (g.ended sw pc) with trc := (s.finishAt a g sw pc).trc } := by
  obtain ⟨-, -, h⟩ | ⟨-, -, h⟩ | ⟨m, r, n, h, -⟩ := finishAt_cases s a g sw pc
  · rw [h]
  · obtain ⟨x, hx⟩ := State.traceI_eq (s.setAg a (g.ended sw pc)) a g 0x12 1 0
    rw [h, hx]
  · rw [hr] at h
    cases h

/-- Only a marked instruction makes a record as it ends (R387). -/
theorem finishAt_trc_of_unmarked {s : State} {a : Agent} {g : Group} {sw : Bool} {pc : Pc} (hr : g.rest = none) (hm : g.marked sw = false) :
    (s.finishAt a g sw pc).trc = s.trc := by
  simp [State.finishAt, hr, hm]

theorem ended_ready_iff (g : Group) (sw : Bool) (pc : Pc) : (g.ended sw pc).park = .ready ↔ g.marked sw = false := by
  cases h : g.marked sw <;> simp [Group.ended, h]

/-- An instruction that is complete leaves its agent at the address pc and everything else but trace records as it was (R45, R67). -/
theorem finishAt_completes {s : State} {a : Agent} {g : Group} (sw : Bool) (pc : Pc) (hr : g.rest = none) :
    Completes s a (g.ended sw pc) sw pc (s.finishAt a g sw pc) where
  state := finishAt_eq sw pc hr
  mem k := by rw [State.finishAt_mem]
  others b hb := by rw [finishAt_eq sw pc hr, ag?_with_trc, ag?_setAg_other hb]
  pc_eq := rfl
  park_eq := rfl
  untraced h := finishAt_trc_of_unmarked hr ((ended_ready_iff g sw pc).mp h)

/-! ### An interlocked result (R67) -/

theorem mend_eq (g : Group) (ws : List Write) : ∃ b, g.mend ws = { g with bad := b } := by
  unfold Group.mend
  split <;> exact ⟨_, rfl⟩

/-- An interlocked result changes s registers, their errors and what outstanding results still write. -/
theorem putD_eq (g : Group) (d : Spec) (x : W64) : ∃ r b q, g.putD d x = { g with sregs := r, bad := b, results := q } := by
  cases d
  case s n =>
    obtain ⟨b, hb⟩ := mend_eq (g.setS n x) [.s n x]
    exact ⟨_, b, _, by rw [Group.putD, Group.putS, hb]; rfl⟩
  all_goals exact ⟨_, _, _, rfl⟩

/-- The s registers after an interlocked result: DST holds it, when DST is one of them, and every other is as it was. -/
theorem getS_putD (g : Group) (d : Spec) (x : W64) (n : Fin 32) : (g.putD d x).getS n = if d = .s n then x else g.getS n := by
  cases d
  case s m =>
    obtain ⟨b, hb⟩ := mend_eq (g.setS m x) [.s m x]
    have e : (g.putD (.s m) x).getS n = (g.setS m x).getS n := by rw [Group.putD, Group.putS, hb]; rfl
    rw [e, getS_setS]
    simp [Fin.ext_iff, eq_comm]
  all_goals rfl

/-- The end of an instruction that gives DST an interlocked result and goes on at pc (R45, R67). -/
theorem finishAt_putEffect {s : State} {a : Agent} {g : Group} (d : Spec) (x : W64) (sw : Bool) (pc : Pc) (hr : g.rest = none) :
    PutEffect s a g d x sw pc (s.finishAt a (g.putD d x) sw pc) := by
  obtain ⟨r, b, q, e⟩ := putD_eq g d x
  have hrest : (g.putD d x).rest = none := by rw [e]; exact hr
  refine ⟨_, finishAt_completes sw pc hrest, ?special, ?lanes, ?ops, ?srCtr, getS_putD g d x, ?results⟩
  case special => rw [e]; exact ⟨rfl, rfl, rfl, rfl, rfl, rfl, rfl, rfl, rfl, rfl, ⟨rfl, rfl, rfl, rfl, rfl, rfl, rfl⟩, rfl, rfl, rfl⟩
  case results => cases d <;> rfl
  all_goals rw [e]; rfl

/-! ### Scalar instructions -/

/-- A scalar instruction that reads no unchecked register gives DST its function of a, b, c and the old d (R168, R169). -/
theorem scalarOp_run {s : State} {a : Agent} {g : Group} {f : LF} {old : Bool} (fn : W64 → W64 → W64 → W64 → W64) (hi : Issues s a g)
    (hr : Readable f g g.allLanes (scalarSrcs f old)) :
    scalarOp true f s fn old =
      .next (s.finish a (g.putD f.dst (fn ((s.rd g).uni 0 f.lit f.sa) ((s.rd g).uni 1 f.lit f.sb) ((s.rd g).uni 2 f.lit f.sc)
        ((s.rd g).uni 3 f.lit f.dst))) f.sw) := by
  obtain ⟨rfl, hg, -, -, hb⟩ := hi
  exact startOp_run hg hb hr

/-- Settles O11: every scalar instruction is scalarOp of its function (exec_scalar), which gives DST that function's value
(scalarOp_run), and that value is the result of R169 and R170 in exact arithmetic (scalarFn_result). -/
theorem scalarInstructionResults : Obligations.ScalarInstructionResults := by
  rintro s a g i _ fn f hi hw rfl hj hl hr
  have hg : s.ag? s.cur.agent = some g := by rw [hi.cur, hi.ag]
  have hrun := exec_scalar hg hl
  rw [hw, scalarOp_run _ hi hr] at hrun
  exact ⟨_, _, hrun, scalarFn_result _ _ _ _ hj hl, finishAt_putEffect _ _ _ _ hi.rest⟩

end Sys2Proof.Machine
end

section
/-! PROOF. What serves every vector instruction: its short form, its start, masks of lanes, and the results that it leaves outstanding. -/

namespace Sys2Proof.Machine

/-! ### Short forms -/

/-- A short form of groups 0x2 and 0x4 runs as its long form (R53). -/
theorem exec_asLong {s : State} {g : Group} {i : Instr} {grp fn : Nat} {f : LF} (hg : s.ag? s.cur.agent = some g)
    (hl : (i.asLong g).long? = some (grp, fn, f)) (hgrp : grp = 2 ∨ grp = 4) : exec i s = exec (i.asLong g) s := by
  have run := withAg_run (k := fun _ g => exec (i.asLong g) s) hg
  cases i <;> cases hl
  case vaddShort | vsubShort | vmulShort | vmulhShort | vminShort | vmaxShort | vabsShort | vandShort | vorShort | vxorShort
    | vandnShort | vshlShort | vshrShort | vsarShort | vrolShort | vpopcShort | vclzShort | vbrevShort | vmovShort
    | shflShort | bcastShort | ballotShort | vanyShort | vallShort => exact run
  case nopShort | saddShort | ssubShort | sandShort | sorShort | sxorShort | sandnShort | sshlShort | sshrShort | ssarShort
    | smovShort | spopcShort | faddShort | fsubShort | fmulShort | fminShort | fmaxShort | frcpShort | frsqShort | fsqrtShort
    | fexp2Short | flog2Short | fsinShort | fcosShort | ftanhShort | frintShort => exact absurd hgrp (by decide)
  all_goals rfl

/-! ### The start of a vector instruction -/

/-- A vector instruction that reads no unchecked register, in its own lanes or in others, runs for its active lanes (R61, R70, R239). -/
theorem startVec_issues {s : State} {a : Agent} {g : Group} {f : LF} {srcs : List (Spec × Nat)} {far : Far}
    {k : Agent → Group → Rd → List Nat → Out State} (hi : Issues s a g) (hr : Readable f g (activeOf f (s.rd g)) srcs)
    (hfar : gmStrict g.gmode = true → g.unchecked (far.lanes (s.rd g) (activeLanes f s g)) far.srcs = false) :
    startVec s true f srcs far k = k a g (s.rd g) (activeLanes f s g) := by
  obtain ⟨rfl, hg, -, -, hb⟩ := hi
  refine startVec_run hg hb ?_
  rw [vecHazard, hr, Bool.false_or, Bool.and_eq_false_imp]
  exact hfar

/-- An instruction without sources in other lanes meets no hazard there (R239). -/
theorem unchecked_nil (g : Group) (lanes : W64) : g.unchecked lanes [] = false := by
  simp [Group.unchecked]

/-- The start of a vector instruction that reads its own lanes only. -/
theorem startVec_near {s : State} {a : Agent} {g : Group} {f : LF} {srcs : List (Spec × Nat)}
    {k : Agent → Group → Rd → List Nat → Out State} (hi : Issues s a g) (hr : Readable f g (activeOf f (s.rd g)) srcs) :
    startVec s true f srcs {} k = k a g (s.rd g) (activeLanes f s g) :=
  startVec_issues hi hr fun _ => unchecked_nil g _

/-! ### Masks of lanes -/

theorem getLsbD_oneBit (i j : Nat) : (1 <<< i : W64).getLsbD j = (decide (j < 64) && decide (i = j)) := by
  rw [BitVec.natCast_eq_ofNat, BitVec.getLsbD_ofNat, Nat.one_shiftLeft, Nat.testBit_two_pow]

/-- The mask of some lanes has a bit for each of them that a word holds. -/
theorem getLsbD_maskOf (ls : List Nat) (j : Nat) : (maskOf ls).getLsbD j = (decide (j ∈ ls) && decide (j < 64)) := by
  have acc : ∀ m : W64, (ls.foldl (fun m i => m ||| (1 <<< i : W64)) m).getLsbD j = (m.getLsbD j || (decide (j ∈ ls) && decide (j < 64))) := by
    induction ls with
    | nil => simp
    | cons i ls ih =>
      intro m
      rw [List.foldl_cons, ih, BitVec.getLsbD_or, getLsbD_oneBit]
      by_cases hj : j < 64 <;> simp [hj, Bool.or_assoc, eq_comm]
  rw [maskOf, acc]
  simp

theorem maskOf_congr {xs ys : List Nat} (h : ∀ l, l ∈ xs ↔ l ∈ ys) : maskOf xs = maskOf ys :=
  BitVec.eq_of_getLsbD_eq fun j _ => by rw [getLsbD_maskOf, getLsbD_maskOf, decide_eq_decide.mpr (h j)]

/-- maskWhere is the mask of the lanes for which p holds (R228, R244, R245). -/
theorem isMask_maskWhere (lanes : List Nat) (p : Nat → Bool) : isMask lanes p (maskWhere lanes p) := by
  intro l
  rw [maskWhere, getLsbD_maskOf, Bool.and_right_comm]
  simp [List.mem_filter, Bool.decide_and]

theorem anyOf_eq (lanes : List Nat) (p : Nat → Bool) [Decidable (∃ l ∈ lanes, p l = true)] :
    anyOf lanes p = if ∃ l ∈ lanes, p l = true then 1 else 0 := if_congr List.any_eq_true rfl rfl

theorem allOf_eq (lanes : List Nat) (p : Nat → Bool) [Decidable (∀ l ∈ lanes, p l = true)] :
    allOf lanes p = if ∀ l ∈ lanes, p l = true then 1 else 0 := if_congr List.all_eq_true rfl rfl

/-! ### Outstanding results -/

/-- An outstanding result and its end leave the registers that only the instructions named for them write (R67). -/
theorem sameSpecial_posted (g : Group) (ls : List Lane) (n : Nat) (ctr : W64) (held : Option W64) (rs : List Res) (sw : Bool) (pc : Pc) :
    SameSpecial g (Group.ended { g with lanes := ls, pushes := n, srCtr := ctr, srHeld := held, results := rs } sw pc) :=
  ⟨rfl, rfl, rfl, rfl, rfl, rfl, rfl, rfl, rfl, rfl, ⟨rfl, rfl, rfl, rfl, rfl, rfl, rfl⟩, rfl, rfl, rfl⟩

/-- A result of groups 0x2 to 0xA for an s register, without flags (R67). -/
theorem finish_sEffect {s : State} {a : Agent} {g : Group} {f : LF} (hi : Issues s a g) (x : W64) :
    SEffect s a g f x [] false (s.finish a (g.postS f.dst x) f.sw) := by
  cases hd : f.dst
  case s => exact ⟨_, finishAt_completes f.sw s.cur.next hi.rest, sameSpecial_posted .., rfl, rfl, rfl, rfl, by rw [hd]; rfl⟩
  all_goals exact ⟨_, finishAt_completes f.sw s.cur.next hi.rest, sameSpecial_posted .., rfl, rfl, rfl, rfl, by rw [hd]; exact .inl rfl⟩

/-- A push of k slots shifts the queues of all lanes and counts its slots (R60). -/
theorem pushZeros_eq (g : Group) (k : Nat) :
    g.pushZeros k = { g with lanes := (List.map Lane.push0)^[k] g.lanes, pushes := g.pushes + k } := by
  induction k generalizing g with
  | zero => rfl
  | succ k ih => rw [Group.pushZeros, ih, Nat.add_assoc, Nat.add_comm 1]; rfl

/-- A vector result for which no slots are reserved: it is outstanding, and a push has shifted the queues (R60, R67). -/
theorem postV_eq {g : Group} (h : g.reserved = 0) (d : Spec) (k : Nat) (vals : List (Nat × List W32)) (fl : List (Nat × Nat)) :
    g.postV d k vals fl = { g with
      lanes := if isPush d then (List.map Lane.push0)^[k] g.lanes else g.lanes, pushes := if isPush d then g.pushes + k else g.pushes
      results := g.results ++ [{ writes := vWrites d g.pushes vals, flags := fl }] } := by
  cases hd : isPush d <;> simp [Group.postV, h, hd, Group.post, pushZeros_eq]

/-! ### The end of a vector instruction -/

/-- A group whose SR counter has counted the instruction, when it rounds stochastically (R100). -/
def Group.counted (g : Group) (sr : Bool) : Group := if sr then { g with srCtr := g.srCtr + 1, srHeld := some g.srCtr } else g

theorem counted_eq (g : Group) (sr : Bool) : ∃ held, g.counted sr = { g with srCtr := if sr then g.srCtr + 1 else g.srCtr, srHeld := held } := by
  cases sr <;> exact ⟨_, rfl⟩

/-- Where no lane raises an enabled exception, a vector instruction counts and posts its result with the flags of the lanes
that raise any (R95, R96). -/
theorem vecEnd_run {s : State} {a : Agent} {g : Group} {f : LF} {sr : Bool} {flags : List (Nat × Nat)} {post : Group → List (Nat × Nat) → Group}
    (hheld : g.srHeld = none) (hcalm : gmFexc g.gmode = true → ∀ p ∈ flags, p.2 % 8 = 0) :
    vecEnd s a g f sr flags post = .next (s.finish a (post (g.counted sr) (flags.filter fun p => p.2 != 0)) f.sw) := by
  have hbad : (gmFexc g.gmode && !(flags.filter fun p => fexcKinds p.2 != 0).isEmpty) = false := by
    rw [Bool.and_eq_false_imp]
    intro hx
    simpa [fexcKinds] using hcalm hx
  simp [vecEnd, hbad, hheld, Group.counted]

/-- A result of groups 0x2 to 0xA for an s register with flags, where the instruction may have counted (R67, R95, R100). -/
theorem finish_sEffect_flags {s : State} {a : Agent} {g : Group} {f : LF} (hi : Issues s a g) (sr : Bool) (x : W64) (fl : List (Nat × Nat)) :
    SEffect s a g f x fl sr (s.finish a ((g.counted sr).postSF f.dst x fl) f.sw) := by
  obtain ⟨held, hc⟩ := counted_eq g sr
  rw [hc]
  cases hd : f.dst
  case s => exact ⟨_, finishAt_completes f.sw s.cur.next hi.rest, sameSpecial_posted .., rfl, rfl, rfl, rfl, by rw [hd]; rfl⟩
  all_goals exact ⟨_, finishAt_completes f.sw s.cur.next hi.rest, sameSpecial_posted .., rfl, rfl, rfl, rfl, by rw [hd]; exact .inr rfl⟩

/-- What a vector result of k slots in each lane leaves, where no lane raises an enabled exception (R60, R67, R95, R100). -/
theorem vecDone_run {s : State} {a : Agent} {g : Group} {f : LF} {sr : Bool} {k : Nat} {vals : List (Nat × List W32 × Nat)} (hi : Issues s a g)
    (hcalm : gmFexc g.gmode = true → ∀ p ∈ vals, p.2.2 % 8 = 0) :
    ∃ t h, vecDone s a g f sr k vals = .next t ∧ Completes s a h f.sw s.cur.next t ∧ SameSpecial g h ∧ h.sregs = g.sregs ∧ h.ops = g.ops ∧
      h.srCtr = (if sr then g.srCtr + 1 else g.srCtr) ∧ h.lanes = (if isPush f.dst then (g.pushZeros k).lanes else g.lanes) ∧
      h.results = g.results ++ [{ writes := vWrites f.dst g.pushes (vals.map fun p => (p.1, p.2.1))
                                  flags := (vals.map fun p => (p.1, p.2.2)).filter fun p => p.2 != 0 }] := by
  obtain ⟨hheld, hres⟩ := hi.fresh
  have hrun := vecEnd_run (s := s) (a := a) (f := f) (sr := sr) (flags := vals.map fun p => (p.1, p.2.2))
    (post := fun g fl => g.postV f.dst k (vals.map fun p => (p.1, p.2.1)) fl) hheld fun hx p hp => by
      obtain ⟨q, hq, rfl⟩ := List.mem_map.mp hp
      exact hcalm hx q hq
  obtain ⟨held, hc⟩ := counted_eq g sr
  rw [hc, postV_eq (by exact hres)] at hrun
  exact ⟨_, _, hrun, finishAt_completes f.sw s.cur.next hi.rest, sameSpecial_posted .., rfl, rfl, rfl, by rw [pushZeros_eq]; rfl, rfl⟩

/-- A vector result with one value in each of some lanes (R60, R67, R95, R100). -/
theorem vecDone_vecEffect {s : State} {a : Agent} {g : Group} {f : LF} {sr : Bool} {k : Nat} {lanes : List Nat} {words : Nat → List W32}
    {flags : Nat → Nat} (hi : Issues s a g) (hcalm : gmFexc g.gmode = true → ∀ l ∈ lanes, flags l % 8 = 0) :
    ∃ t, vecDone s a g f sr k (lanes.map fun l => (l, words l, flags l)) = .next t ∧ VecEffect s a g f k lanes words flags sr t := by
  obtain ⟨t, h, hrun, hdone, hspecial, hs, hops, hctr, hlanes, hres⟩ :=
    vecDone_run (f := f) (sr := sr) (k := k) (vals := lanes.map fun l => (l, words l, flags l)) hi (by simpa using hcalm)
  simp only [List.map_map, Function.comp_def] at hres
  exact ⟨t, hrun, h, hdone, hspecial, hs, hops, hctr, hlanes, hres⟩

end Sys2Proof.Machine
end

section
/-! PROOF. O22: the shuffles and BCAST. -/

namespace Sys2Proof.Machine

/-! ### The lane that is read (R241) -/

/-- The code of a shuffle in shflSource. -/
def shuffleKind : Instr → Nat
  | .shfl _ => 0
  | .shflx _ => 1
  | .shflup _ => 2
  | _ => 3

/-- The four shuffles are one operation with four source lanes (R241). -/
theorem exec_shuffle {j : Instr} {f : LF} (s : State) (hj : j = .shfl f ∨ j = .shflx f ∨ j = .shflup f ∨ j = .shfldn f) :
    exec j s = shuffle j.wf f s (shuffleKind j) := by
  rcases hj with rfl | rfl | rfl | rfl <;> rfl

/-- The segment of a code (R241). -/
theorem segOf_eq (f : LF) (w : Nat) : segOf w f.mod.toNat = if f.mod = 0 then w else min w (2 ^ (f.mod.toNat + 1)) := by
  have e : f.mod.toNat = 0 ↔ f.mod = 0 := BitVec.toNat_inj (y := 0)
  simp only [segOf, e, Nat.pow_succ']

/-- The source lane of a shuffle is the lane that R241 names. -/
theorem shflSource_eq_shuffleLane {j : Instr} {f : LF} (r : Rd) (l : Nat) (hj : j = .shfl f ∨ j = .shflx f ∨ j = .shflup f ∨ j = .shfldn f) :
    shflSource (shuffleKind j) r.g.width f.mod.toNat l (r.index f l) = shuffleLane j f r l := by
  rcases hj with rfl | rfl | rfl | rfl
  all_goals simp only [shuffleKind, shflSource, shuffleLane, segOf_eq, Rd.index, Nat.div_mul_self_eq_mod_sub_self, ge_iff_le]

/-! ### What a shuffle and a BCAST leave -/

/-- A shuffle that reads no unchecked index and no unchecked element (R239, R241). -/
theorem shuffle_vecEffect {s : State} {a : Agent} {g : Group} {j : Instr} {f : LF} (hi : Issues s a g)
    (hj : j = .shfl f ∨ j = .shflx f ∨ j = .shflup f ∨ j = .shfldn f) (hr : Readable f g (activeOf f (s.rd g)) (srcSlots .n32 [f.sb]))
    (hfar : gmStrict g.gmode = true → g.unchecked (maskOf ((activeLanes f s g).map (shuffleLane j f (s.rd g)))) (srcSlots f.ty [f.sa]) = false) :
    ∃ t, shuffle true f s (shuffleKind j) = .next t ∧
      VecEffect s a g f (if f.ty.wide then 2 else 1) (activeLanes f s g)
        (fun l => slotWords f.ty ((s.rd g).src 0 f.lit f.ty f.sa (shuffleLane j f (s.rd g) l))) (fun _ => 0) false t := by
  simp only [shuffle, shflSource_eq_shuffleLane _ _ hj]
  rw [startVec_issues hi hr hfar]
  exact vecDone_vecEffect hi fun _ _ _ => rfl

/-- The lanes that BCAST reads: the one lane of R243, for any active lane. -/
theorem maskOf_broadcast (lanes : List Nat) (x : Nat) : (if lanes.isEmpty then 0 else maskOf [x]) = maskOf (lanes.map fun _ => x) := by
  cases lanes with
  | nil => rfl
  | cons y ys => exact maskOf_congr fun l => by simp [eq_comm]

/-- A BCAST that reads no unchecked index and no unchecked element (R239, R243). -/
theorem broadcast_vecEffect {s : State} {a : Agent} {g : Group} {f : LF} (hi : Issues s a g)
    (hr : Readable f g (activeOf f (s.rd g)) [(f.sb, 1)])
    (hfar : gmStrict g.gmode = true →
      g.unchecked (maskOf ((activeLanes f s g).map (shuffleLane (.bcast f) f (s.rd g)))) (srcSlots f.ty [f.sa]) = false) :
    ∃ t, broadcast true f s = .next t ∧
      VecEffect s a g f (if f.ty.wide then 2 else 1) (activeLanes f s g)
        (fun l => slotWords f.ty ((s.rd g).src 0 f.lit f.ty f.sa (shuffleLane (.bcast f) f (s.rd g) l))) (fun _ => 0) false t := by
  simp only [broadcast, maskOf_broadcast]
  rw [startVec_issues hi hr hfar]
  exact vecDone_vecEffect hi fun _ _ _ => rfl

/-- Settles O22: a short form runs as its long form (exec_asLong), and each long form reads the lane that R241 or R243 names
(shuffle_vecEffect, broadcast_vecEffect). -/
theorem shuffleResults : Obligations.ShuffleResults := by
  rintro s a g i j f hi - hij hw hj hr hfar
  have hg : s.ag? s.cur.agent = some g := by rw [hi.cur, hi.ag]
  obtain ⟨fn, hl⟩ : ∃ fn, (i.asLong g).long? = some (4, fn, f) := by
    rw [hij]
    rcases hj with rfl | rfl | rfl | rfl | rfl <;> exact ⟨_, rfl⟩
  rw [exec_asLong hg hl (.inr rfl), hij]
  by_cases hb : j = .bcast f
  · subst hb
    rw [if_pos rfl] at hr
    obtain ⟨t, hrun, heff⟩ := broadcast_vecEffect hi hr hfar
    exact ⟨t, (congrArg (fun w => broadcast w f s) hw).trans hrun, heff⟩
  · rw [if_neg hb] at hr
    have hsh : j = .shfl f ∨ j = .shflx f ∨ j = .shflup f ∨ j = .shfldn f := by tauto
    rw [exec_shuffle s hsh, hw]
    exact shuffle_vecEffect hi hsh hr hfar

end Sys2Proof.Machine
end

section
/-! PROOF. O14: the integer compare and the votes. -/

namespace Sys2Proof.Machine

/-- A vote that reads no unchecked register gives DST its function of the active lanes with a non-zero element (R244). -/
theorem vote_run {s : State} {a : Agent} {g : Group} {f : LF} (fn : List Nat → (Nat → Bool) → W64) (hi : Issues s a g)
    (hr : Readable f g (activeOf f (s.rd g)) (srcSlots f.ty [f.sa])) :
    vote true f s fn =
      .next (s.finish a (g.postS f.dst (fn (activeLanes f s g) fun l => (s.rd g).src 0 f.lit f.ty f.sa l % 2 ^ f.ty.bits != 0)) f.sw) :=
  startVec_near hi hr

/-- VCMP gives DST the mask of the active lanes whose elements compare (R228). -/
theorem vcmp_run {s : State} {a : Agent} {g : Group} {f : LF} (hi : Issues s a g) (hw : (Instr.vcmp f).wf = true)
    (hr : Readable f g (activeOf f (s.rd g)) (srcSlots f.ty [f.sa, f.sb])) :
    exec (.vcmp f) s = .next (s.finish a (g.postS f.dst (maskWhere (activeLanes f s g) fun l =>
      cmpInt f.ext.toNat (intOf f.ty ((s.rd g).src 0 f.lit f.ty f.sa l)) (intOf f.ty ((s.rd g).src 1 f.lit f.ty f.sb l)))) f.sw) := by
  change execVcmp f s = _
  rw [execVcmp, show Wf.vcmp f = true from hw, startVec_near hi hr]

/-- What a vote makes of the active lanes and of what holds in each (R244). -/
def voteFn : Instr → List Nat → (Nat → Bool) → W64
  | .ballot _ => maskWhere
  | .vany _ => anyOf
  | _ => allOf

/-- The votes are one operation with three functions (R244). -/
theorem exec_vote {j : Instr} {f : LF} (s : State) (hj : j = .ballot f ∨ j = .vany f ∨ j = .vall f) :
    exec j s = vote j.wf f s (voteFn j) := by
  rcases hj with rfl | rfl | rfl <;> rfl

/-- Settles O14: VCMP and BALLOT write maskWhere of the active lanes (isMask_maskWhere), VANY and VALL anyOf and allOf. -/
theorem compareAndVoteResults : Obligations.CompareAndVoteResults := by
  refine ⟨fun s a g f hi hw hr => ⟨_, _, vcmp_run hi hw hr, finish_sEffect hi _, isMask_maskWhere _ _⟩, ?votes⟩
  rintro s a g i j f hi - hij hw hj hr p
  have hg : s.ag? s.cur.agent = some g := by rw [hi.cur, hi.ag]
  obtain ⟨fn, hl⟩ : ∃ fn, (i.asLong g).long? = some (4, fn, f) := by
    rw [hij]
    rcases hj with rfl | rfl | rfl <;> exact ⟨_, rfl⟩
  rw [exec_asLong hg hl (.inr rfl), hij, exec_vote s hj, hw, vote_run _ hi hr]
  refine ⟨_, _, rfl, finish_sEffect hi _, ?ballot, ?vany, ?vall⟩
  case ballot =>
    rintro rfl
    exact isMask_maskWhere _ p
  case vany =>
    rintro rfl
    exact anyOf_eq _ p
  case vall =>
    rintro rfl
    exact allOf_eq _ p

end Sys2Proof.Machine
end

section
/-! PROOF. O23: PUT, MATCH, REDUX and SCAN. -/

namespace Sys2Proof.Machine

/-! ### PUT (R242) -/

theorem dst_of_shapeOk {h : Shape} {f : LF} (hf : h.ok f = true) : h.dst f.dst = true := by
  simp only [Shape.ok, Bool.and_eq_true] at hf
  tauto

theorem isPush_of_isVMul {k : Nat} {x : Spec} (h : x.isVMul k = true) : isPush x = false := by
  cases x with
  | q => cases h
  | _ => rfl

/-- A PUT that reads no unchecked register sends each active lane's element, in ascending order, and pushes nothing (R242). -/
theorem put_result {s : State} {a : Agent} {g : Group} {f : LF} (hi : Issues s a g) (hw : (Instr.put f).wf = true)
    (hr : Readable f g (activeOf f (s.rd g)) (srcSlots f.ty [f.sa] ++ srcSlots .n32 [f.sb])) :
    ∃ t h, exec (.put f) s = .next t ∧ Completes s a h f.sw s.cur.next t ∧ SameSpecial g h ∧ h.sregs = g.sregs ∧ h.lanes = g.lanes ∧
      h.results = g.results ++ [{ writes := vWrites f.dst g.pushes ((activeLanes f s g).map fun l =>
        ((s.rd g).src 1 f.lit .n32 f.sb l % g.width, slotWords f.ty ((s.rd g).src 0 f.lit f.ty f.sa l))) }] := by
  have hpush : isPush f.dst = false := isPush_of_isVMul (dst_of_shapeOk (h := shPut f) hw)
  change ∃ t h, execPut f s = .next t ∧ _
  rw [execPut, show Wf.put f = true from hw, startVec_near hi hr]
  obtain ⟨t, h, hrun, hdone, hspecial, hs, -, -, hlanes, hres⟩ := vecDone_run (f := f) (sr := false) (k := if f.ty.wide then 2 else 1)
    (vals := ((activeLanes f s g).map fun l => ((s.rd g).index f l % g.width, slotWords f.ty ((s.rd g).src 0 f.lit f.ty f.sa l))).map
      fun p => (p.1, p.2, 0)) hi (by simp)
  refine ⟨t, h, hrun, hdone, hspecial, hs, ?lanes, ?results⟩
  case lanes => simpa [hpush] using hlanes
  case results => simpa [Function.comp_def, Rd.index, List.filter_map] using hres

/-! ### MATCH (R245) -/

/-- The mask of MATCH in a lane: the active lanes with its element, when the lane is active (R245). -/
def matchMask (f : LF) (r : Rd) (lanes : List Nat) (l : Nat) : W64 :=
  if lanes.contains l then maskWhere lanes fun j => matches' (f.ext == 1) f.ty (r.elem f l) (r.elem f j) else 0

theorem isMask_matchMask (f : LF) (r : Rd) (lanes : List Nat) (l : Nat) :
    isMask lanes (fun k => decide (l ∈ lanes) && matches' (f.ext == 1) f.ty (r.elem f l) (r.elem f k)) (matchMask f r lanes l) := by
  by_cases hl : l ∈ lanes
  · simp only [matchMask, List.contains_iff_mem.mpr hl, if_true, hl, decide_true, Bool.true_and]
    exact isMask_maskWhere _ _
  · intro k
    simp [matchMask, hl]

/-- A mask as a pair of registers (R58). -/
theorem slotWords_mask (m : W64) : slotWords .n64 m.toNat = [m.setWidth 32, (m >>> 32).setWidth 32] := by
  have lo : BitVec.ofNat 32 m.toNat = m.setWidth 32 := rfl
  have hi : BitVec.ofNat 32 (m.toNat / 2 ^ 32) = (m >>> 32).setWidth 32 := by
    rw [← Nat.shiftRight_eq_div_pow]
    rfl
  rw [← lo, ← hi]
  rfl

/-- A MATCH that reads no unchecked register gives each lane its mask (R245). -/
theorem match_vecEffect {s : State} {a : Agent} {g : Group} {f : LF} (hi : Issues s a g) (hw : (Instr.matchLanes f).wf = true)
    (hr : Readable f g (activeOf f (s.rd g)) (srcSlots f.ty [f.sa])) :
    ∃ t, exec (.matchLanes f) s = .next t ∧
      VecEffect s a g f 2 (List.range g.width) (fun l => slotWords .n64 (matchMask f (s.rd g) (activeLanes f s g) l).toNat) (fun _ => 0) false t := by
  change ∃ t, execMatchLanes f s = .next t ∧ _
  rw [execMatchLanes, show Wf.matchLanes f = true from hw, startVec_near hi hr]
  exact vecDone_vecEffect hi fun _ _ _ => rfl

/-! ### REDUX and SCAN (R246) -/

/-- Without active lanes there are no flags to speak of. -/
theorem ite_isEmpty_map {α β : Type} (xs : List α) (f : α → β) : (if xs.isEmpty then [] else xs.map f) = xs.map f := by
  cases xs <;> rfl

/-- The elements that SCAN reduces in a lane are those of the active lanes up to it, or below it with `.ex` (R246). -/
theorem scan_lanes (lanes : List Nat) (ex : Bool) (l : Nat) :
    (lanes.filter fun j => decide (j < l) || (!ex && j == l)) = lanes.filter fun k => if ex then decide (k < l) else decide (k ≤ l) := by
  congr 1
  funext k
  cases ex <;> simp [Nat.le_iff_lt_or_eq, beq_eq_decide]

/-- A REDUX that reads no unchecked register and raises no enabled exception (R246). -/
theorem redux_sEffect {s : State} {a : Agent} {g : Group} {f : LF} {y : Nat × Nat} (hi : Issues s a g) (hw : (Instr.redux f).wf = true)
    (hr : Readable f g (activeOf f (s.rd g)) (srcSlots f.ty [f.sa]))
    (hy : y = reduce f.mod.toNat (reduxEnv f g f.mod.toNat 0) ((activeLanes f s g).map fun l => (s.rd g).src 0 f.lit f.ty f.sa l))
    (hcalm : gmFexc g.gmode = true → activeLanes f s g ≠ [] → y.2 % 8 = 0) :
    ∃ t, exec (.redux f) s = .next t ∧
      SEffect s a g f (if f.ty.isInt then BitVec.ofInt 64 (intOf f.ty y.1) else BitVec.ofNat 64 y.1) (raisedBy (activeLanes f s g) fun _ => y.2)
        (f.mod.toNat == 6 && modeOf f g == .sr) t := by
  have calm : gmFexc g.gmode = true → ∀ p ∈ (activeLanes f s g).map fun l => (l, y.2), p.2 % 8 = 0 := by
    intro hx p hp
    obtain ⟨l, hl, rfl⟩ := List.mem_map.mp hp
    exact hcalm hx (List.ne_nil_of_mem hl)
  change ∃ t, execRedux f s = .next t ∧ _
  simp only [execRedux, show Wf.redux f = true from hw, startVec_near hi hr, ← hy, ite_isEmpty_map]
  rw [vecEnd_run hi.fresh.1 calm]
  exact ⟨_, rfl, finish_sEffect_flags hi _ _ _⟩

/-- A SCAN that reads no unchecked register and raises no enabled exception (R246). -/
theorem scan_vecEffect {s : State} {a : Agent} {g : Group} {f : LF} {y : Nat → Nat × Nat} (hi : Issues s a g) (hw : (Instr.scan f).wf = true)
    (hr : Readable f g (activeOf f (s.rd g)) (srcSlots f.ty [f.sa]))
    (hy : ∀ l, y l = reduce (f.mod.toNat % 16) (reduxEnv f g (f.mod.toNat % 16) l)
      (((activeLanes f s g).filter fun k => if f.mod.getLsbD 4 then decide (k < l) else decide (k ≤ l)).map
        fun k => (s.rd g).src 0 f.lit f.ty f.sa k))
    (hcalm : gmFexc g.gmode = true → ∀ l ∈ activeLanes f s g, (y l).2 % 8 = 0) :
    ∃ t, exec (.scan f) s = .next t ∧
      VecEffect s a g f (if f.ty.wide then 2 else 1) (activeLanes f s g) (fun l => slotWords f.ty (y l).1) (fun l => (y l).2)
        (f.mod.toNat % 16 == 6 && modeOf f g == .sr) t := by
  change ∃ t, execScan f s = .next t ∧ _
  simp only [execScan, show Wf.scan f = true from hw, startVec_near hi hr, scan_lanes, ← hy]
  exact vecDone_vecEffect hi hcalm

/-- Settles O23: PUT (put_result), MATCH (match_vecEffect, isMask_matchMask), REDUX (redux_sEffect) and SCAN (scan_vecEffect). -/
theorem crossLaneResults : Obligations.CrossLaneResults := by
  intro s a g f hi r lanes val
  refine ⟨put_result hi, fun hw _ hr => ?matchLanes, fun hw hr hcalm => ?redux, fun hw hr hcalm => ?scan⟩
  case matchLanes =>
    obtain ⟨t, hrun, heff⟩ := match_vecEffect hi hw hr
    simp only [slotWords_mask] at heff
    exact ⟨matchMask f r lanes, t, hrun, heff, fun l _ => isMask_matchMask f r lanes l⟩
  case redux =>
    obtain ⟨t, hrun, heff⟩ := redux_sEffect hi hw hr rfl hcalm
    exact ⟨_, t, hrun, rfl, heff⟩
  case scan => exact scan_vecEffect hi hw hr (fun _ => rfl) hcalm

end Sys2Proof.Machine
end
